-- ==== Sys2Proof/Word.lean ====
section
/-! DEFINITION. The word types of the Trelen 8840 and their plainest arithmetic (R4, R5, R61). -/

namespace Sys2Proof

/-- A 64-bit scalar register, address or control-register value (R61). -/
abbrev Word := BitVec 64

/-- One byte (R4: memory and instruction words are little-endian). -/
abbrev Byte := BitVec 8

/-- A 5-bit register field: x, f, v or q as the group decides (R27). -/
abbrev Reg := BitVec 5

/-- A 3-bit mask register field, k0 to k7 (R27). -/
abbrev KReg := BitVec 3

/-- The number of a hart position of the module: 4 × core + h (R52). -/
abbrev HartId := Fin 128

/-- A core of the module (R15). -/
abbrev CoreId := Fin 32

/-- A lane chiplet (R15). -/
abbrev ChipletId := Fin 8

/-- The elements of one vector or mask register (R102, R132). -/
abbrev VLMAX : Nat := 32768

/-- One plane row of a vector register, or one mask register: bit i belongs to element i (R102, R132). -/
abbrev Plane := BitVec 32768

end Sys2Proof
end

