-- ==== Sys2Proof/Config.lean ====
section
/-! DEFINITION. What an implementation fixes (the part, R12, R13, R67) and the free values of the model: what
the manual leaves open is an opaque constant here, with no body, so that no proof can see its value. -/

namespace Sys2Proof

/-- The three parts of the family (Table 0.3). -/
inductive Part where
  | p8840 | p8820 | p8810
  deriving DecidableEq, Repr

namespace Config

/-- Cores of the part (Table 0.3, R25). -/
def cores : Part → Nat
  | .p8840 => 32 | .p8820 => 16 | .p8810 => 8

/-- Lane chiplets of the part (Table 0.3). -/
def chiplets : Part → Nat
  | .p8840 => 8 | .p8820 => 4 | .p8810 => 2

/-- HBM stacks of the part, or its DRAM channels (Tables 0.3 and 13.2). -/
def stackCount : Part → Nat
  | .p8840 => 8 | .p8820 => 4 | .p8810 => 8

/-- Whether the Weave unit is present (Table 0.3). -/
def hasWeave : Part → Bool
  | .p8840 => true | _ => false

/-- Whether the FAB group and the Yoter ports are present (Table 0.3, R13). -/
def hasFab : Part → Bool
  | .p8810 => false | _ => true

/-- Yoter ports of the part (Table 0.3). -/
def ports : Part → Nat
  | .p8840 => 16 | .p8820 => 8 | .p8810 => 0

/-- Bytes of global memory (Table 7.2). -/
def memBytes : Part → Nat
  | .p8840 => 0x06000000000 | .p8820 => 0x03000000000 | .p8810 => 0x04000000000

/-- The part number of feat.PART (Table 3.6). -/
def partNumber : Part → Nat
  | .p8840 => 0x2288 | .p8820 => 0x2274 | .p8810 => 0x226A

/-- The silicon stepping, feat.STEP (Table 3.6): each implementation fixes it. FREE VALUE, log 1. -/
opaque stepping : BitVec 8

/-- A byte the host answers for a host-window read: what host memory holds lies outside the device (R222, R381).
The first argument is the model's free-value counter, the second the host address. FREE VALUE, log 2. -/
opaque hostByte : Nat → Nat → Byte

/-- A free choice of the hardware where a rule lists several outcomes (R131, R218, R219, R274): the first argument
is the free-value counter, the second an element number. FREE VALUE, log 3. -/
opaque freeBit : Nat → Nat → Bool

/-- A free number of the hardware (R131, the element group an error is found in). FREE VALUE, log 3. -/
opaque freeNat : Nat → Nat → Nat

/-- The vendor key fused in Umawyn, its coordinates as octets (R400, R401): the manual gives no key. FREE VALUE, log 4. -/
opaque vendorKey : List Byte

/-- The identity private key that Umawyn derives from a fused seed (R402). FREE VALUE, log 4. -/
opaque identityKey : Nat

/-- The secret number of a signature that Umawyn makes, by the bytes signed (R401). FREE VALUE, log 4. -/
opaque signatureSecret : List Byte → Nat

/-- The header and body of an image, over which it is signed (R400): the layout is not given. FREE VALUE, log 4. -/
opaque signedPart : List Byte → List Byte

/-- The 96 octets of an image's signature (R400, R401). FREE VALUE, log 4. -/
opaque signaturePart : List Byte → List Byte

/-- The SVN an image's header carries, and its FWVER (R400): the header's layout is not given. FREE VALUE, log 4. -/
opaque imageSvn : List Byte → BitVec 16

/-- The FWVER an image's header carries (R400). FREE VALUE, log 4. -/
opaque imageFwver : List Byte → BitVec 32

/-- The bytes of the device identity certificate (R402, GETCERT). FREE VALUE, log 4. -/
opaque certificate : List Byte

/-- The fused minimum SVN (R400). FREE VALUE, log 4. -/
opaque fusedSvn : BitVec 16

/-- The HBM stack (on the 8810 the DRAM channel) that holds a line, as tval reports it (Table 13.2): the numbering is
not given. FREE VALUE, log 10. -/
opaque stackNumber : Nat → BitVec 3

/-- The LLC slice that holds a line, as tval reports it (Table 13.2): the numbering is not given. FREE VALUE, log 10. -/
opaque sliceNumber : Nat → BitVec 6

/-- What an exploration on the trained ports finds beside this module: the IDs of the other modules, and the links
between places of the graph, 0 for this one, as source, port and destination (R384): the modules lie outside the device.
The argument is the free-value counter. FREE VALUE, log 59. -/
opaque fabricGraph : Nat → List (BitVec 8) × List (Nat × Nat × Nat)

/-- The module whose router is a node of a collective's tree, by CID, level and index (R390): the places of the tree's
nodes are not given. FREE VALUE, log 62. -/
opaque combineHome : BitVec 32 → Nat → Nat → BitVec 8

/-- Module power in milliwatts (Table 17.3). FREE VALUE, log 5. -/
opaque milliwatts : Nat → BitVec 32

end Config

end Sys2Proof
end

