-- ==== Sys2Proof/Syntax.lean ====
section
/-! DEFINITION. The instructions and events of the module: one constructor for each row of spec/opcode_table.json.
The first 263 are the instruction words of Tables 2.3 to 2.7 and the four modes of a tcinv write; the rest are the
steps that engines, base camp, the host, the fabric and the power and trust blocks take. An event's operands are what
comes from outside the machine. -/

namespace Sys2Proof

/-- The b operand of a V-format word by fn[7:6] (R34): a vector, a scalar or an immediate. -/
inductive BSrc where
  | vec (r : Reg) | scalar (r : Reg) | imm (i : BitVec 5)
  deriving DecidableEq, Repr

/-- The b operand of a V-format group that takes no immediate (VFP and the floating compares, Table 2.4). -/
inductive VsSrc where
  | vec (r : Reg) | scalar (r : Reg)
  deriving DecidableEq, Repr

/-- The b operand of the slides: a scalar or an immediate (Table 5.3). -/
inductive SiSrc where
  | scalar (r : Reg) | imm (i : BitVec 5)
  deriving DecidableEq, Repr

/-- Floating precision of an FPU word, fn[4] (Table 2.3). -/
inductive Prec where
  | s | d
  deriving DecidableEq, Repr

/-- Rounding of an FPU word, fn[7:5] (Table 2.3, R89). -/
inductive Rnd where
  | rne | rtz | rdn | rup | rmm
  deriving DecidableEq, Repr

/-- AMO width, fn[8]. -/
inductive AmoWidth where
  | w | d
  deriving DecidableEq, Repr

/-- AMO and FENCE scope (Table 8.2). -/
inductive Scope where
  | h | c | p | s
  deriving DecidableEq, Repr

/-- AMO order, fn[5:4] (R247). -/
inductive Order where
  | none | acq | rel | ar
  deriving DecidableEq, Repr

/-- FENCE set, fn[7:6] (R234). -/
inductive FenceSet where
  | rw | r | w
  deriving DecidableEq, Repr

/-- The scalar AMO operations (R246). -/
inductive AmoOp where
  | add | and | or | xor | min | max | minu | maxu | swap | cas
  deriving DecidableEq, Repr

/-- Why a transposer copy stops at a chunk (R298, R366). -/
inductive CopyError where
  | mem | llc | laneSram | fabricTimeout | chipletFenced
  deriving DecidableEq, Repr

/-- One adjacency of the fabric graph that exploration floods: port `port` of module `src` reaches module `dst` (R384).
Modules are named by their place in the graph, 0 for this one, for two of them may have one ID. -/
structure Link where
  src : Nat
  port : Nat
  dst : Nat
  deriving DecidableEq, Repr

/-- What an exploration finds (R384): the IDs of the other modules, by place from 1 on, and the links. -/
structure FabricMap where
  idents : List Byte
  links : List Link
  deriving DecidableEq, Repr

/-- One write of a train, at an offset of this module's memory (R387, R388). -/
structure TrainWrite where
  off : Nat
  bytes : List Byte
  deriving DecidableEq, Repr

/-- What a train carries: whether it is an RMCAST's, and its writes in order (R387, R388). -/
structure TrainLoad where
  cast : Bool
  writes : List TrainWrite
  deriving DecidableEq, Repr

/-- A remote access as it performs at its home (R242): one of ours, whose reply bytes the other module sends, or one
that another module makes of this module's memory: a store's bytes come with the bits that it writes, and a lock
with the region HOME of its line (R202). -/
inductive RemoteMsg where
  | ours (h : HartId) (reply : List Byte)
  | load (pa n : Nat)
  | store (writes : List (Nat × Byte × Byte))
  | amo (pa : Nat) (op : AmoOp) (w : AmoWidth) (src cmp : Word)
  | vamo (src : Nat) (op : Nat) (kind : BitVec 4) (width : Nat) (elems : List (Nat × Word))
  | lockLine (pa home : Nat) (holder : Nat)
  deriving DecidableEq, Repr

/-- What names a collective on the base die: launch, rank and tag (R389). -/
structure CollKey where
  launch : Nat
  rank : Nat
  tag : BitVec 2
  deriving DecidableEq, Repr

/-- What names a node of a collective's tree: the collective's CID, and the node's level and place (R147, R390). -/
structure NodeKey where
  cid : BitVec 32
  level : Nat
  index : Nat
  deriving DecidableEq, Repr

/-- A binary32 triple (m, s, v) of a collective (R389, Table 16.3). -/
structure Triple where
  m : BitVec 32
  s : BitVec 32
  v : List (BitVec 32)
  deriving DecidableEq, Repr

/-- An input of a combining router, or the root result (R389): the collective's parameters, its place in the tree of
R147 (leaf r stands at level 0, index r), the ranks whose triples it holds, and their combination; `triple = none` is
that of empty shards alone. -/
structure CollInput where
  cid : BitVec 32
  nr : Nat
  len : Nat
  ranks : List Byte
  level : Nat
  index : Nat
  present : List Nat
  triple : Option Triple
  deriving DecidableEq, Repr

/-- A root result as it reaches a member: the collective there, and the result (R389). -/
structure MemberResult where
  key : CollKey
  root : CollInput
  deriving DecidableEq, Repr

/-- Instructions and events, one constructor for each row of the opcode table. -/
inductive Instr where
  /-- ADD (R73): Writes x[a] + x[b] mod 2^64 to x[d]. -/
  | add (d a b : Reg)
  /-- SUB (R73): Writes x[a] - x[b] mod 2^64 to x[d]. -/
  | sub (d a b : Reg)
  /-- AND (R73): Writes the bitwise and of x[a] and x[b] to x[d]. -/
  | and (d a b : Reg)
  /-- OR (R73): Writes the bitwise or of x[a] and x[b] to x[d]. -/
  | or (d a b : Reg)
  /-- XOR (R73): Writes the bitwise xor of x[a] and x[b] to x[d]. -/
  | xor (d a b : Reg)
  /-- NOR (R73): Writes not (x[a] or x[b]) to x[d]. -/
  | nor (d a b : Reg)
  /-- SLL (R73): Shifts x[a] left by x[b][5:0] into x[d]. -/
  | sll (d a b : Reg)
  /-- SRL (R73): Shifts x[a] right logically by x[b][5:0] into x[d]. -/
  | srl (d a b : Reg)
  /-- SRA (R73): Shifts x[a] right arithmetically by x[b][5:0] into x[d]. -/
  | sra (d a b : Reg)
  /-- ROL (R73): Rotates x[a] left by x[b][5:0] into x[d]. -/
  | rol (d a b : Reg)
  /-- ROR (R73): Rotates x[a] right by x[b][5:0] into x[d]. -/
  | ror (d a b : Reg)
  /-- SLT (R73): Writes 1 to x[d] when x[a] is signed-less than x[b], else 0. -/
  | slt (d a b : Reg)
  /-- SLTU (R73): Writes 1 to x[d] when x[a] is unsigned-less than x[b], else 0. -/
  | sltu (d a b : Reg)
  /-- MIN (R73): Writes the signed minimum of x[a] and x[b] to x[d]. -/
  | min (d a b : Reg)
  /-- MAX (R73): Writes the signed maximum of x[a] and x[b] to x[d]. -/
  | max (d a b : Reg)
  /-- MINU (R73): Writes the unsigned minimum of x[a] and x[b] to x[d]. -/
  | minu (d a b : Reg)
  /-- MAXU (R73): Writes the unsigned maximum of x[a] and x[b] to x[d]. -/
  | maxu (d a b : Reg)
  /-- MUL (R73): Writes the low 64 bits of x[a] times x[b] to x[d]. -/
  | mul (d a b : Reg)
  /-- MULH (R73): Writes the high 64 bits of the signed product to x[d]. -/
  | mulh (d a b : Reg)
  /-- MULHU (R73): Writes the high 64 bits of the unsigned product to x[d]. -/
  | mulhu (d a b : Reg)
  /-- DIV (R74): Writes the signed quotient truncated toward zero, with fixed results for division by zero and overflow. -/
  | div (d a b : Reg)
  /-- DIVU (R74): Writes the unsigned quotient, all ones for division by zero. -/
  | divu (d a b : Reg)
  /-- REM (R74): Writes the signed remainder, x[a] for division by zero. -/
  | rem (d a b : Reg)
  /-- REMU (R74): Writes the unsigned remainder, x[a] for division by zero. -/
  | remu (d a b : Reg)
  /-- CLZ (R73): Writes the count of leading zeros of x[a] to x[d]. -/
  | clz (d a : Reg)
  /-- CTZ (R73): Writes the count of trailing zeros of x[a] to x[d]. -/
  | ctz (d a : Reg)
  /-- POPC (R73): Writes the number of set bits of x[a] to x[d]. -/
  | popc (d a : Reg)
  /-- BEXT (R73): Extracts a bit field of x[a] selected by x[b] into x[d]. -/
  | bext (d a b : Reg)
  /-- BINS (R73): Inserts x[a] into a bit field of x[d] selected by x[b]. -/
  | bins (d a b : Reg)
  /-- ADDI (R75): Writes x[a] plus the sign-extended immediate to x[d]. -/
  | addi (d a : Reg) (imm : BitVec 16)
  /-- ANDI (R75): Writes x[a] and the zero-extended immediate to x[d]. -/
  | andi (d a : Reg) (imm : BitVec 16)
  /-- ORI (R75): Writes x[a] or the zero-extended immediate to x[d]. -/
  | ori (d a : Reg) (imm : BitVec 16)
  /-- XORI (R75): Writes x[a] xor the zero-extended immediate to x[d]. -/
  | xori (d a : Reg) (imm : BitVec 16)
  /-- SLTI (R75): Writes 1 to x[d] when x[a] is signed-less than the immediate. -/
  | slti (d a : Reg) (imm : BitVec 16)
  /-- SLTIU (R75): Writes 1 to x[d] when x[a] is unsigned-less than the extended immediate. -/
  | sltiu (d a : Reg) (imm : BitVec 16)
  /-- SLLI (R76): Shifts x[a] left by an immediate amount into x[d]. -/
  | slli (d a : Reg) (n : BitVec 6)
  /-- SRLI (R76): Shifts x[a] right logically by an immediate amount into x[d]. -/
  | srli (d a : Reg) (n : BitVec 6)
  /-- SRAI (R76): Shifts x[a] right arithmetically by an immediate amount into x[d]. -/
  | srai (d a : Reg) (n : BitVec 6)
  /-- RORI (R76): Rotates x[a] right by an immediate amount into x[d]. -/
  | rori (d a : Reg) (n : BitVec 6)
  /-- LI (R77): Writes imm16 shifted by 16 x sh bits to x[d]. -/
  | li (d : Reg) (sh : BitVec 2) (imm : BitVec 16)
  /-- LIK (R77): Replaces one 16-bit field of x[d] with imm16, keeping the other bits. -/
  | lik (d : Reg) (sh : BitVec 2) (imm : BitVec 16)
  /-- ADDPC (R78): Writes pc plus 4096 times the signed offset to x[d]. -/
  | addpc (d : Reg) (off : BitVec 21)
  /-- BEQ (R79): Branches when x[a] equals x[b]. -/
  | beq (a b : Reg) (off : BitVec 16)
  /-- BNE (R79): Branches when x[a] differs from x[b]. -/
  | bne (a b : Reg) (off : BitVec 16)
  /-- BLT (R79): Branches when x[a] is signed-less than x[b]. -/
  | blt (a b : Reg) (off : BitVec 16)
  /-- BGE (R79): Branches when x[a] is signed-greater or equal to x[b]. -/
  | bge (a b : Reg) (off : BitVec 16)
  /-- BLTU (R79): Branches when x[a] is unsigned-less than x[b]. -/
  | bltu (a b : Reg) (off : BitVec 16)
  /-- BGEU (R79): Branches when x[a] is unsigned-greater or equal to x[b]. -/
  | bgeu (a b : Reg) (off : BitVec 16)
  /-- BMNONE (R80): Branches when no bit below vl of the mask register is set. -/
  | bmnone (k : KReg) (off : BitVec 16)
  /-- BMANY (R80): Branches when at least one bit below vl of the mask register is set. -/
  | bmany (k : KReg) (off : BitVec 16)
  /-- BMALL (R80): Branches when every bit below vl of the mask register is set. -/
  | bmall (k : KReg) (off : BitVec 16)
  /-- JAL (R81): Writes the return address to x[d] and jumps by a signed word offset. -/
  | jal (d : Reg) (off : BitVec 21)
  /-- JALR (R81): Writes the return address to x[d] and jumps to x[a] plus an immediate. -/
  | jalr (d a : Reg) (imm : BitVec 16)
  /-- LOOP (R82): Pushes a hardware loop entry that runs the following body x[a][31:0] times. -/
  | loop (a : Reg) (len : BitVec 16)
  /-- LDB (R86): Loads a sign-extended byte into x[d]. -/
  | ldb (d a : Reg) (imm : BitVec 13)
  /-- LDH (R86): Loads a sign-extended halfword into x[d]. -/
  | ldh (d a : Reg) (imm : BitVec 13)
  /-- LDW (R86): Loads a sign-extended word into x[d]. -/
  | ldw (d a : Reg) (imm : BitVec 13)
  /-- LDD (R86): Loads a doubleword into x[d]. -/
  | ldd (d a : Reg) (imm : BitVec 13)
  /-- LDBU (R86): Loads a zero-extended byte into x[d]. -/
  | ldbu (d a : Reg) (imm : BitVec 13)
  /-- LDHU (R86): Loads a zero-extended halfword into x[d]. -/
  | ldhu (d a : Reg) (imm : BitVec 13)
  /-- LDWU (R86): Loads a zero-extended word into x[d]. -/
  | ldwu (d a : Reg) (imm : BitVec 13)
  /-- STB (R86): Stores the low byte of x[c]. -/
  | stb (c a : Reg) (imm : BitVec 13)
  /-- STH (R86): Stores the low halfword of x[c]. -/
  | sth (c a : Reg) (imm : BitVec 13)
  /-- STW (R86): Stores the low word of x[c]. -/
  | stw (c a : Reg) (imm : BitVec 13)
  /-- STD (R86): Stores the doubleword x[c]. -/
  | std (c a : Reg) (imm : BitVec 13)
  /-- FLW (R86): Loads a word into f[d] in boxed binary32 form. -/
  | flw (d a : Reg) (imm : BitVec 13)
  /-- FLD (R86): Loads a doubleword into f[d]. -/
  | fld (d a : Reg) (imm : BitVec 13)
  /-- FSW (R86): Stores f[c][31:0]. -/
  | fsw (c a : Reg) (imm : BitVec 13)
  /-- FSD (R86): Stores f[c]. -/
  | fsd (c a : Reg) (imm : BitVec 13)
  /-- AMOADD (R246): Atomically adds x[b] to memory and returns the old value in x[d]. -/
  | amoadd (d a b : Reg) (w : AmoWidth) (sc : Scope) (o : Order)
  /-- AMOAND (R246): Atomically ands x[b] into memory and returns the old value. -/
  | amoand (d a b : Reg) (w : AmoWidth) (sc : Scope) (o : Order)
  /-- AMOOR (R246): Atomically ors x[b] into memory and returns the old value. -/
  | amoor (d a b : Reg) (w : AmoWidth) (sc : Scope) (o : Order)
  /-- AMOXOR (R246): Atomically xors x[b] into memory and returns the old value. -/
  | amoxor (d a b : Reg) (w : AmoWidth) (sc : Scope) (o : Order)
  /-- AMOMIN (R246): Atomically stores the signed minimum and returns the old value. -/
  | amomin (d a b : Reg) (w : AmoWidth) (sc : Scope) (o : Order)
  /-- AMOMAX (R246): Atomically stores the signed maximum and returns the old value. -/
  | amomax (d a b : Reg) (w : AmoWidth) (sc : Scope) (o : Order)
  /-- AMOMINU (R246): Atomically stores the unsigned minimum and returns the old value. -/
  | amominu (d a b : Reg) (w : AmoWidth) (sc : Scope) (o : Order)
  /-- AMOMAXU (R246): Atomically stores the unsigned maximum and returns the old value. -/
  | amomaxu (d a b : Reg) (w : AmoWidth) (sc : Scope) (o : Order)
  /-- AMOSWAP (R246): Atomically swaps x[b] with memory. -/
  | amoswap (d a b : Reg) (w : AmoWidth) (sc : Scope) (o : Order)
  /-- AMOCAS (R246): Atomically writes x[b] when memory equals x[d] and returns the old value. -/
  | amocas (d a b : Reg) (w : AmoWidth) (sc : Scope) (o : Order)
  /-- FADD (R88): Writes f[a] + f[b] rounded by the encoded rounding. -/
  | fadd (d a b : Reg) (r : Rnd) (p : Prec)
  /-- FSUB (R88): Writes f[a] - f[b] rounded by the encoded rounding. -/
  | fsub (d a b : Reg) (r : Rnd) (p : Prec)
  /-- FMUL (R88): Writes f[a] x f[b] rounded by the encoded rounding. -/
  | fmul (d a b : Reg) (r : Rnd) (p : Prec)
  /-- FDIV (R88): Writes f[a] / f[b] rounded by the encoded rounding. -/
  | fdiv (d a b : Reg) (r : Rnd) (p : Prec)
  /-- FSQRT (R88): Writes the square root of f[a]. -/
  | fsqrt (d a : Reg) (r : Rnd) (p : Prec)
  /-- FFMA (R88): Writes f[a] x f[b] + f[d] with one rounding. -/
  | ffma (d a b : Reg) (r : Rnd) (p : Prec)
  /-- FMIN (R89): Writes the minimum of f[a] and f[b] under the NaN and zero rules. -/
  | fmin (d a b : Reg) (p : Prec)
  /-- FMAX (R89): Writes the maximum of f[a] and f[b] under the NaN and zero rules. -/
  | fmax (d a b : Reg) (p : Prec)
  /-- FEQ (R88): Writes 1 to x[d] when f[a] equals f[b]. -/
  | feq (d a b : Reg) (p : Prec)
  /-- FLT (R88): Writes 1 to x[d] when f[a] is less than f[b]. -/
  | flt (d a b : Reg) (p : Prec)
  /-- FLE (R88): Writes 1 to x[d] when f[a] is less than or equal to f[b]. -/
  | fle (d a b : Reg) (p : Prec)
  /-- FCVT_FF (R90): Converts f[a] between binary32 and binary64. -/
  | fcvtFf (d a : Reg) (r : Rnd) (p : Prec)
  /-- FCVT_F_L (R90): Converts signed x[a] to floating point in f[d]. -/
  | fcvtFL (d a : Reg) (r : Rnd) (p : Prec)
  /-- FCVT_F_LU (R90): Converts unsigned x[a] to floating point in f[d]. -/
  | fcvtFLu (d a : Reg) (r : Rnd) (p : Prec)
  /-- FCVT_L_F (R90): Converts f[a] to a signed integer in x[d], saturating. -/
  | fcvtLF (d a : Reg) (r : Rnd) (p : Prec)
  /-- FCVT_LU_F (R90): Converts f[a] to an unsigned integer in x[d], saturating. -/
  | fcvtLuF (d a : Reg) (r : Rnd) (p : Prec)
  /-- FMVXF (R88): Moves the bits of f[a] to x[d]. -/
  | fmvxf (d a : Reg) (p : Prec)
  /-- FMVFX (R88): Moves the bits of x[a] to f[d]. -/
  | fmvfx (d a : Reg) (p : Prec)
  /-- FCLASS (R91): Writes the class word of f[a] to x[d]. -/
  | fclass (d a : Reg) (p : Prec)
  /-- TRAP (R92): Completes and raises SYSCALL with the service number in tval. -/
  | trap (n : BitVec 7)
  /-- TRET (R94): Returns from a trap to epc, restoring mode and interrupt enable and applying any pending prefix. -/
  | tret
  /-- BRK (R93): Raises BREAKPOINT at its own address. -/
  | brk
  /-- FENCE (R234): Orders earlier reads or writes of the hart before later accesses at the encoded scope. -/
  | fence (set : FenceSet) (sc : Scope)
  /-- FENCEI (R235): Invalidates the core's instruction cache once earlier writes are visible at .c. -/
  | fencei
  /-- PARK (R95): Stops issue and moves the hart to PARKED until an interrupt becomes takeable. -/
  | park
  /-- RETIRE (R96): Ends the hart's part in its launch after earlier instructions complete, releasing its resources. -/
  | retire
  /-- CTXS (R359): Saves the context a TRET would resume into a save-area image and releases its units. -/
  | ctxs (a : Reg)
  /-- CTXL (R360): Validates and loads a context image into the hart's registers. -/
  | ctxl (a : Reg)
  /-- CSRR (R72): Reads a control register into x[d]. -/
  | csrr (d : Reg) (n : BitVec 12)
  /-- CSRW (R72): Writes x[a] to a control register. -/
  | csrw (a : Reg) (n : BitVec 12)
  /-- CSRS (R72): Sets the bits of x[a] in a control register. -/
  | csrs (a : Reg) (n : BitVec 12)
  /-- CSRC (R72): Clears the bits of x[a] in a control register. -/
  | csrc (a : Reg) (n : BitVec 12)
  /-- CSRRW (R72): Swaps x[a] into a control register and returns the old value in x[d]. -/
  | csrrw (d a : Reg) (n : BitVec 12)
  /-- TCINV_PAGE (R200): A tcinv write of mode 00 removes every translation of one page for one address space on the module. -/
  | tcinvPage (asid : BitVec 16) (vpn : BitVec 33)
  /-- TCINV_ASID (R200): A tcinv write of mode 01 removes every non-global entry of one address space. -/
  | tcinvAsid (asid : BitVec 16)
  /-- TCINV_ALL (R200): A tcinv write of mode 10 removes every translation cache entry of the module. -/
  | tcinvAll
  /-- TCINV_NO_ACTION (R200): A tcinv write of mode 11 has no effect. -/
  | tcinvNoAction
  /-- POST (R333): Posts the rope iterations of the open strip up to x[a] within the rope window. -/
  | post (a : Reg)
  /-- WAIT_ROPE (R334): Blocks until rope iteration x[a] is posted. -/
  | waitRope (a : Reg)
  /-- WAIT_BARRIER (R339): Blocks until the barrier phase has passed the token, then returns the distance. -/
  | waitBarrier (d a b : Reg)
  /-- VWAIT (R335): Blocks until every rope iteration named by an active element is posted. -/
  | vwait (a : Reg) (m : KReg)
  /-- BARA (R337): Allots a barrier object for x[a] arrivals, or frees the one in x[b] when x[a] is 0. -/
  | bara (d a b : Reg)
  /-- BARW (R338): Arrives at a barrier, returning the phase token and advancing the phase on the last arrival. -/
  | barw (d a : Reg)
  /-- WAITM (R295): Blocks until the wanted chunk bits of a copy-owned mask are set or the copy ends. -/
  | waitm (d : Reg) (k : KReg) (b : Reg)
  /-- SETVL (R115): Sets avl and sidx from registers and vl to min(avl, 32768). -/
  | setvl (d a b : Reg)
  /-- SETTYPE (R115): Sets vtype from x[a] when valid and returns the old vtype, else raises VTYPE_BAD. -/
  | settype (d a : Reg)
  /-- SETFMT (R204): Sets mfmt from x[a] and returns the old value, or raises MFMT_BAD. -/
  | setfmt (d a : Reg)
  /-- ENDSTRIP (R115): Advances sidx and avl by vl and sets the next vl. -/
  | endstrip (d : Reg)
  /-- VADD (R126): Writes A + B to each active body element. -/
  | vadd (d a : Reg) (b : BSrc) (m : KReg)
  /-- VSUB (R126): Writes A - B to each active body element. -/
  | vsub (d a : Reg) (b : BSrc) (m : KReg)
  /-- VRSUB (R126): Writes B - A to each active body element. -/
  | vrsub (d a : Reg) (b : BSrc) (m : KReg)
  /-- VMUL (R126): Writes A x B to each active body element. -/
  | vmul (d a : Reg) (b : BSrc) (m : KReg)
  /-- VMULH (R126): Writes the high part of A x B relative to the destination width. -/
  | vmulh (d a : Reg) (b : BSrc) (m : KReg)
  /-- VMAC (R126): Writes D + A x B to each active body element. -/
  | vmac (d a : Reg) (b : BSrc) (m : KReg)
  /-- VMIN (R126): Writes the signed minimum of A and B. -/
  | vmin (d a : Reg) (b : BSrc) (m : KReg)
  /-- VMAX (R126): Writes the signed maximum of A and B. -/
  | vmax (d a : Reg) (b : BSrc) (m : KReg)
  /-- VMINU (R126): Writes the unsigned minimum of A and B. -/
  | vminu (d a : Reg) (b : BSrc) (m : KReg)
  /-- VMAXU (R126): Writes the unsigned maximum of A and B. -/
  | vmaxu (d a : Reg) (b : BSrc) (m : KReg)
  /-- VAND (R126): Writes the bitwise and of A and B. -/
  | vand (d a : Reg) (b : BSrc) (m : KReg)
  /-- VOR (R126): Writes the bitwise or of A and B. -/
  | vor (d a : Reg) (b : BSrc) (m : KReg)
  /-- VXOR (R126): Writes the bitwise xor of A and B. -/
  | vxor (d a : Reg) (b : BSrc) (m : KReg)
  /-- VSLL (R128): Shifts A left by the saturated shift amount. -/
  | vsll (d a : Reg) (b : BSrc) (m : KReg)
  /-- VSRL (R128): Shifts A right logically by the saturated shift amount. -/
  | vsrl (d a : Reg) (b : BSrc) (m : KReg)
  /-- VSRA (R128): Shifts A right arithmetically by the saturated shift amount. -/
  | vsra (d a : Reg) (b : BSrc) (m : KReg)
  /-- VRSH (R128): Shifts A right with rounding to nearest even. -/
  | vrsh (d a : Reg) (b : BSrc) (m : KReg)
  /-- VMULQ (R127): Writes the rounded fixed-point product at the destination's scale. -/
  | vmulq (d a : Reg) (b : BSrc) (m : KReg)
  /-- VSAT (R126): Clamps A to the destination range and counts clamps. -/
  | vsat (d a : Reg) (m : KReg)
  /-- VABS (R126): Writes the absolute value of A. -/
  | vabs (d a : Reg) (m : KReg)
  /-- VMERGE (R126): Writes B where the mask bit is set and A elsewhere. -/
  | vmerge (d a : Reg) (b : BSrc) (m : KReg)
  /-- VMV (R126): Copies B to each active body element. -/
  | vmv (d : Reg) (b : BSrc) (m : KReg)
  /-- VID (R126): Writes each element's index to it. -/
  | vid (d : Reg) (m : KReg)
  /-- VFADD (R175): Writes the rounded floating sum of A and B. -/
  | vfadd (d a : Reg) (b : VsSrc) (m : KReg)
  /-- VFSUB (R175): Writes the rounded floating difference of A and B. -/
  | vfsub (d a : Reg) (b : VsSrc) (m : KReg)
  /-- VFMUL (R175): Writes the rounded floating product of A and B. -/
  | vfmul (d a : Reg) (b : VsSrc) (m : KReg)
  /-- VFDIV (R175): Writes the rounded floating quotient of A and B. -/
  | vfdiv (d a : Reg) (b : VsSrc) (m : KReg)
  /-- VFFMA (R175): Writes A x B + D with one rounding. -/
  | vffma (d a : Reg) (b : VsSrc) (m : KReg)
  /-- VFMIN (R175): Writes the floating minimum of A and B. -/
  | vfmin (d a : Reg) (b : VsSrc) (m : KReg)
  /-- VFMAX (R175): Writes the floating maximum of A and B. -/
  | vfmax (d a : Reg) (b : VsSrc) (m : KReg)
  /-- VFSQRT (R175): Writes the rounded square root of A. -/
  | vfsqrt (d a : Reg) (m : KReg)
  /-- VFEXP2 (R175): Writes 2^A correctly rounded. -/
  | vfexp2 (d a : Reg) (m : KReg)
  /-- VFRCP (R175): Writes 1/A correctly rounded. -/
  | vfrcp (d a : Reg) (m : KReg)
  /-- VFABS (R176): Clears the sign bit of each active element. -/
  | vfabs (d a : Reg) (m : KReg)
  /-- VFNEG (R176): Inverts the sign bit of each active element. -/
  | vfneg (d a : Reg) (m : KReg)
  /-- VCMPEQ (R138): Sets mask bits where A equals B. -/
  | vcmpeq (d : KReg) (a : Reg) (b : BSrc) (m : KReg)
  /-- VCMPNE (R138): Sets mask bits where A differs from B. -/
  | vcmpne (d : KReg) (a : Reg) (b : BSrc) (m : KReg)
  /-- VCMPLT (R138): Sets mask bits where A is signed-less than B. -/
  | vcmplt (d : KReg) (a : Reg) (b : BSrc) (m : KReg)
  /-- VCMPLE (R138): Sets mask bits where A is signed-less or equal to B. -/
  | vcmple (d : KReg) (a : Reg) (b : BSrc) (m : KReg)
  /-- VCMPLTU (R138): Sets mask bits where A is unsigned-less than B. -/
  | vcmpltu (d : KReg) (a : Reg) (b : BSrc) (m : KReg)
  /-- VCMPLEU (R138): Sets mask bits where A is unsigned-less or equal to B. -/
  | vcmpleu (d : KReg) (a : Reg) (b : BSrc) (m : KReg)
  /-- VFCMPEQ (R139): Sets mask bits where A equals B numerically. -/
  | vfcmpeq (d : KReg) (a : Reg) (b : VsSrc) (m : KReg)
  /-- VFCMPLT (R139): Sets mask bits where A is less than B. -/
  | vfcmplt (d : KReg) (a : Reg) (b : VsSrc) (m : KReg)
  /-- VFCMPLE (R139): Sets mask bits where A is less than or equal to B. -/
  | vfcmple (d : KReg) (a : Reg) (b : VsSrc) (m : KReg)
  /-- VFCMPUO (R139): Sets mask bits where either operand is a NaN. -/
  | vfcmpuo (d : KReg) (a : Reg) (b : VsSrc) (m : KReg)
  /-- KAND (R141): Writes ka and kb to each body bit of kd. -/
  | kand (d a b : KReg)
  /-- KOR (R141): Writes ka or kb to each body bit of kd. -/
  | kor (d a b : KReg)
  /-- KXOR (R141): Writes ka xor kb to each body bit of kd. -/
  | kxor (d a b : KReg)
  /-- KANDN (R141): Writes ka and not kb to each body bit of kd. -/
  | kandn (d a b : KReg)
  /-- KNOT (R141): Writes not ka to each body bit of kd. -/
  | knot (d a : KReg)
  /-- KMOV (R141): Copies ka to each body bit of kd. -/
  | kmov (d a : KReg)
  /-- KPOPC (R141): Writes the count of set active bits below vl to x[d]. -/
  | kpopc (d : Reg) (a : KReg) (m : KReg)
  /-- KFIRST (R141): Writes the index of the first set active bit to x[d], or all ones. -/
  | kfirst (d : Reg) (a : KReg) (m : KReg)
  /-- KSET (R141): Sets the body bits of kd below x[a] and clears the others. -/
  | kset (d : KReg) (a : Reg)
  /-- VCOMPRESS (R144): Packs the selected elements of va from element 0. -/
  | vcompress (d a : Reg) (m : KReg)
  /-- VEXPAND (R144): Places successive elements of va at the selected positions. -/
  | vexpand (d a : Reg) (m : KReg)
  /-- VSLIDEUP (R143): Writes element i - s of va to element i. -/
  | vslideup (d a : Reg) (b : SiSrc) (m : KReg)
  /-- VSLIDEDN (R143): Writes element i + s of va to element i. -/
  | vslidedn (d a : Reg) (b : SiSrc) (m : KReg)
  /-- VPERM (R143): Gathers elements of va by the indices in vb. -/
  | vperm (d a b : Reg) (m : KReg)
  /-- VPREFPOP (R143): Writes to each element the count of set mask bits below it. -/
  | vprefpop (d : Reg) (a : KReg) (m : KReg)
  /-- VCONFLICT (R144): Writes to each element the index of its latest earlier equal element. -/
  | vconflict (d a : Reg) (m : KReg)
  /-- VBCAST (R143): Broadcasts element x[b] of va to every active element. -/
  | vbcast (d a b : Reg) (m : KReg)
  /-- VEXT (R145): Moves element x[b] of va to x[d]. -/
  | vext (d a b : Reg)
  /-- VINS (R145): Writes x[a] to element x[b] of vd. -/
  | vins (d a b : Reg) (m : KReg)
  /-- VREDSUM (R150): Sums the active elements by the fixed tree into x[d]. -/
  | vredsum (d a b : Reg) (m : KReg)
  /-- VREDMAX (R150): Writes the signed maximum of the active elements and init. -/
  | vredmax (d a b : Reg) (m : KReg)
  /-- VREDMIN (R150): Writes the signed minimum of the active elements and init. -/
  | vredmin (d a b : Reg) (m : KReg)
  /-- VREDMAXU (R150): Writes the unsigned maximum of the active elements and init. -/
  | vredmaxu (d a b : Reg) (m : KReg)
  /-- VREDMINU (R150): Writes the unsigned minimum of the active elements and init. -/
  | vredminu (d a b : Reg) (m : KReg)
  /-- VREDAND (R150): Writes the bitwise and of the active elements and init. -/
  | vredand (d a b : Reg) (m : KReg)
  /-- VREDOR (R150): Writes the bitwise or of the active elements and init. -/
  | vredor (d a b : Reg) (m : KReg)
  /-- VFREDSUM (R151): Sums the active floating elements by the fixed tree in the accumulation format. -/
  | vfredsum (d a b : Reg) (m : KReg)
  /-- VFREDMAX (R151): Writes the floating maximum of the active elements and init. -/
  | vfredmax (d a b : Reg) (m : KReg)
  /-- VFREDMIN (R151): Writes the floating minimum of the active elements and init. -/
  | vfredmin (d a b : Reg) (m : KReg)
  /-- VSCAN (R153): Writes the inclusive integer prefix sums from init. -/
  | vscan (d a b : Reg) (m : KReg)
  /-- VSCAN_SEG (R153): Writes integer prefix sums restarted at each segment head. -/
  | vscanSeg (d a : Reg) (h m : KReg)
  /-- VFSCAN (R153): Writes floating prefix sums from init by the doubling network. -/
  | vfscan (d a b : Reg)
  /-- VFSCAN_SEG (R153): Writes floating prefix sums restarted at each segment head. -/
  | vfscanSeg (d a : Reg) (h : KReg)
  /-- RSHSAVE (R158): Stores the 272-byte reduction shadow image at x[a]. -/
  | rshsave (a : Reg)
  /-- RSHLOAD (R158): Loads the reduction shadow from x[a]. -/
  | rshload (a : Reg)
  /-- VCVT (R181): Converts each active element from the source kind to vtype.KIND. -/
  | vcvt (d a b : Reg) (m : KReg)
  /-- VQUANT (R182): Forms MX blocks with E8M0 scales from a floating source. -/
  | vquant (d a b : Reg)
  /-- VDEQ (R183): Dequantises MX elements with their scales into a floating kind. -/
  | vdeq (d a b : Reg) (m : KReg)
  /-- VPLANES (R184): Writes the truncated or centred reconstruction from the top p planes. -/
  | vplanes (d a : Reg) (u : BitVec 1) (p : BitVec 4) (m : KReg)
  /-- VSETQ (R185): Fills a scale register from a scalar, with origin from the scalar. -/
  | vsetq (q b : Reg)
  /-- VQMV_QV (R186): Moves scales of qa into elements of vd. -/
  | vqmvQv (d a : Reg)
  /-- VQMV_VQ (R186): Moves the low bytes of elements of va into scales of qd. -/
  | vqmvVq (d a : Reg)
  /-- VLD (R209): Loads a unit-stride vector after probing every page. -/
  | vld (v a : Reg) (m : KReg)
  /-- VLDS (R209): Loads a strided vector. -/
  | vlds (v a x : Reg) (m : KReg)
  /-- VLDX (R209): Loads an indexed vector. -/
  | vldx (v a x : Reg) (m : KReg)
  /-- VLDFF (R216): Loads a unit-stride vector, trimming vl at the first fault. -/
  | vldff (v a : Reg) (m : KReg)
  /-- VLDC (R217): Loads elements of a BCF compressed array. -/
  | vldc (v a x : Reg) (m : KReg)
  /-- VLDP (R215): Loads the top p planes of a PLANE array. -/
  | vldp (v a : Reg) (m : KReg) (p : BitVec 4)
  /-- VST (R218): Stores a unit-stride vector in element order. -/
  | vst (v a : Reg) (m : KReg)
  /-- VSTS (R218): Stores a strided vector in element order. -/
  | vsts (v a x : Reg) (m : KReg)
  /-- VSTX (R218): Stores an indexed vector, ordered. -/
  | vstx (v a x : Reg) (m : KReg)
  /-- VSTXU (R218): Stores an indexed vector, unordered. -/
  | vstxu (v a x : Reg) (m : KReg)
  /-- VAMOADD (R251): Atomically adds indexed elements to memory under line locks, optionally returning old values. -/
  | vamoadd (v a x : Reg) (m : KReg) (nr : Bool)
  /-- VAMOMIN (R251): Atomically stores indexed minima under line locks. -/
  | vamomin (v a x : Reg) (m : KReg) (nr : Bool)
  /-- VAMOMAX (R251): Atomically stores indexed maxima under line locks. -/
  | vamomax (v a x : Reg) (m : KReg) (nr : Bool)
  /-- VAMOAND (R251): Atomically ands indexed elements into memory. -/
  | vamoand (v a x : Reg) (m : KReg) (nr : Bool)
  /-- VAMOOR (R251): Atomically ors indexed elements into memory. -/
  | vamoor (v a x : Reg) (m : KReg) (nr : Bool)
  /-- VAMOXOR (R251): Atomically xors indexed elements into memory. -/
  | vamoxor (v a x : Reg) (m : KReg) (nr : Bool)
  /-- VAMOSWAP (R251): Atomically swaps indexed elements with memory. -/
  | vamoswap (v a x : Reg) (m : KReg) (nr : Bool)
  /-- QLD (R187): Loads ceil(vl/32) scale bytes into qn and stamps its origin. -/
  | qld (q a : Reg) (imm : BitVec 13)
  /-- QST (R187): Stores ceil(vl/32) scale bytes of qn. -/
  | qst (q a : Reg) (imm : BitVec 13)
  /-- KLD (R136): Loads mask bits below vl from memory into kn. -/
  | kld (k : KReg) (a : Reg) (imm : BitVec 13)
  /-- KST (R136): Stores the mask bits below vl of kn. -/
  | kst (k : KReg) (a : Reg) (imm : BitVec 13)
  /-- MTON (R266): Claims the core's tile unit, clearing both accumulators when it was free. -/
  | mton
  /-- MTOFF (R266): Releases the tile unit owned by the hart, discarding its cells. -/
  | mtoff
  /-- MZERO (R266): Clears every cell of the named accumulator. -/
  | mzero (z : BitVec 1)
  /-- MCFG (R267): Writes zcfg from x[a], clearing accumulators whose mode changes. -/
  | mcfg (a : Reg)
  /-- TSHAPE (R268): Grants a tile shape from the request in x[s] and writes it to tshape and x[d]. -/
  | tshape (d s : Reg)
  /-- MOPA (R272): Applies K' rank-1 outer-product steps from two panels to an accumulator. -/
  | mopa (z : BitVec 1) (a b : Reg) (r c : KReg)
  /-- MRD (R277): Reads a row or column slice of an accumulator into a vector with scaling and saturation. -/
  | mrd (z : BitVec 1) (v x : Reg) (m : KReg) (c : BitVec 1)
  /-- MWR (R278): Writes a vector into a row or column slice of an accumulator. -/
  | mwr (z : BitVec 1) (v x : Reg) (m : KReg) (c : BitVec 1)
  /-- CPY (R292): Starts a strided row copy on a free transposer, owning the chunk mask. -/
  | cpy (k : KReg) (a : Reg)
  /-- CPYQ (R288): Starts a copy of MX elements with their scales. -/
  | cpyq (k : KReg) (a : Reg)
  /-- CPYX (R288): Starts an indexed row-gather copy. -/
  | cpyx (k : KReg) (a : Reg)
  /-- CPYW (R289): Starts a copy converting between WORD and PLANE layouts. -/
  | cpyw (k : KReg) (a : Reg)
  /-- WVOPEN (R306): Opens a Weave cursor slot from a descriptor and returns the window size. -/
  | wvopen (d a : Reg) (s : KReg)
  /-- WVSTEP (R307): Emits the next coordinate pairs and head bits of a cursor into vectors and sets vl. -/
  | wvstep (h : KReg) (a b : Reg) (s : KReg)
  /-- WVSPLIT (R309): Restricts a cursor to one strip of positions, bisecting row pointers. -/
  | wvsplit (d a b : Reg) (s : KReg)
  /-- WVSAVE (R310): Stores the 128-byte cursor image of a slot. -/
  | wvsave (a : Reg) (s : KReg)
  /-- WVLOAD (R310): Opens a slot from a validated cursor image. -/
  | wvload (a : Reg) (s : KReg)
  /-- WVCLOSE (R302): Frees a cursor slot open for the hart. -/
  | wvclose (s : KReg)
  /-- FARM (R327): Enqueues the launch record at x[a] into a base camp queue and returns its status. -/
  | farm (d a b : Reg)
  /-- STRIP (R328): Takes the next strip of the farm, loading sidx, avl and vl. -/
  | strip (d : Reg)
  /-- SCOMMIT (R329): Closes the open strip: belays staged writes or posts remaining rope iterations, and counts it committed. -/
  | scommit
  /-- SDEP (R330): Records x[a] as the open strip's partial for a reduction slot. -/
  | sdep (a b : Reg)
  /-- FARMW (R331): Waits until a doubleword in memory is nonzero and returns it. -/
  | farmw (d a : Reg)
  /-- RSCAT (R387): Scatters vector elements to remote modules as counted trains. -/
  | rscat (v a n : Reg)
  /-- RMCAST (R388): Copies a source region to the same offset on every module named in a mask. -/
  | rmcast (a : Reg)
  /-- RCOMB (R389): Starts a fabric collective combine of softmax triples along the rank tree. -/
  | rcomb (a : Reg)
  /-- RWAIT (R391): Waits for a collective tag's status and frees the tag. -/
  | rwait (d a : Reg)
  /-- PFX (R39): Makes the next instruction conditional on a scalar register and optionally copies its result. -/
  | pfx (p : Reg) (neg cp : BitVec 1) (d2 : Reg)
  /-- PREEMPT (R349): A hart takes a pre-emption request at a boundary after its queue drains and the save engine writes its context. -/
  | preempt (h : HartId)
  /-- CONTEXT_SAVE_COMPLETE (R349): Once the image is visible, the hart's units are released, its position freed and the context appended to its resume list. -/
  | contextSaveComplete (h : HartId)
  /-- HOST_SIGNAL (R100): A pending host signal is taken as an interrupt. -/
  | hostSignal (h : HartId)
  /-- SATURATION_EVENT (R168): A pending saturation event is taken as an interrupt with COUNT in tval. -/
  | saturationEvent (h : HartId)
  /-- LOCAL_ALARM (R69): When cycle reaches alarm, the alarm interrupt is taken. -/
  | localAlarm (h : HartId)
  /-- ASYNC_ERROR_REPORT (R298): A stopped copy's error is raised in its hart at the next boundary with INH = 0. -/
  | asyncErrorReport (h : HartId)
  /-- CHUNK_LAND (R291): A copy chunk's writes are visible and the transposer sets its mask bit. -/
  | chunkLand (c : CoreId) (n : Nat)
  /-- COPY_ERROR_STOP (R298): An uncorrectable error or timeout in a copy's data stops it at the failing chunk. -/
  | copyErrorStop (c : CoreId) (n : Nat) (e : CopyError) (tval : Word)
  /-- RESTORED_COPY_START (R297): A restored copy takes a free transposer and resumes landing chunks. -/
  | restoredCopyStart (c : CoreId) (n : Nat)
  /-- STORE_QUEUE_WRITE_HOME (R229): A write leaves the core's store queue and reaches its home, or is dropped if its fence generation is stale. -/
  | storeQueueWriteHome (c : CoreId) (n : Nat)
  /-- PAGE_WALK (R199): A page-walk engine completes a three-level walk and fills the translation cache. -/
  | pageWalk (h : HartId) (va : Word)
  /-- LOCKED_LINE_GRANT (R252): On release of a line lock, waiting accesses to the line are granted in arrival order. -/
  | lockedLineGrant (line : Nat)
  /-- LOCK_RESERVATION_GRANT (R252): A waiting VAMO reservation is granted when room frees in a slice. -/
  | lockReservationGrant (slice : Nat)
  /-- HOST_ENQUEUE (R379): A 64-byte posted write to an enqueue window submits a launch record, or counts a drop. -/
  | hostEnqueue (q : Fin 16) (off : Nat) (bytes : List Byte)
  /-- ROTATION_DECISION (R318): Every 8 base clocks base camp serves one rotation slot and places at most one candidate. -/
  | rotationDecision
  /-- CONTEXT_RESTORE (R356): The restore engine validates and loads a saved image and enters the supervisor with PREEMPT or a copy fault. -/
  | contextRestore (h : HartId)
  /-- QUEUE_HEAD_WAIT_LIMIT (R321): A queue head waiting 2^20 base clocks causes pre-emption of blocked or parked harts to place it. -/
  | queueHeadWaitLimit (q : Fin 16)
  /-- COMPLETION_WORD_WRITE (R316): After all team harts end, base camp writes reduction results and the completion word and signals MSI-X. -/
  | completionWordWrite (l : Nat)
  /-- TEAM_HART_STOP (R404): A hart of a failed launch is stopped at its next boundary and its context discarded. -/
  | teamHartStop (h : HartId)
  /-- WAITM_RETURN (R295): A blocked WAITM returns the count of clear bits once its chunks land or the copy ends. -/
  | waitmReturn (h : HartId)
  /-- STRIP_BLOCK_END (R322): A blocked STRIP deals a strip, or returns all ones when the farm ends or fails. -/
  | stripBlockEnd (h : HartId)
  /-- POST_WINDOW_RESUME (R333): A POST blocked on the rope window posts further iterations once the floor advances. -/
  | postWindowResume (h : HartId)
  /-- SCOMMIT_WINDOW_RESUME (R329): A roped SCOMMIT blocked on the window posts more iterations once the floor advances. -/
  | scommitWindowResume (h : HartId)
  /-- ROPE_WAIT_RETURN (R334): A rope WAIT returns once its iteration is posted. -/
  | ropeWaitReturn (h : HartId)
  /-- VWAIT_RETURN (R335): A VWAIT returns once every named iteration is posted. -/
  | vwaitReturn (h : HartId)
  /-- BARRIER_WAIT_RETURN (R339): A barrier WAIT returns the distance once the phase passes its token. -/
  | barrierWaitReturn (h : HartId)
  /-- FARMW_RETURN (R331): A blocked FARMW returns once the watched doubleword becomes nonzero. -/
  | farmwReturn (h : HartId)
  /-- FARM_QUEUE_ROOM (R327): A FARM blocked on a full queue enqueues once room appears. -/
  | farmQueueRoom (h : HartId)
  /-- RWAIT_RETURN (R391): A blocked RWAIT returns once its collective writes STAT. -/
  | rwaitReturn (h : HartId)
  /-- HOST_PREEMPT (R349): A host write of the PREEMPT register requests pre-emption of a hart position. -/
  | hostPreempt (v : Word)
  /-- HSIG (R380): A host write of HSIG sets the HOST_SIGNAL pending bit of a hart position. -/
  | hsig (v : Word)
  /-- HOST_FENCE (R361): A keyed host write of FENCE fences a present chiplet in service. -/
  | hostFence (v : Word)
  /-- LANE_SRAM_REPORT_LIMIT (R348): A chiplet's 64th lane SRAM report within 2^30 clocks fences it. -/
  | laneSramReportLimit (c : ChipletId)
  /-- CHIPLET_STATE_UNCORRECTABLE (R345): An uncorrectable error in chiplet state no instruction reads fences the chiplet. -/
  | chipletStateUncorrectable (c : ChipletId)
  /-- UCIE_LINK_FAILURE (R361): A UCIe-3D link failure fences the chiplet. -/
  | ucieLinkFailure (c : ChipletId)
  /-- MANAGEMENT_FENCE_REQUEST (R361): A management request fences a chiplet. -/
  | managementFenceRequest (c : ChipletId)
  /-- THERMAL_TCRIT (R397): A core sensor above TCRIT fences its chiplet. -/
  | thermalTcrit (c : CoreId) (temp : Byte)
  /-- SUPPLY_LIMIT (R361): A chiplet reaching its supply limit is fenced. -/
  | supplyLimit (c : ChipletId)
  /-- CLOCK_STEP_DECREASE (R397): Every 2^16 clocks while hot or drooping, the core clock step k decreases by 1. -/
  | clockStepDecrease (c : CoreId) (temp : Byte) (droop : Bool)
  /-- CLOCK_STEP_INCREASE (R397): Every 2^16 clocks while cool and supplied, k increases by 1 up to its limit. -/
  | clockStepIncrease (c : CoreId) (temp : Byte) (droop : Bool)
  /-- POWER_ON (R393): The module runs the power-on sequence from firmware verification to base die ready. -/
  | powerOn (stop : Nat)
  /-- CHIPLET_JOIN (R394): After link and lane self-test a chiplet moves from OFF or FENCED to PROVISIONAL service. -/
  | chipletJoin (c : ChipletId) (pass : Bool)
  /-- TILE_SELF_TEST (R395): A PROVISIONAL chiplet's tile self-test ends, moving it to FULL service or fencing it. -/
  | tileSelfTest (c : ChipletId) (pass : Bool)
  /-- HOST_MEMORY_WRITE (R380): A host write to the device memory window performs in global memory or is dropped whole. -/
  | hostMemoryWrite (off : Nat) (bytes : List Byte)
  /-- HOST_MEMORY_READ (R380): A host read of the device memory window completes with data or an error status. -/
  | hostMemoryRead (off n : Nat)
  /-- CONTROL_REGISTER_WRITE (R7): A host write to a control BAR register with no behaviour of its own updates its writable fields. -/
  | controlRegisterWrite (off : Nat) (v : Word)
  /-- EXPLORE (R384): Writing FCTL.EXPLORE floods adjacency and fills the fabric route table. -/
  | explore (map : FabricMap)
  /-- FABRIC_ENABLE (R383): Setting FCTL.EN lets the Yoter ports train and carry traffic. -/
  | fabricEnable (v : Word)
  /-- PORT_TRAINED (R383): A Yoter port completes training on all four lanes. -/
  | portTrained (p : Fin 16)
  /-- PORT_TRAINING_LOST (R383): A port loses training and drops the flits it holds. -/
  | portTrainingLost (p : Fin 16)
  /-- FLIT_CRC_RETRY (R383): A flit received with a bad CRC is retried by the link. -/
  | flitCrcRetry (p : Fin 16)
  /-- REMOTE_ACCESS (R242): A remote load, store or AMO performs at its home on the named module. -/
  | remoteAccess (msg : RemoteMsg)
  /-- FABRIC_TRAIN (R387): A home module applies an arriving train whose count matches and acknowledges it. -/
  | fabricTrain (src : Byte) (load : TrainLoad) (count : Nat)
  /-- FABRIC_ACK (R387): An acknowledgement of a train or remote write arrives at the sender. -/
  | fabricAck (h : HartId) (m : Byte)
  /-- FABRIC_TIMEOUT (R385): An unacknowledged remote access or train times out after FTO base clocks. -/
  | fabricTimeout (h : HartId)
  /-- COMBINE_INPUT (R389): A combining router receives a collective input and combines along the rank tree. -/
  | combineInput (inp : CollInput)
  /-- COMBINE_NODE_TIMEOUT (R390): A tree node counts inputs not arrived FTO after the first as absent. -/
  | combineNodeTimeout (node : NodeKey)
  /-- COLLECTIVE_RESULT (R389): A member receives the root result and writes DST and then STAT. -/
  | collectiveResult (result : MemberResult)
  /-- COLLECTIVE_MEMBER_TIMEOUT (R390): A member that receives no result in time writes STAT with TIMEOUT. -/
  | collectiveMemberTimeout (key : CollKey)
  /-- GETCERT (R402): The trust mailbox command writes the device identity certificate into BUF. -/
  | getcert
  /-- ATTEST (R402): The trust mailbox command writes a signed attestation report into BUF. -/
  | attest
  /-- LOADFW (R402): The trust mailbox command verifies an image and writes it to the unused bank, switching the marker. -/
  | loadfw
  /-- MAILBOX_BAD_COMMAND (R402): A CMD write with an unassigned op finishes at once with RES = 2. -/
  | mailboxBadCommand (op : Byte)
  /-- MAILBOX_COMMAND_COMPLETE (R402): A mailbox command finishes, clearing BUSY and signalling MSI-X vector 18. -/
  | mailboxCommandComplete
  /-- ILLEGAL_OP (R31): A fetched word whose major is unassigned, whose unit is absent, or whose reserved bits are nonzero raises its decode trap without effect. -/
  | illegalOp (w : BitVec 32)
  /-- FETCH_FAULT (R31): An instruction fetch at the pc faults (ADDR_NONCANON or a translation cause such as PAGE_EXEC) before any word exists to decode. -/
  | fetchFault
  /-- POWER_LOSS (R402): Loss of module power ends all activity, leaving only flash (firmware banks and active-bank marker) as it stood. -/
  | powerLoss
  deriving DecidableEq, Repr

end Sys2Proof
end

