-- ==== Sys2Proof/WellFormed.lean ====
section
/-! DEFINITION. Which terms of Instr are instructions of the manual: the operand values that Tables 2.3 to 2.7 leave
out (R30, R33, R38, R286). Events take whatever comes from outside. -/

namespace Sys2Proof

/-- Control-register numbers of Table 3.4, of the descriptors vdescn (0x040 + n) and qdescn (0x060 + n), and tcinv. -/
def csrAssigned (n : BitVec 12) : Bool :=
  let m := n.toNat
  m ≤ 0x00A || (0x010 ≤ m && m ≤ 0x013) || (0x020 ≤ m && m ≤ 0x024) || (0x040 ≤ m && m ≤ 0x07F) || m == 0x110 ||
    (0x200 ≤ m && m ≤ 0x208)

/-- The control registers reserved to the supervisor (Table 3.4, R200). -/
def csrSupervisor (n : BitVec 12) : Bool :=
  n.toNat == 0x110 || (0x200 ≤ n.toNat && n.toNat ≤ 0x208)

/-- An instruction whose operands the manual admits. -/
def Instr.wellFormed : Instr → Bool
  | .pfx _ _ cp d2 => cp != 0 || d2 == 0
  | .loop _ len => len != 0
  | .csrr _ n | .csrw _ n | .csrs _ n | .csrc _ n | .csrrw _ _ n => csrAssigned n
  | .waitBarrier _ _ b => b != 0
  | .vmerge _ _ _ m | .vcompress _ _ m | .vexpand _ _ m => m != 0
  | .vldp _ _ _ p => p != 0
  | .cpy _ a | .cpyq _ a | .cpyx _ a | .cpyw _ a => decide (a.toNat ≤ 26)
  | _ => true

end Sys2Proof
end

