-- ==== Sys2Proof/Decode.lean ====
section
/-! DEFINITION. Decoding instruction words (R26 to R37, R42), total on every word, and the encoder written from the
same tables. Where a definition is noncomputable it is so for one reason: Lean's compiler has no code for the 246th
constructor with fields of one type; the kernel evaluates every definition here on numerals. -/

namespace Sys2Proof

/-! ### Fields of Table 2.1 -/

/-- op[31:26]. -/
def fOp (w : BitVec 32) : BitVec 6 := w.extractLsb' 26 6
/-- d[25:21] (also vd, v and c; the first register of the B format). -/
def fD (w : BitVec 32) : Reg := w.extractLsb' 21 5
/-- a[20:16] (also va; the second register of the B format). -/
def fA (w : BitVec 32) : Reg := w.extractLsb' 16 5
/-- b[15:11] (also vb and x). -/
def fB (w : BitVec 32) : Reg := w.extractLsb' 11 5
/-- fn[10:0] of the R format. -/
def fFn (w : BitVec 32) : BitVec 11 := w.extractLsb' 0 11
/-- imm16[15:0]. -/
def fImm16 (w : BitVec 32) : BitVec 16 := w.extractLsb' 0 16
/-- off21[20:0]. -/
def fOff21 (w : BitVec 32) : BitVec 21 := w.extractLsb' 0 21
/-- sz[15:13] of the MEM and S formats. -/
def fSz (w : BitVec 32) : BitVec 3 := w.extractLsb' 13 3
/-- imm13[12:0]. -/
def fImm13 (w : BitVec 32) : BitVec 13 := w.extractLsb' 0 13
/-- k[10:8] of the V and VM formats. -/
def fK (w : BitVec 32) : KReg := w.extractLsb' 8 3
/-- fn[7:6] of the V format, the kind of source b (R34). -/
def fKind (w : BitVec 32) : BitVec 2 := w.extractLsb' 6 2
/-- fn[5:0] of the V format. -/
def fFn6 (w : BitVec 32) : BitVec 6 := w.extractLsb' 0 6
/-- mode[7:6] and variant[5:4] of the VM format; the operation of VAMO (R35). -/
def fMv (w : BitVec 32) : BitVec 4 := w.extractLsb' 4 4
/-- planes-1 [3:0] of the VM format. -/
def fP4 (w : BitVec 32) : BitVec 4 := w.extractLsb' 0 4
/-- z[25] of the M format. -/
def fZ (w : BitVec 32) : BitVec 1 := w.extractLsb' 25 1
/-- va[24:20] of the M format. -/
def fMa (w : BitVec 32) : Reg := w.extractLsb' 20 5
/-- vb[19:15] of the M format. -/
def fMb (w : BitVec 32) : Reg := w.extractLsb' 15 5
/-- kr[14:12] of the M format. -/
def fKr (w : BitVec 32) : KReg := w.extractLsb' 12 3
/-- kc[11:9] of the M format. -/
def fKc (w : BitVec 32) : KReg := w.extractLsb' 9 3
/-- fn[8:0] of the M format. -/
def fFn9 (w : BitVec 32) : BitVec 9 := w.extractLsb' 0 9

/-- The low three bits of a register field that names a mask register (R27). -/
def kOf (r : Reg) : KReg := r.extractLsb' 0 3
/-- The upper two bits of such a field, which must be zero (R30). -/
def kHi (r : Reg) : BitVec 2 := r.extractLsb' 3 2
/-- A mask register in a five-bit field. -/
def kField (k : KReg) : Reg := (0 : BitVec 2) ++ k

/-! ### Sub-fields -/

/-- The width bit of an AMO. -/
def AmoWidth.bits : AmoWidth → BitVec 1
  | .w => 0 | .d => 1
/-- The AMO width a bit names. -/
def amoWidthOf (b : BitVec 1) : AmoWidth := if b = 0 then .w else .d

/-- The scope bits of Table 2.3. -/
def Scope.bits : Scope → BitVec 2
  | .h => 0 | .c => 1 | .p => 2 | .s => 3
/-- The scope two bits name. -/
def scopeOf (b : BitVec 2) : Scope :=
  if b = 0 then .h else if b = 1 then .c else if b = 2 then .p else .s

/-- The order bits of Table 2.3. -/
def Order.bits : Order → BitVec 2
  | .none => 0 | .acq => 1 | .rel => 2 | .ar => 3
/-- The order two bits name. -/
def orderOf (b : BitVec 2) : Order :=
  if b = 0 then .none else if b = 1 then .acq else if b = 2 then .rel else .ar

/-- The set bits of a FENCE (Table 2.3). -/
def FenceSet.bits : FenceSet → BitVec 2
  | .rw => 0 | .r => 1 | .w => 2
/-- The set two bits name; 11 is reserved. -/
def fenceSetOf (b : BitVec 2) : Option FenceSet :=
  if b = 0 then some .rw else if b = 1 then some .r else if b = 2 then some .w else none

/-- The rounding bits of an FPU word (Table 2.3). -/
def Rnd.bits : Rnd → BitVec 3
  | .rne => 0 | .rtz => 1 | .rdn => 2 | .rup => 3 | .rmm => 4
/-- The rounding three bits name; 101 to 111 are reserved. -/
def rndOf (b : BitVec 3) : Option Rnd :=
  if b = 0 then some .rne else if b = 1 then some .rtz else if b = 2 then some .rdn
  else if b = 3 then some .rup else if b = 4 then some .rmm else none

/-- The precision bit of an FPU word. -/
def Prec.bits : Prec → BitVec 1
  | .s => 0 | .d => 1
/-- The precision a bit names. -/
def precOf (b : BitVec 1) : Prec := if b = 0 then .s else .d

/-- The kind bits of source b (R34). -/
def BSrc.kind : BSrc → BitVec 2
  | .vec _ => 0 | .scalar _ => 1 | .imm _ => 2
/-- The vb field of source b. -/
def BSrc.field : BSrc → BitVec 5
  | .vec r => r | .scalar r => r | .imm i => i
/-- Source b of a group that takes all three kinds. -/
def bSrcOf (k : BitVec 2) (f : BitVec 5) : Option BSrc :=
  if k = 0 then some (.vec f) else if k = 1 then some (.scalar f) else if k = 2 then some (.imm f) else none

/-- The kind bits of a vector or scalar source. -/
def VsSrc.kind : VsSrc → BitVec 2
  | .vec _ => 0 | .scalar _ => 1
/-- The vb field of a vector or scalar source. -/
def VsSrc.field : VsSrc → BitVec 5
  | .vec r => r | .scalar r => r
/-- Source b of a group that takes no immediate. -/
def vsSrcOf (k : BitVec 2) (f : BitVec 5) : Option VsSrc :=
  if k = 0 then some (.vec f) else if k = 1 then some (.scalar f) else none

/-- The kind bits of a slide amount. -/
def SiSrc.kind : SiSrc → BitVec 2
  | .scalar _ => 1 | .imm _ => 2
/-- The vb field of a slide amount. -/
def SiSrc.field : SiSrc → BitVec 5
  | .scalar r => r | .imm i => i
/-- Source b of a slide (Table 5.3). -/
def siSrcOf (k : BitVec 2) (f : BitVec 5) : Option SiSrc :=
  if k = 1 then some (.scalar f) else if k = 2 then some (.imm f) else none

/-- A Boolean as a bit. -/
def boolBit (b : Bool) : BitVec 1 := if b then 1 else 0

/-! ### The groups of Tables 2.3 to 2.7: none where a reserved bit or value is used (R30) -/

/-- `i` when the field that the operation does not use is zero (R30). -/
def unused (f : Reg) (i : Instr) : Option Instr := if f = 0 then some i else none

/-- `i` when the field's upper two bits are zero: the field names a mask register (R27, R30). -/
def asK (f : Reg) (i : KReg → Instr) : Option Instr := if kHi f = 0 then some (i (kOf f)) else none

/-- PFX (R38). -/
noncomputable def decodePfx (w : BitVec 32) : Option Instr :=
  let cp : BitVec 1 := w.extractLsb' 19 1
  let d2 : Reg := w.extractLsb' 14 5
  if (w.extractLsb' 0 14 : BitVec 14) ≠ 0 then none
  else if cp = 0 ∧ d2 ≠ 0 then none
  else some (.pfx (fD w) (w.extractLsb' 20 1) cp d2)

/-- ALU, fn[10:5] reserved (Table 2.3). -/
def decodeAlu (w : BitVec 32) : Option Instr :=
  match (fFn w).toNat with
  | 0 => some (.add (fD w) (fA w) (fB w))
  | 1 => some (.sub (fD w) (fA w) (fB w))
  | 2 => some (.and (fD w) (fA w) (fB w))
  | 3 => some (.or (fD w) (fA w) (fB w))
  | 4 => some (.xor (fD w) (fA w) (fB w))
  | 5 => some (.nor (fD w) (fA w) (fB w))
  | 6 => some (.sll (fD w) (fA w) (fB w))
  | 7 => some (.srl (fD w) (fA w) (fB w))
  | 8 => some (.sra (fD w) (fA w) (fB w))
  | 9 => some (.rol (fD w) (fA w) (fB w))
  | 10 => some (.ror (fD w) (fA w) (fB w))
  | 11 => some (.slt (fD w) (fA w) (fB w))
  | 12 => some (.sltu (fD w) (fA w) (fB w))
  | 13 => some (.min (fD w) (fA w) (fB w))
  | 14 => some (.max (fD w) (fA w) (fB w))
  | 15 => some (.minu (fD w) (fA w) (fB w))
  | 16 => some (.maxu (fD w) (fA w) (fB w))
  | 17 => some (.mul (fD w) (fA w) (fB w))
  | 18 => some (.mulh (fD w) (fA w) (fB w))
  | 19 => some (.mulhu (fD w) (fA w) (fB w))
  | 20 => some (.div (fD w) (fA w) (fB w))
  | 21 => some (.divu (fD w) (fA w) (fB w))
  | 22 => some (.rem (fD w) (fA w) (fB w))
  | 23 => some (.remu (fD w) (fA w) (fB w))
  | 24 => unused (fB w) (.clz (fD w) (fA w))
  | 25 => unused (fB w) (.ctz (fD w) (fA w))
  | 26 => unused (fB w) (.popc (fD w) (fA w))
  | 27 => some (.bext (fD w) (fA w) (fB w))
  | 28 => some (.bins (fD w) (fA w) (fB w))
  | _ => none

/-- SHI, imm16[15:8] reserved. -/
def decodeShi (w : BitVec 32) : Option Instr :=
  let n : BitVec 6 := w.extractLsb' 0 6
  match (w.extractLsb' 6 10 : BitVec 10).toNat with
  | 0 => some (.slli (fD w) (fA w) n)
  | 1 => some (.srli (fD w) (fA w) n)
  | 2 => some (.srai (fD w) (fA w) n)
  | 3 => some (.rori (fD w) (fA w) n)
  | _ => none

/-- LI and LIK, a[20:18] reserved. -/
def decodeLi (f : Reg → BitVec 2 → BitVec 16 → Instr) (w : BitVec 32) : Option Instr :=
  if (w.extractLsb' 18 3 : BitVec 3) = 0 then some (f (fD w) (w.extractLsb' 16 2) (fImm16 w)) else none

/-- BMASK: cond a[25:24], k a[23:21], b reserved. -/
def decodeBmask (w : BitVec 32) : Option Instr :=
  let k := kOf (fD w)
  if fA w ≠ 0 then none else
  match (kHi (fD w)).toNat with
  | 0 => some (.bmnone k (fImm16 w))
  | 1 => some (.bmany k (fImm16 w))
  | 2 => some (.bmall k (fImm16 w))
  | _ => none

/-- LOOP: b reserved, a body length of 0 reserved. -/
def decodeLoop (w : BitVec 32) : Option Instr :=
  if fImm16 w = 0 then none else unused (fA w) (.loop (fD w) (fImm16 w))

/-- LDS. -/
def decodeLds (w : BitVec 32) : Option Instr :=
  match (fSz w).toNat with
  | 0 => some (.ldb (fD w) (fA w) (fImm13 w))
  | 1 => some (.ldh (fD w) (fA w) (fImm13 w))
  | 2 => some (.ldw (fD w) (fA w) (fImm13 w))
  | 3 => some (.ldd (fD w) (fA w) (fImm13 w))
  | 4 => some (.ldbu (fD w) (fA w) (fImm13 w))
  | 5 => some (.ldhu (fD w) (fA w) (fImm13 w))
  | 6 => some (.ldwu (fD w) (fA w) (fImm13 w))
  | _ => none

/-- STS. -/
def decodeSts (w : BitVec 32) : Option Instr :=
  match (fSz w).toNat with
  | 0 => some (.stb (fD w) (fA w) (fImm13 w))
  | 1 => some (.sth (fD w) (fA w) (fImm13 w))
  | 2 => some (.stw (fD w) (fA w) (fImm13 w))
  | 3 => some (.std (fD w) (fA w) (fImm13 w))
  | _ => none

/-- FLS. -/
def decodeFls (w : BitVec 32) : Option Instr :=
  match (fSz w).toNat with
  | 0 => some (.flw (fD w) (fA w) (fImm13 w))
  | 1 => some (.fld (fD w) (fA w) (fImm13 w))
  | 2 => some (.fsw (fD w) (fA w) (fImm13 w))
  | 3 => some (.fsd (fD w) (fA w) (fImm13 w))
  | _ => none

/-- AMO, fn[10:9] reserved. -/
def decodeAmo (w : BitVec 32) : Option Instr :=
  let wd := amoWidthOf (w.extractLsb' 8 1)
  let sc := scopeOf (w.extractLsb' 6 2)
  let o := orderOf (w.extractLsb' 4 2)
  if (w.extractLsb' 9 2 : BitVec 2) ≠ 0 then none else
  match (fP4 w).toNat with
  | 0 => some (.amoadd (fD w) (fA w) (fB w) wd sc o)
  | 1 => some (.amoand (fD w) (fA w) (fB w) wd sc o)
  | 2 => some (.amoor (fD w) (fA w) (fB w) wd sc o)
  | 3 => some (.amoxor (fD w) (fA w) (fB w) wd sc o)
  | 4 => some (.amomin (fD w) (fA w) (fB w) wd sc o)
  | 5 => some (.amomax (fD w) (fA w) (fB w) wd sc o)
  | 6 => some (.amominu (fD w) (fA w) (fB w) wd sc o)
  | 7 => some (.amomaxu (fD w) (fA w) (fB w) wd sc o)
  | 8 => some (.amoswap (fD w) (fA w) (fB w) wd sc o)
  | 9 => some (.amocas (fD w) (fA w) (fB w) wd sc o)
  | _ => none

/-- The conversions, by selector fn[10:8]. -/
def decodeFcvt (sel : BitVec 3) (d a : Reg) (r : Rnd) (p : Prec) : Option Instr :=
  match sel.toNat with
  | 0 => some (.fcvtFf d a r p)
  | 1 => some (.fcvtFL d a r p)
  | 2 => some (.fcvtFLu d a r p)
  | 3 => some (.fcvtLF d a r p)
  | 4 => some (.fcvtLuF d a r p)
  | _ => none

/-- FPU: the selector is 000 outside fcvt, the rounding 000 where the operation takes none (Table 2.3). -/
def decodeFpu (w : BitVec 32) : Option Instr :=
  let sel : BitVec 3 := w.extractLsb' 8 3
  let rb : BitVec 3 := w.extractLsb' 5 3
  let p := precOf (w.extractLsb' 4 1)
  let d := fD w
  let a := fA w
  let b := fB w
  match rndOf rb with
  | none => none
  | some r =>
    match (fP4 w).toNat with
    | 11 => if b = 0 then decodeFcvt sel d a r p else none
    | n =>
      if sel ≠ 0 then none else
      match n with
      | 0 => some (.fadd d a b r p)
      | 1 => some (.fsub d a b r p)
      | 2 => some (.fmul d a b r p)
      | 3 => some (.fdiv d a b r p)
      | 4 => unused b (.fsqrt d a r p)
      | 5 => some (.ffma d a b r p)
      | n =>
        if rb ≠ 0 then none else
        match n with
        | 6 => some (.fmin d a b p)
        | 7 => some (.fmax d a b p)
        | 8 => some (.feq d a b p)
        | 9 => some (.flt d a b p)
        | 10 => some (.fle d a b p)
        | 12 => unused b (.fmvxf d a p)
        | 13 => unused b (.fmvfx d a p)
        | 14 => unused b (.fclass d a p)
        | _ => none

/-- SYS: every register field is zero but the a field of CTXS and CTXL (R97). -/
def decodeSys (w : BitVec 32) : Option Instr :=
  let m : BitVec 7 := w.extractLsb' 4 7
  if fD w ≠ 0 ∨ fB w ≠ 0 then none else
  match (fP4 w).toNat with
  | 0 => unused (fA w) (.trap m)
  | 3 =>
    if (w.extractLsb' 8 3 : BitVec 3) ≠ 0 then none else
    match fenceSetOf (w.extractLsb' 6 2) with
    | none => none
    | some set => unused (fA w) (.fence set (scopeOf (w.extractLsb' 4 2)))
  | n =>
    if m ≠ 0 then none else
    match n with
    | 1 => unused (fA w) .tret
    | 2 => unused (fA w) .brk
    | 4 => unused (fA w) .fencei
    | 5 => unused (fA w) .park
    | 6 => unused (fA w) .retire
    | 7 => some (.ctxs (fA w))
    | 8 => some (.ctxl (fA w))
    | _ => none

/-- CSR: imm16[12] reserved, an unassigned number reserved (R65, R72). -/
def decodeCsr (w : BitVec 32) : Option Instr :=
  let n : BitVec 12 := w.extractLsb' 0 12
  if csrAssigned n = false then none else
  match (w.extractLsb' 12 4 : BitVec 4).toNat with
  | 0 => unused (fA w) (.csrr (fD w) n)
  | 2 => unused (fD w) (.csrw (fA w) n)
  | 4 => unused (fD w) (.csrs (fA w) n)
  | 6 => unused (fD w) (.csrc (fA w) n)
  | 8 => some (.csrrw (fD w) (fA w) n)
  | _ => none

/-- SYNC. WAIT with b = 0 waits on the rope and takes d = 0; with b nonzero it waits on a barrier (R334, R339). -/
def decodeSync (w : BitVec 32) : Option Instr :=
  let d := fD w
  let a := fA w
  let b := fB w
  match (fFn w).toNat with
  | 0 => if d = 0 ∧ b = 0 then some (.post a) else none
  | 1 => if b = 0 then unused d (.waitRope a) else some (.waitBarrier d a b)
  | 2 => if d = 0 then asK b (.vwait a) else none
  | 3 => some (.bara d a b)
  | 4 => unused b (.barw d a)
  | 5 => asK a (fun k => .waitm d k b)
  | _ => none

/-- VCFG. -/
def decodeVcfg (w : BitVec 32) : Option Instr :=
  match (fFn w).toNat with
  | 0 => some (.setvl (fD w) (fA w) (fB w))
  | 1 => unused (fB w) (.settype (fD w) (fA w))
  | 2 => unused (fB w) (.setfmt (fD w) (fA w))
  | 3 => if fA w = 0 then unused (fB w) (.endstrip (fD w)) else none
  | _ => none

/-- A V word whose b kind is `k` and whose fields `f` are unused. -/
def kindIs (w : BitVec 32) (k : BitVec 2) (i : Option Instr) : Option Instr := if fKind w = k then i else none

/-- VINT (Table 2.4). -/
def decodeVint (w : BitVec 32) : Option Instr :=
  let d := fD w
  let a := fA w
  let m := fK w
  match bSrcOf (fKind w) (fB w) with
  | none => none
  | some b =>
    match (fFn6 w).toNat with
    | 0 => some (.vadd d a b m)
    | 1 => some (.vsub d a b m)
    | 2 => some (.vrsub d a b m)
    | 3 => some (.vmul d a b m)
    | 4 => some (.vmulh d a b m)
    | 5 => some (.vmac d a b m)
    | 6 => some (.vmin d a b m)
    | 7 => some (.vmax d a b m)
    | 8 => some (.vminu d a b m)
    | 9 => some (.vmaxu d a b m)
    | 10 => some (.vand d a b m)
    | 11 => some (.vor d a b m)
    | 12 => some (.vxor d a b m)
    | 13 => some (.vsll d a b m)
    | 14 => some (.vsrl d a b m)
    | 15 => some (.vsra d a b m)
    | 16 => some (.vrsh d a b m)
    | 17 => some (.vmulq d a b m)
    | 18 => kindIs w 0 (unused (fB w) (.vsat d a m))
    | 19 => kindIs w 0 (unused (fB w) (.vabs d a m))
    | 20 => if m = 0 then none else some (.vmerge d a b m)
    | 21 => unused a (.vmv d b m)
    | 22 => kindIs w 0 (if a = 0 then unused (fB w) (.vid d m) else none)
    | _ => none

/-- VFP (Table 2.4). -/
def decodeVfp (w : BitVec 32) : Option Instr :=
  let d := fD w
  let a := fA w
  let m := fK w
  match vsSrcOf (fKind w) (fB w) with
  | none => none
  | some b =>
    match (fFn6 w).toNat with
    | 0 => some (.vfadd d a b m)
    | 1 => some (.vfsub d a b m)
    | 2 => some (.vfmul d a b m)
    | 3 => some (.vfdiv d a b m)
    | 4 => some (.vffma d a b m)
    | 5 => some (.vfmin d a b m)
    | 6 => some (.vfmax d a b m)
    | 7 => kindIs w 0 (unused (fB w) (.vfsqrt d a m))
    | 8 => kindIs w 0 (unused (fB w) (.vfexp2 d a m))
    | 9 => kindIs w 0 (unused (fB w) (.vfrcp d a m))
    | 10 => kindIs w 0 (unused (fB w) (.vfabs d a m))
    | 11 => kindIs w 0 (unused (fB w) (.vfneg d a m))
    | _ => none

/-- The compares of VMSK: vd names a mask register. -/
def decodeVcmp (w : BitVec 32) (d : KReg) : Option Instr :=
  let a := fA w
  let m := fK w
  match bSrcOf (fKind w) (fB w) with
  | none => none
  | some b =>
    match (fFn6 w).toNat with
    | 0 => some (.vcmpeq d a b m)
    | 1 => some (.vcmpne d a b m)
    | 2 => some (.vcmplt d a b m)
    | 3 => some (.vcmple d a b m)
    | 4 => some (.vcmpltu d a b m)
    | 5 => some (.vcmpleu d a b m)
    | n =>
      match vsSrcOf (fKind w) (fB w) with
      | none => none
      | some b =>
        match n with
        | 6 => some (.vfcmpeq d a b m)
        | 7 => some (.vfcmplt d a b m)
        | 8 => some (.vfcmple d a b m)
        | 9 => some (.vfcmpuo d a b m)
        | _ => none

/-- The mask operations kand to kmov and kset: k field 0, every mask operand with zero upper bits. -/
def decodeKop (w : BitVec 32) (d : KReg) : Option Instr :=
  let a := fA w
  let b := fB w
  if fK w ≠ 0 then none else
  match (fFn6 w).toNat with
  | 0x10 => if kHi a = 0 then asK b (.kand d (kOf a)) else none
  | 0x11 => if kHi a = 0 then asK b (.kor d (kOf a)) else none
  | 0x12 => if kHi a = 0 then asK b (.kxor d (kOf a)) else none
  | 0x13 => if kHi a = 0 then asK b (.kandn d (kOf a)) else none
  | 0x14 => if b = 0 then asK a (.knot d) else none
  | 0x15 => if b = 0 then asK a (.kmov d) else none
  | 0x18 => unused b (.kset d a)
  | _ => none

/-- VMSK (Table 2.4). -/
def decodeVmsk (w : BitVec 32) : Option Instr :=
  match (fFn6 w).toNat with
  | 0x16 => kindIs w 0 (if fB w = 0 then asK (fA w) (fun k => .kpopc (fD w) k (fK w)) else none)
  | 0x17 => kindIs w 0 (if fB w = 0 then asK (fA w) (fun k => .kfirst (fD w) k (fK w)) else none)
  | n =>
    if kHi (fD w) ≠ 0 then none
    else if n < 10 then decodeVcmp w (kOf (fD w))
    else kindIs w 0 (decodeKop w (kOf (fD w)))

/-- VPERM (Table 5.3). -/
def decodeVperm (w : BitVec 32) : Option Instr :=
  let d := fD w
  let a := fA w
  let b := fB w
  let m := fK w
  match (fFn6 w).toNat with
  | 0 => kindIs w 0 (if m = 0 then none else unused b (.vcompress d a m))
  | 1 => kindIs w 0 (if m = 0 then none else unused b (.vexpand d a m))
  | 2 =>
    match siSrcOf (fKind w) b with
    | none => none
    | some s => some (.vslideup d a s m)
  | 3 =>
    match siSrcOf (fKind w) b with
    | none => none
    | some s => some (.vslidedn d a s m)
  | 4 => kindIs w 0 (some (.vperm d a b m))
  | 5 => kindIs w 0 (if b = 0 then asK a (fun k => .vprefpop d k m) else none)
  | 6 => kindIs w 0 (unused b (.vconflict d a m))
  | 7 => kindIs w 1 (some (.vbcast d a b m))
  | 8 => kindIs w 1 (if m = 0 then some (.vext d a b) else none)
  | 9 => kindIs w 1 (some (.vins d a b m))
  | _ => none

/-- VRED (Table 2.4, Table 5.5, R153, R158). -/
def decodeVred (w : BitVec 32) : Option Instr :=
  let d := fD w
  let a := fA w
  let b := fB w
  let m := fK w
  match (fFn6 w).toNat with
  | 0 => kindIs w 1 (some (.vredsum d a b m))
  | 1 => kindIs w 1 (some (.vredmax d a b m))
  | 2 => kindIs w 1 (some (.vredmin d a b m))
  | 3 => kindIs w 1 (some (.vredmaxu d a b m))
  | 4 => kindIs w 1 (some (.vredminu d a b m))
  | 5 => kindIs w 1 (some (.vredand d a b m))
  | 6 => kindIs w 1 (some (.vredor d a b m))
  | 7 => kindIs w 1 (some (.vfredsum d a b m))
  | 8 => kindIs w 1 (some (.vfredmax d a b m))
  | 9 => kindIs w 1 (some (.vfredmin d a b m))
  | 10 =>
    match (fKind w).toNat with
    | 0 => asK b (fun h => .vscanSeg d a h m)
    | 1 => some (.vscan d a b m)
    | _ => none
  | 11 =>
    if m ≠ 0 then none else
    match (fKind w).toNat with
    | 0 => asK b (.vfscanSeg d a)
    | 1 => some (.vfscan d a b)
    | _ => none
  | 12 => kindIs w 0 (if d = 0 ∧ b = 0 ∧ m = 0 then some (.rshsave a) else none)
  | 13 => kindIs w 0 (if d = 0 ∧ b = 0 ∧ m = 0 then some (.rshload a) else none)
  | _ => none

/-- VCVT (Table 2.4; R181 to R186). -/
def decodeVcvt (w : BitVec 32) : Option Instr :=
  let d := fD w
  let a := fA w
  let b := fB w
  let m := fK w
  match (fFn6 w).toNat with
  | 0 => kindIs w 1 (some (.vcvt d a b m))
  | 1 => kindIs w 1 (if m = 0 then some (.vquant d a b) else none)
  | 2 => kindIs w 1 (some (.vdeq d a b m))
  | 3 => kindIs w 2 (some (.vplanes d a (b.extractLsb' 4 1) (b.extractLsb' 0 4) m))
  | 4 => kindIs w 1 (if a = 0 ∧ m = 0 then some (.vsetq d b) else none)
  | 5 =>
    if m ≠ 0 then none else
    match b.toNat with
    | 0 => kindIs w 0 (some (.vqmvQv d a))
    | 1 => kindIs w 0 (some (.vqmvVq d a))
    | _ => none
  | _ => none

/-- Vector loads (Table 2.5). -/
def decodeVld (w : BitVec 32) : Option Instr :=
  let v := fD w
  let a := fA w
  let x := fB w
  let m := fK w
  if fMv w = 3 then (if x = 0 ∧ fP4 w ≠ 0 then some (.vldp v a m (fP4 w)) else none)
  else if fP4 w ≠ 0 then none else
  match (fMv w).toNat with
  | 0 => unused x (.vld v a m)
  | 4 => some (.vlds v a x m)
  | 8 => some (.vldx v a x m)
  | 1 => unused x (.vldff v a m)
  | 2 => some (.vldc v a x m)
  | _ => none

/-- Vector stores (Table 2.5). -/
def decodeVst (w : BitVec 32) : Option Instr :=
  let v := fD w
  let a := fA w
  let x := fB w
  let m := fK w
  if fP4 w ≠ 0 then none else
  match (fMv w).toNat with
  | 0 => unused x (.vst v a m)
  | 4 => some (.vsts v a x m)
  | 8 => some (.vstx v a x m)
  | 12 => some (.vstxu v a x m)
  | _ => none

/-- VAMO: bits [2:0] reserved (Table 2.5). -/
def decodeVamo (w : BitVec 32) : Option Instr :=
  let v := fD w
  let a := fA w
  let x := fB w
  let m := fK w
  let nr := decide ((w.extractLsb' 3 1 : BitVec 1) = 1)
  if (w.extractLsb' 0 3 : BitVec 3) ≠ 0 then none else
  match (fMv w).toNat with
  | 0 => some (.vamoadd v a x m nr)
  | 1 => some (.vamomin v a x m nr)
  | 2 => some (.vamomax v a x m nr)
  | 3 => some (.vamoand v a x m nr)
  | 4 => some (.vamoor v a x m nr)
  | 5 => some (.vamoxor v a x m nr)
  | 6 => some (.vamoswap v a x m nr)
  | _ => none

/-- QLS. -/
def decodeQls (w : BitVec 32) : Option Instr :=
  match (fSz w).toNat with
  | 0 => some (.qld (fD w) (fA w) (fImm13 w))
  | 1 => some (.qst (fD w) (fA w) (fImm13 w))
  | 2 => asK (fD w) (fun k => .kld k (fA w) (fImm13 w))
  | 3 => asK (fD w) (fun k => .kst k (fA w) (fImm13 w))
  | _ => none

/-- MTILE (Table 2.6). -/
def decodeMtile (w : BitVec 32) : Option Instr :=
  let z := fZ w
  let va := fMa w
  let vb := fMb w
  if fKr w ≠ 0 ∨ fKc w ≠ 0 then none else
  match (fFn9 w).toNat with
  | 0 => if z = 0 ∧ va = 0 then unused vb .mton else none
  | 1 => if z = 0 ∧ va = 0 then unused vb .mtoff else none
  | 2 => if va = 0 then unused vb (.mzero z) else none
  | 3 => if z = 0 then unused vb (.mcfg va) else none
  | 4 => if z = 0 then some (.tshape va vb) else none
  | _ => none

/-- MOPA. -/
def decodeMopa (w : BitVec 32) : Option Instr :=
  if fFn9 w = 0 then some (.mopa (fZ w) (fMa w) (fMb w) (fKr w) (fKc w)) else none

/-- MSLC: fn[8] mrd or mwr, fn[7] row or column, kc reserved. -/
def decodeMslc (w : BitVec 32) : Option Instr :=
  let c : BitVec 1 := w.extractLsb' 7 1
  if (w.extractLsb' 0 7 : BitVec 7) ≠ 0 ∨ fKc w ≠ 0 then none
  else if (w.extractLsb' 8 1 : BitVec 1) = 0 then some (.mrd (fZ w) (fMa w) (fMb w) (fKr w) c)
  else some (.mwr (fZ w) (fMa w) (fMb w) (fKr w) c)

/-- XCPY: d names the chunk mask, a the first of six registers, b unused (R286). -/
noncomputable def decodeXcpy (w : BitVec 32) : Option Instr :=
  if fB w ≠ 0 ∨ 26 < (fA w).toNat then none else
  match (fFn w).toNat with
  | 0 => asK (fD w) (fun k => .cpy k (fA w))
  | 1 => asK (fD w) (fun k => .cpyq k (fA w))
  | 2 => asK (fD w) (fun k => .cpyx k (fA w))
  | 3 => asK (fD w) (fun k => .cpyw k (fA w))
  | _ => none

/-- WEAVE: fn[6:4] the slot, fn[10:7] reserved. -/
noncomputable def decodeWeave (w : BitVec 32) : Option Instr :=
  let s : KReg := w.extractLsb' 4 3
  let d := fD w
  let a := fA w
  let b := fB w
  if (w.extractLsb' 7 4 : BitVec 4) ≠ 0 then none else
  match (fP4 w).toNat with
  | 0 => unused b (.wvopen d a s)
  | 1 => asK d (fun h => .wvstep h a b s)
  | 2 => some (.wvsplit d a b s)
  | 3 => if d = 0 then unused b (.wvsave a s) else none
  | 4 => if d = 0 then unused b (.wvload a s) else none
  | 5 => if d = 0 ∧ a = 0 then unused b (.wvclose s) else none
  | _ => none

/-- FARM. -/
noncomputable def decodeFarm (w : BitVec 32) : Option Instr :=
  let d := fD w
  let a := fA w
  let b := fB w
  match (fFn w).toNat with
  | 0 => some (.farm d a b)
  | 1 => if a = 0 then unused b (.strip d) else none
  | 2 => if d = 0 ∧ a = 0 then unused b .scommit else none
  | 3 => unused d (.sdep a b)
  | 4 => unused b (.farmw d a)
  | _ => none

/-- FAB. -/
noncomputable def decodeFab (w : BitVec 32) : Option Instr :=
  let d := fD w
  let a := fA w
  let b := fB w
  match (fFn w).toNat with
  | 0 => some (.rscat d a b)
  | 1 => if d = 0 then unused b (.rmcast a) else none
  | 2 => if d = 0 then unused b (.rcomb a) else none
  | 3 => unused b (.rwait d a)
  | _ => none

/-! ### Table 2.2 -/

/-- The first three decode checks of Table 2.2, in order. -/
inductive DecodeError where
  | illegalOp | noUnit | illegalField
  deriving DecidableEq, Repr

/-- Majors that no group uses (Table 2.2, check 1). -/
def majorReserved (op : Nat) : Bool :=
  op == 0 || (0x0D ≤ op && op ≤ 0x0F) || op == 0x23 || op == 0x2E || op == 0x2F || op == 0x33 || 0x38 ≤ op

/-- Majors of a unit that the part does not have (R13, check 2). -/
def majorAbsent (p : Part) (op : Nat) : Bool :=
  (op == 0x35 && !Config.hasWeave p) || (op == 0x37 && !Config.hasFab p)

/-- The instruction of a word of the groups whose instructions the compiler can construct, none where check 3 fails. -/
def decodeOther (w : BitVec 32) : Option Instr :=
  match (fOp w).toNat with
  | 0x02 => decodeAlu w
  | 0x03 => some (.addi (fD w) (fA w) (fImm16 w))
  | 0x04 => some (.andi (fD w) (fA w) (fImm16 w))
  | 0x05 => some (.ori (fD w) (fA w) (fImm16 w))
  | 0x06 => some (.xori (fD w) (fA w) (fImm16 w))
  | 0x07 => some (.slti (fD w) (fA w) (fImm16 w))
  | 0x08 => some (.sltiu (fD w) (fA w) (fImm16 w))
  | 0x09 => decodeShi w
  | 0x0A => decodeLi .li w
  | 0x0B => decodeLi .lik w
  | 0x0C => some (.addpc (fD w) (fOff21 w))
  | 0x10 => some (.beq (fD w) (fA w) (fImm16 w))
  | 0x11 => some (.bne (fD w) (fA w) (fImm16 w))
  | 0x12 => some (.blt (fD w) (fA w) (fImm16 w))
  | 0x13 => some (.bge (fD w) (fA w) (fImm16 w))
  | 0x14 => some (.bltu (fD w) (fA w) (fImm16 w))
  | 0x15 => some (.bgeu (fD w) (fA w) (fImm16 w))
  | 0x16 => decodeBmask w
  | 0x17 => some (.jal (fD w) (fOff21 w))
  | 0x18 => some (.jalr (fD w) (fA w) (fImm16 w))
  | 0x19 => decodeLoop w
  | 0x1A => decodeLds w
  | 0x1B => decodeSts w
  | 0x1C => decodeAmo w
  | 0x1D => decodeFpu w
  | 0x1E => decodeFls w
  | 0x1F => decodeSys w
  | 0x20 => decodeCsr w
  | 0x21 => decodeSync w
  | 0x22 => decodeVcfg w
  | 0x24 => decodeVint w
  | 0x25 => decodeVfp w
  | 0x26 => decodeVmsk w
  | 0x27 => decodeVperm w
  | 0x28 => decodeVred w
  | 0x29 => decodeVcvt w
  | 0x2A => decodeVld w
  | 0x2B => decodeVst w
  | 0x2C => decodeVamo w
  | 0x2D => decodeQls w
  | 0x30 => decodeMtile w
  | 0x31 => decodeMopa w
  | 0x32 => decodeMslc w
  | _ => none

/-- The instruction of a word whose major is assigned, none where check 3 fails. -/
noncomputable def decodeMajor (w : BitVec 32) : Option Instr :=
  match (fOp w).toNat with
  | 0x01 => decodePfx w
  | 0x34 => decodeXcpy w
  | 0x35 => decodeWeave w
  | 0x36 => decodeFarm w
  | 0x37 => decodeFab w
  | _ => decodeOther w

/-- Check 3 of Table 2.2 on a PFX (R38). -/
def pfxOk (w : BitVec 32) : Bool :=
  (w.extractLsb' 0 14 : BitVec 14) == 0 && !((w.extractLsb' 19 1 : BitVec 1) == 0 && (w.extractLsb' 14 5 : Reg) != 0)

/-- Check 3 on a copy. -/
def xcpyOk (w : BitVec 32) : Bool :=
  fB w == 0 && decide ((fA w).toNat ≤ 26) && decide ((fFn w).toNat < 4) && kHi (fD w) == 0

/-- Check 3 on a Weave word. -/
def weaveOk (w : BitVec 32) : Bool :=
  (w.extractLsb' 7 4 : BitVec 4) == 0 &&
    match (fP4 w).toNat with
    | 0 => fB w == 0
    | 1 => kHi (fD w) == 0
    | 2 => true
    | 3 | 4 => fD w == 0 && fB w == 0
    | 5 => fD w == 0 && fA w == 0 && fB w == 0
    | _ => false

/-- Check 3 on a FARM word. -/
def farmOk (w : BitVec 32) : Bool :=
  match (fFn w).toNat with
  | 0 => true
  | 1 => fA w == 0 && fB w == 0
  | 2 => fD w == 0 && fA w == 0 && fB w == 0
  | 3 => fD w == 0
  | 4 => fB w == 0
  | _ => false

/-- Check 3 on a FAB word. -/
def fabOk (w : BitVec 32) : Bool :=
  match (fFn w).toNat with
  | 0 => true
  | 1 | 2 => fD w == 0 && fB w == 0
  | 3 => fB w == 0
  | _ => false

/-- Check 3 of Table 2.2 on a word of an assigned major: whether `decodeMajor` answers an instruction
(Laws/Decode.lean). -/
def fieldsOk (w : BitVec 32) : Bool :=
  match (fOp w).toNat with
  | 0x01 => pfxOk w
  | 0x34 => xcpyOk w
  | 0x35 => weaveOk w
  | 0x36 => farmOk w
  | 0x37 => fabOk w
  | _ => (decodeOther w).isSome

/-- The first of checks 1 to 3 of Table 2.2 that a word fails (R31). -/
def decodeFault (p : Part) (w : BitVec 32) : Option DecodeError :=
  let op := (fOp w).toNat
  if majorReserved op then some .illegalOp
  else if majorAbsent p op then some .noUnit
  else if fieldsOk w then none
  else some .illegalField

/-- Decode checks 1 to 3 of Table 2.2 on any word (R31). -/
noncomputable def decodeWord (p : Part) (w : BitVec 32) : Except DecodeError Instr :=
  match decodeFault p w with
  | some e => .error e
  | none =>
    match decodeMajor w with
    | some i => .ok i
    | none => .error .illegalField

/-! ### The pair check (R42) and the privilege check -/

/-- Instructions that a PFX may never precede (R42): by major, from the word alone. -/
def pairMajor (op : Nat) : Bool :=
  (0x10 ≤ op && op ≤ 0x19) || op == 0x01 || op == 0x1F || op == 0x21 || op == 0x36

/-- The file that an instruction's destination belongs to, as its encoding names it (R38, R42). -/
inductive DestFile where
  | x | f | v | k
  deriving DecidableEq, Repr

/-- The destination an instruction's encoding names, x0 included; none where it writes no x, f, v or k register
(R42). -/
def destOf : Instr → Option (DestFile × Reg)
  | .add d _ _ => some (.x, d)
  | .sub d _ _ => some (.x, d)
  | .and d _ _ => some (.x, d)
  | .or d _ _ => some (.x, d)
  | .xor d _ _ => some (.x, d)
  | .nor d _ _ => some (.x, d)
  | .sll d _ _ => some (.x, d)
  | .srl d _ _ => some (.x, d)
  | .sra d _ _ => some (.x, d)
  | .rol d _ _ => some (.x, d)
  | .ror d _ _ => some (.x, d)
  | .slt d _ _ => some (.x, d)
  | .sltu d _ _ => some (.x, d)
  | .min d _ _ => some (.x, d)
  | .max d _ _ => some (.x, d)
  | .minu d _ _ => some (.x, d)
  | .maxu d _ _ => some (.x, d)
  | .mul d _ _ => some (.x, d)
  | .mulh d _ _ => some (.x, d)
  | .mulhu d _ _ => some (.x, d)
  | .div d _ _ => some (.x, d)
  | .divu d _ _ => some (.x, d)
  | .rem d _ _ => some (.x, d)
  | .remu d _ _ => some (.x, d)
  | .clz d _ => some (.x, d)
  | .ctz d _ => some (.x, d)
  | .popc d _ => some (.x, d)
  | .bext d _ _ => some (.x, d)
  | .bins d _ _ => some (.x, d)
  | .addi d _ _ => some (.x, d)
  | .andi d _ _ => some (.x, d)
  | .ori d _ _ => some (.x, d)
  | .xori d _ _ => some (.x, d)
  | .slti d _ _ => some (.x, d)
  | .sltiu d _ _ => some (.x, d)
  | .slli d _ _ => some (.x, d)
  | .srli d _ _ => some (.x, d)
  | .srai d _ _ => some (.x, d)
  | .rori d _ _ => some (.x, d)
  | .li d _ _ => some (.x, d)
  | .lik d _ _ => some (.x, d)
  | .addpc d _ => some (.x, d)
  | .beq _ _ _ => none
  | .bne _ _ _ => none
  | .blt _ _ _ => none
  | .bge _ _ _ => none
  | .bltu _ _ _ => none
  | .bgeu _ _ _ => none
  | .bmnone _ _ => none
  | .bmany _ _ => none
  | .bmall _ _ => none
  | .jal d _ => some (.x, d)
  | .jalr d _ _ => some (.x, d)
  | .loop _ _ => none
  | .ldb d _ _ => some (.x, d)
  | .ldh d _ _ => some (.x, d)
  | .ldw d _ _ => some (.x, d)
  | .ldd d _ _ => some (.x, d)
  | .ldbu d _ _ => some (.x, d)
  | .ldhu d _ _ => some (.x, d)
  | .ldwu d _ _ => some (.x, d)
  | .stb _ _ _ => none
  | .sth _ _ _ => none
  | .stw _ _ _ => none
  | .std _ _ _ => none
  | .flw d _ _ => some (.f, d)
  | .fld d _ _ => some (.f, d)
  | .fsw _ _ _ => none
  | .fsd _ _ _ => none
  | .amoadd d _ _ _ _ _ => some (.x, d)
  | .amoand d _ _ _ _ _ => some (.x, d)
  | .amoor d _ _ _ _ _ => some (.x, d)
  | .amoxor d _ _ _ _ _ => some (.x, d)
  | .amomin d _ _ _ _ _ => some (.x, d)
  | .amomax d _ _ _ _ _ => some (.x, d)
  | .amominu d _ _ _ _ _ => some (.x, d)
  | .amomaxu d _ _ _ _ _ => some (.x, d)
  | .amoswap d _ _ _ _ _ => some (.x, d)
  | .amocas d _ _ _ _ _ => some (.x, d)
  | .fadd d _ _ _ _ => some (.f, d)
  | .fsub d _ _ _ _ => some (.f, d)
  | .fmul d _ _ _ _ => some (.f, d)
  | .fdiv d _ _ _ _ => some (.f, d)
  | .fsqrt d _ _ _ => some (.f, d)
  | .ffma d _ _ _ _ => some (.f, d)
  | .fmin d _ _ _ => some (.f, d)
  | .fmax d _ _ _ => some (.f, d)
  | .feq d _ _ _ => some (.x, d)
  | .flt d _ _ _ => some (.x, d)
  | .fle d _ _ _ => some (.x, d)
  | .fcvtFf d _ _ _ => some (.f, d)
  | .fcvtFL d _ _ _ => some (.f, d)
  | .fcvtFLu d _ _ _ => some (.f, d)
  | .fcvtLF d _ _ _ => some (.x, d)
  | .fcvtLuF d _ _ _ => some (.x, d)
  | .fmvxf d _ _ => some (.x, d)
  | .fmvfx d _ _ => some (.f, d)
  | .fclass d _ _ => some (.x, d)
  | .trap _ => none
  | .tret => none
  | .brk => none
  | .fence _ _ => none
  | .fencei => none
  | .park => none
  | .retire => none
  | .ctxs _ => none
  | .ctxl _ => none
  | .csrr d _ => some (.x, d)
  | .csrw _ _ => none
  | .csrs _ _ => none
  | .csrc _ _ => none
  | .csrrw d _ _ => some (.x, d)
  | .tcinvPage _ _ => none
  | .tcinvAsid _ => none
  | .tcinvAll => none
  | .tcinvNoAction => none
  | .post _ => none
  | .waitRope _ => none
  | .waitBarrier d _ _ => some (.x, d)
  | .vwait _ _ => none
  | .bara d _ _ => some (.x, d)
  | .barw d _ => some (.x, d)
  | .waitm d _ _ => some (.x, d)
  | .setvl d _ _ => some (.x, d)
  | .settype d _ => some (.x, d)
  | .setfmt d _ => some (.x, d)
  | .endstrip d => some (.x, d)
  | .vadd d _ _ _ => some (.v, d)
  | .vsub d _ _ _ => some (.v, d)
  | .vrsub d _ _ _ => some (.v, d)
  | .vmul d _ _ _ => some (.v, d)
  | .vmulh d _ _ _ => some (.v, d)
  | .vmac d _ _ _ => some (.v, d)
  | .vmin d _ _ _ => some (.v, d)
  | .vmax d _ _ _ => some (.v, d)
  | .vminu d _ _ _ => some (.v, d)
  | .vmaxu d _ _ _ => some (.v, d)
  | .vand d _ _ _ => some (.v, d)
  | .vor d _ _ _ => some (.v, d)
  | .vxor d _ _ _ => some (.v, d)
  | .vsll d _ _ _ => some (.v, d)
  | .vsrl d _ _ _ => some (.v, d)
  | .vsra d _ _ _ => some (.v, d)
  | .vrsh d _ _ _ => some (.v, d)
  | .vmulq d _ _ _ => some (.v, d)
  | .vsat d _ _ => some (.v, d)
  | .vabs d _ _ => some (.v, d)
  | .vmerge d _ _ _ => some (.v, d)
  | .vmv d _ _ => some (.v, d)
  | .vid d _ => some (.v, d)
  | .vfadd d _ _ _ => some (.v, d)
  | .vfsub d _ _ _ => some (.v, d)
  | .vfmul d _ _ _ => some (.v, d)
  | .vfdiv d _ _ _ => some (.v, d)
  | .vffma d _ _ _ => some (.v, d)
  | .vfmin d _ _ _ => some (.v, d)
  | .vfmax d _ _ _ => some (.v, d)
  | .vfsqrt d _ _ => some (.v, d)
  | .vfexp2 d _ _ => some (.v, d)
  | .vfrcp d _ _ => some (.v, d)
  | .vfabs d _ _ => some (.v, d)
  | .vfneg d _ _ => some (.v, d)
  | .vcmpeq d _ _ _ => some (.k, kField d)
  | .vcmpne d _ _ _ => some (.k, kField d)
  | .vcmplt d _ _ _ => some (.k, kField d)
  | .vcmple d _ _ _ => some (.k, kField d)
  | .vcmpltu d _ _ _ => some (.k, kField d)
  | .vcmpleu d _ _ _ => some (.k, kField d)
  | .vfcmpeq d _ _ _ => some (.k, kField d)
  | .vfcmplt d _ _ _ => some (.k, kField d)
  | .vfcmple d _ _ _ => some (.k, kField d)
  | .vfcmpuo d _ _ _ => some (.k, kField d)
  | .kand d _ _ => some (.k, kField d)
  | .kor d _ _ => some (.k, kField d)
  | .kxor d _ _ => some (.k, kField d)
  | .kandn d _ _ => some (.k, kField d)
  | .knot d _ => some (.k, kField d)
  | .kmov d _ => some (.k, kField d)
  | .kpopc d _ _ => some (.x, d)
  | .kfirst d _ _ => some (.x, d)
  | .kset d _ => some (.k, kField d)
  | .vcompress d _ _ => some (.v, d)
  | .vexpand d _ _ => some (.v, d)
  | .vslideup d _ _ _ => some (.v, d)
  | .vslidedn d _ _ _ => some (.v, d)
  | .vperm d _ _ _ => some (.v, d)
  | .vprefpop d _ _ => some (.v, d)
  | .vconflict d _ _ => some (.v, d)
  | .vbcast d _ _ _ => some (.v, d)
  | .vext d _ _ => some (.x, d)
  | .vins d _ _ _ => some (.v, d)
  | .vredsum d _ _ _ => some (.x, d)
  | .vredmax d _ _ _ => some (.x, d)
  | .vredmin d _ _ _ => some (.x, d)
  | .vredmaxu d _ _ _ => some (.x, d)
  | .vredminu d _ _ _ => some (.x, d)
  | .vredand d _ _ _ => some (.x, d)
  | .vredor d _ _ _ => some (.x, d)
  | .vfredsum d _ _ _ => some (.x, d)
  | .vfredmax d _ _ _ => some (.x, d)
  | .vfredmin d _ _ _ => some (.x, d)
  | .vscan d _ _ _ => some (.v, d)
  | .vscanSeg d _ _ _ => some (.v, d)
  | .vfscan d _ _ => some (.v, d)
  | .vfscanSeg d _ _ => some (.v, d)
  | .rshsave _ => none
  | .rshload _ => none
  | .vcvt d _ _ _ => some (.v, d)
  | .vquant d _ _ => some (.v, d)
  | .vdeq d _ _ _ => some (.v, d)
  | .vplanes d _ _ _ _ => some (.v, d)
  | .vsetq _ _ => none
  | .vqmvQv d _ => some (.v, d)
  | .vqmvVq _ _ => none
  | .vld v _ _ => some (.v, v)
  | .vlds v _ _ _ => some (.v, v)
  | .vldx v _ _ _ => some (.v, v)
  | .vldff v _ _ => some (.v, v)
  | .vldc v _ _ _ => some (.v, v)
  | .vldp v _ _ _ => some (.v, v)
  | .vst _ _ _ => none
  | .vsts _ _ _ _ => none
  | .vstx _ _ _ _ => none
  | .vstxu _ _ _ _ => none
  | .vamoadd v _ _ _ nr => if nr then none else some (.v, v)
  | .vamomin v _ _ _ nr => if nr then none else some (.v, v)
  | .vamomax v _ _ _ nr => if nr then none else some (.v, v)
  | .vamoand v _ _ _ nr => if nr then none else some (.v, v)
  | .vamoor v _ _ _ nr => if nr then none else some (.v, v)
  | .vamoxor v _ _ _ nr => if nr then none else some (.v, v)
  | .vamoswap v _ _ _ nr => if nr then none else some (.v, v)
  | .qld _ _ _ => none
  | .qst _ _ _ => none
  | .kld k _ _ => some (.k, kField k)
  | .kst _ _ _ => none
  | .mton => none
  | .mtoff => none
  | .mzero _ => none
  | .mcfg _ => none
  | .tshape d _ => some (.x, d)
  | .mopa _ _ _ _ _ => none
  | .mrd _ v _ _ _ => some (.v, v)
  | .mwr _ _ _ _ _ => none
  | .cpy _ _ => none
  | .cpyq _ _ => none
  | .cpyx _ _ => none
  | .cpyw _ _ => none
  | .wvopen d _ _ => some (.x, d)
  | .wvstep _ a _ _ => some (.v, a)
  | .wvsplit d _ _ _ => some (.x, d)
  | .wvsave _ _ => none
  | .wvload _ _ => none
  | .wvclose _ => none
  | .farm d _ _ => some (.x, d)
  | .strip d => some (.x, d)
  | .scommit => none
  | .sdep _ _ => none
  | .farmw d _ => some (.x, d)
  | .rscat _ _ _ => none
  | .rmcast _ => none
  | .rcomb _ => none
  | .rwait d _ => some (.x, d)
  | .pfx _ _ _ _ => none
  | .preempt _ => none
  | .contextSaveComplete _ => none
  | .hostSignal _ => none
  | .saturationEvent _ => none
  | .localAlarm _ => none
  | .asyncErrorReport _ => none
  | .chunkLand _ _ => none
  | .copyErrorStop _ _ _ _ => none
  | .restoredCopyStart _ _ => none
  | .storeQueueWriteHome _ _ => none
  | .pageWalk _ _ => none
  | .lockedLineGrant _ => none
  | .lockReservationGrant _ => none
  | .hostEnqueue _ _ _ => none
  | .rotationDecision => none
  | .contextRestore _ => none
  | .queueHeadWaitLimit _ => none
  | .completionWordWrite _ => none
  | .teamHartStop _ => none
  | .waitmReturn _ => none
  | .stripBlockEnd _ => none
  | .postWindowResume _ => none
  | .scommitWindowResume _ => none
  | .ropeWaitReturn _ => none
  | .vwaitReturn _ => none
  | .barrierWaitReturn _ => none
  | .farmwReturn _ => none
  | .farmQueueRoom _ => none
  | .rwaitReturn _ => none
  | .hostPreempt _ => none
  | .hsig _ => none
  | .hostFence _ => none
  | .laneSramReportLimit _ => none
  | .chipletStateUncorrectable _ => none
  | .ucieLinkFailure _ => none
  | .managementFenceRequest _ => none
  | .thermalTcrit _ _ => none
  | .supplyLimit _ => none
  | .clockStepDecrease _ _ _ => none
  | .clockStepIncrease _ _ _ => none
  | .powerOn _ => none
  | .chipletJoin _ _ => none
  | .tileSelfTest _ _ => none
  | .hostMemoryWrite _ _ => none
  | .hostMemoryRead _ _ => none
  | .controlRegisterWrite _ _ => none
  | .explore _ => none
  | .fabricEnable _ => none
  | .portTrained _ => none
  | .portTrainingLost _ => none
  | .flitCrcRetry _ => none
  | .remoteAccess _ => none
  | .fabricTrain _ _ _ => none
  | .fabricAck _ _ => none
  | .fabricTimeout _ => none
  | .combineInput _ => none
  | .combineNodeTimeout _ => none
  | .collectiveResult _ => none
  | .collectiveMemberTimeout _ => none
  | .getcert => none
  | .attest => none
  | .loadfw => none
  | .mailboxBadCommand _ => none
  | .mailboxCommandComplete => none
  | .illegalOp _ => none
  | .fetchFault => none
  | .powerLoss => none

/-- Whether an instruction may not follow a live prefix whose copy fields are `cp` and `d2` (R42). `op` is the major
of its word. -/
def pairForbidden (op : Nat) (i : Instr) (cp : Bool) (d2 : Reg) : Bool :=
  pairMajor op ||
  (cp &&
    match destOf i with
    | none => true
    | some (.k, _) => kHi d2 != 0
    | some _ => false)

/-- Operations reserved to the supervisor (Table 2.2, check 5; Table 2.3, R65). -/
def isPrivileged : Instr → Bool
  | .tret | .ctxs _ | .ctxl _ => true
  | .csrr _ n | .csrw _ n | .csrs _ n | .csrc _ n | .csrrw _ _ n => csrSupervisor n
  | _ => false

/-! ### The encoder -/

/-- The R format of Table 2.1. -/
def packR (op : BitVec 6) (d a b : Reg) (fn : BitVec 11) : BitVec 32 := op ++ d ++ a ++ b ++ fn
/-- The I and B formats. -/
def packI (op : BitVec 6) (d a : Reg) (imm : BitVec 16) : BitVec 32 := op ++ d ++ a ++ imm
/-- The J format. -/
def packJ (op : BitVec 6) (d : Reg) (off : BitVec 21) : BitVec 32 := op ++ d ++ off
/-- The MEM and S formats. -/
def packM13 (op : BitVec 6) (d a : Reg) (sz : BitVec 3) (imm : BitVec 13) : BitVec 32 := op ++ d ++ a ++ sz ++ imm
/-- The V format. -/
def packV (op : BitVec 6) (d a b : Reg) (k : KReg) (bk : BitVec 2) (fn : BitVec 6) : BitVec 32 :=
  op ++ d ++ a ++ b ++ k ++ bk ++ fn
/-- The VM format. -/
def packVM (op : BitVec 6) (v a x : Reg) (k : KReg) (mv p : BitVec 4) : BitVec 32 := op ++ v ++ a ++ x ++ k ++ mv ++ p
/-- The M format. -/
def packM (op : BitVec 6) (z : BitVec 1) (va vb : Reg) (kr kc : KReg) (fn : BitVec 9) : BitVec 32 :=
  op ++ z ++ va ++ vb ++ kr ++ kc ++ fn
/-- The PFX format. -/
def packPfx (p : Reg) (neg cp : BitVec 1) (d2 : Reg) : BitVec 32 :=
  (1 : BitVec 6) ++ p ++ neg ++ cp ++ d2 ++ (0 : BitVec 14)

/-- The word of an instruction, from Tables 2.1 to 2.7; events have none. -/
def encode : Instr → Option (BitVec 32)
  | .add d a b => some (packR 0x02 d a b 0x000)
  | .sub d a b => some (packR 0x02 d a b 0x001)
  | .and d a b => some (packR 0x02 d a b 0x002)
  | .or d a b => some (packR 0x02 d a b 0x003)
  | .xor d a b => some (packR 0x02 d a b 0x004)
  | .nor d a b => some (packR 0x02 d a b 0x005)
  | .sll d a b => some (packR 0x02 d a b 0x006)
  | .srl d a b => some (packR 0x02 d a b 0x007)
  | .sra d a b => some (packR 0x02 d a b 0x008)
  | .rol d a b => some (packR 0x02 d a b 0x009)
  | .ror d a b => some (packR 0x02 d a b 0x00a)
  | .slt d a b => some (packR 0x02 d a b 0x00b)
  | .sltu d a b => some (packR 0x02 d a b 0x00c)
  | .min d a b => some (packR 0x02 d a b 0x00d)
  | .max d a b => some (packR 0x02 d a b 0x00e)
  | .minu d a b => some (packR 0x02 d a b 0x00f)
  | .maxu d a b => some (packR 0x02 d a b 0x010)
  | .mul d a b => some (packR 0x02 d a b 0x011)
  | .mulh d a b => some (packR 0x02 d a b 0x012)
  | .mulhu d a b => some (packR 0x02 d a b 0x013)
  | .div d a b => some (packR 0x02 d a b 0x014)
  | .divu d a b => some (packR 0x02 d a b 0x015)
  | .rem d a b => some (packR 0x02 d a b 0x016)
  | .remu d a b => some (packR 0x02 d a b 0x017)
  | .clz d a => some (packR 0x02 d a 0 0x018)
  | .ctz d a => some (packR 0x02 d a 0 0x019)
  | .popc d a => some (packR 0x02 d a 0 0x01a)
  | .bext d a b => some (packR 0x02 d a b 0x01b)
  | .bins d a b => some (packR 0x02 d a b 0x01c)
  | .addi d a imm => some (packI 0x03 d a imm)
  | .andi d a imm => some (packI 0x04 d a imm)
  | .ori d a imm => some (packI 0x05 d a imm)
  | .xori d a imm => some (packI 0x06 d a imm)
  | .slti d a imm => some (packI 0x07 d a imm)
  | .sltiu d a imm => some (packI 0x08 d a imm)
  | .slli d a n => some (packI 0x09 d a ((0 : BitVec 8) ++ (0 : BitVec 2) ++ n))
  | .srli d a n => some (packI 0x09 d a ((0 : BitVec 8) ++ (1 : BitVec 2) ++ n))
  | .srai d a n => some (packI 0x09 d a ((0 : BitVec 8) ++ (2 : BitVec 2) ++ n))
  | .rori d a n => some (packI 0x09 d a ((0 : BitVec 8) ++ (3 : BitVec 2) ++ n))
  | .li d sh imm => some (packI 0x0a d ((0 : BitVec 3) ++ sh) imm)
  | .lik d sh imm => some (packI 0x0b d ((0 : BitVec 3) ++ sh) imm)
  | .addpc d off => some (packJ 0x0c d off)
  | .beq a b off => some (packI 0x10 a b off)
  | .bne a b off => some (packI 0x11 a b off)
  | .blt a b off => some (packI 0x12 a b off)
  | .bge a b off => some (packI 0x13 a b off)
  | .bltu a b off => some (packI 0x14 a b off)
  | .bgeu a b off => some (packI 0x15 a b off)
  | .bmnone k off => some (packI 0x16 ((0 : BitVec 2) ++ k) 0 off)
  | .bmany k off => some (packI 0x16 ((1 : BitVec 2) ++ k) 0 off)
  | .bmall k off => some (packI 0x16 ((2 : BitVec 2) ++ k) 0 off)
  | .jal d off => some (packJ 0x17 d off)
  | .jalr d a imm => some (packI 0x18 d a imm)
  | .loop a len => some (packI 0x19 a 0 len)
  | .ldb d a imm => some (packM13 0x1a d a 0 imm)
  | .ldh d a imm => some (packM13 0x1a d a 1 imm)
  | .ldw d a imm => some (packM13 0x1a d a 2 imm)
  | .ldd d a imm => some (packM13 0x1a d a 3 imm)
  | .ldbu d a imm => some (packM13 0x1a d a 4 imm)
  | .ldhu d a imm => some (packM13 0x1a d a 5 imm)
  | .ldwu d a imm => some (packM13 0x1a d a 6 imm)
  | .stb c a imm => some (packM13 0x1b c a 0 imm)
  | .sth c a imm => some (packM13 0x1b c a 1 imm)
  | .stw c a imm => some (packM13 0x1b c a 2 imm)
  | .std c a imm => some (packM13 0x1b c a 3 imm)
  | .flw d a imm => some (packM13 0x1e d a 0 imm)
  | .fld d a imm => some (packM13 0x1e d a 1 imm)
  | .fsw c a imm => some (packM13 0x1e c a 2 imm)
  | .fsd c a imm => some (packM13 0x1e c a 3 imm)
  | .amoadd d a b wd sc o => some (packR 0x1c d a b ((0 : BitVec 2) ++ wd.bits ++ sc.bits ++ o.bits ++ (0 : BitVec 4)))
  | .amoand d a b wd sc o => some (packR 0x1c d a b ((0 : BitVec 2) ++ wd.bits ++ sc.bits ++ o.bits ++ (1 : BitVec 4)))
  | .amoor d a b wd sc o => some (packR 0x1c d a b ((0 : BitVec 2) ++ wd.bits ++ sc.bits ++ o.bits ++ (2 : BitVec 4)))
  | .amoxor d a b wd sc o => some (packR 0x1c d a b ((0 : BitVec 2) ++ wd.bits ++ sc.bits ++ o.bits ++ (3 : BitVec 4)))
  | .amomin d a b wd sc o => some (packR 0x1c d a b ((0 : BitVec 2) ++ wd.bits ++ sc.bits ++ o.bits ++ (4 : BitVec 4)))
  | .amomax d a b wd sc o => some (packR 0x1c d a b ((0 : BitVec 2) ++ wd.bits ++ sc.bits ++ o.bits ++ (5 : BitVec 4)))
  | .amominu d a b wd sc o => some (packR 0x1c d a b ((0 : BitVec 2) ++ wd.bits ++ sc.bits ++ o.bits ++ (6 : BitVec 4)))
  | .amomaxu d a b wd sc o => some (packR 0x1c d a b ((0 : BitVec 2) ++ wd.bits ++ sc.bits ++ o.bits ++ (7 : BitVec 4)))
  | .amoswap d a b wd sc o => some (packR 0x1c d a b ((0 : BitVec 2) ++ wd.bits ++ sc.bits ++ o.bits ++ (8 : BitVec 4)))
  | .amocas d a b wd sc o => some (packR 0x1c d a b ((0 : BitVec 2) ++ wd.bits ++ sc.bits ++ o.bits ++ (9 : BitVec 4)))
  | .fadd d a b r p => some (packR 0x1d d a b ((0 : BitVec 3) ++ r.bits ++ p.bits ++ (0 : BitVec 4)))
  | .fsub d a b r p => some (packR 0x1d d a b ((0 : BitVec 3) ++ r.bits ++ p.bits ++ (1 : BitVec 4)))
  | .fmul d a b r p => some (packR 0x1d d a b ((0 : BitVec 3) ++ r.bits ++ p.bits ++ (2 : BitVec 4)))
  | .fdiv d a b r p => some (packR 0x1d d a b ((0 : BitVec 3) ++ r.bits ++ p.bits ++ (3 : BitVec 4)))
  | .fsqrt d a r p => some (packR 0x1d d a 0 ((0 : BitVec 3) ++ r.bits ++ p.bits ++ (4 : BitVec 4)))
  | .ffma d a b r p => some (packR 0x1d d a b ((0 : BitVec 3) ++ r.bits ++ p.bits ++ (5 : BitVec 4)))
  | .fmin d a b p => some (packR 0x1d d a b ((0 : BitVec 3) ++ (0 : BitVec 3) ++ p.bits ++ (6 : BitVec 4)))
  | .fmax d a b p => some (packR 0x1d d a b ((0 : BitVec 3) ++ (0 : BitVec 3) ++ p.bits ++ (7 : BitVec 4)))
  | .feq d a b p => some (packR 0x1d d a b ((0 : BitVec 3) ++ (0 : BitVec 3) ++ p.bits ++ (8 : BitVec 4)))
  | .flt d a b p => some (packR 0x1d d a b ((0 : BitVec 3) ++ (0 : BitVec 3) ++ p.bits ++ (9 : BitVec 4)))
  | .fle d a b p => some (packR 0x1d d a b ((0 : BitVec 3) ++ (0 : BitVec 3) ++ p.bits ++ (10 : BitVec 4)))
  | .fcvtFf d a r p => some (packR 0x1d d a 0 ((0 : BitVec 3) ++ r.bits ++ p.bits ++ (11 : BitVec 4)))
  | .fcvtFL d a r p => some (packR 0x1d d a 0 ((1 : BitVec 3) ++ r.bits ++ p.bits ++ (11 : BitVec 4)))
  | .fcvtFLu d a r p => some (packR 0x1d d a 0 ((2 : BitVec 3) ++ r.bits ++ p.bits ++ (11 : BitVec 4)))
  | .fcvtLF d a r p => some (packR 0x1d d a 0 ((3 : BitVec 3) ++ r.bits ++ p.bits ++ (11 : BitVec 4)))
  | .fcvtLuF d a r p => some (packR 0x1d d a 0 ((4 : BitVec 3) ++ r.bits ++ p.bits ++ (11 : BitVec 4)))
  | .fmvxf d a p => some (packR 0x1d d a 0 ((0 : BitVec 3) ++ (0 : BitVec 3) ++ p.bits ++ (12 : BitVec 4)))
  | .fmvfx d a p => some (packR 0x1d d a 0 ((0 : BitVec 3) ++ (0 : BitVec 3) ++ p.bits ++ (13 : BitVec 4)))
  | .fclass d a p => some (packR 0x1d d a 0 ((0 : BitVec 3) ++ (0 : BitVec 3) ++ p.bits ++ (14 : BitVec 4)))
  | .trap n => some (packR 0x1f 0 0 0 (n ++ (0 : BitVec 4)))
  | .tret => some (packR 0x1f 0 0 0 ((0 : BitVec 7) ++ (1 : BitVec 4)))
  | .brk => some (packR 0x1f 0 0 0 ((0 : BitVec 7) ++ (2 : BitVec 4)))
  | .fence set sc => some (packR 0x1f 0 0 0 ((0 : BitVec 3) ++ set.bits ++ sc.bits ++ (3 : BitVec 4)))
  | .fencei => some (packR 0x1f 0 0 0 ((0 : BitVec 7) ++ (4 : BitVec 4)))
  | .park => some (packR 0x1f 0 0 0 ((0 : BitVec 7) ++ (5 : BitVec 4)))
  | .retire => some (packR 0x1f 0 0 0 ((0 : BitVec 7) ++ (6 : BitVec 4)))
  | .ctxs a => some (packR 0x1f 0 a 0 ((0 : BitVec 7) ++ (7 : BitVec 4)))
  | .ctxl a => some (packR 0x1f 0 a 0 ((0 : BitVec 7) ++ (8 : BitVec 4)))
  | .csrr d n => some (packI 0x20 d 0 ((0 : BitVec 3) ++ (0 : BitVec 1) ++ n))
  | .csrw a n => some (packI 0x20 0 a ((1 : BitVec 3) ++ (0 : BitVec 1) ++ n))
  | .csrs a n => some (packI 0x20 0 a ((2 : BitVec 3) ++ (0 : BitVec 1) ++ n))
  | .csrc a n => some (packI 0x20 0 a ((3 : BitVec 3) ++ (0 : BitVec 1) ++ n))
  | .csrrw d a n => some (packI 0x20 d a ((4 : BitVec 3) ++ (0 : BitVec 1) ++ n))
  | .tcinvPage _ _ => none
  | .tcinvAsid _ => none
  | .tcinvAll => none
  | .tcinvNoAction => none
  | .post a => some (packR 0x21 0 a 0 0x000)
  | .waitRope a => some (packR 0x21 0 a 0 0x001)
  | .waitBarrier d a b => some (packR 0x21 d a b 0x001)
  | .vwait a m => some (packR 0x21 0 a (kField m) 0x002)
  | .bara d a b => some (packR 0x21 d a b 0x003)
  | .barw d a => some (packR 0x21 d a 0 0x004)
  | .waitm d k b => some (packR 0x21 d (kField k) b 0x005)
  | .setvl d a b => some (packR 0x22 d a b 0x000)
  | .settype d a => some (packR 0x22 d a 0 0x001)
  | .setfmt d a => some (packR 0x22 d a 0 0x002)
  | .endstrip d => some (packR 0x22 d 0 0 0x003)
  | .vadd d a b m => some (packV 0x24 d a b.field m b.kind 0x00)
  | .vsub d a b m => some (packV 0x24 d a b.field m b.kind 0x01)
  | .vrsub d a b m => some (packV 0x24 d a b.field m b.kind 0x02)
  | .vmul d a b m => some (packV 0x24 d a b.field m b.kind 0x03)
  | .vmulh d a b m => some (packV 0x24 d a b.field m b.kind 0x04)
  | .vmac d a b m => some (packV 0x24 d a b.field m b.kind 0x05)
  | .vmin d a b m => some (packV 0x24 d a b.field m b.kind 0x06)
  | .vmax d a b m => some (packV 0x24 d a b.field m b.kind 0x07)
  | .vminu d a b m => some (packV 0x24 d a b.field m b.kind 0x08)
  | .vmaxu d a b m => some (packV 0x24 d a b.field m b.kind 0x09)
  | .vand d a b m => some (packV 0x24 d a b.field m b.kind 0x0a)
  | .vor d a b m => some (packV 0x24 d a b.field m b.kind 0x0b)
  | .vxor d a b m => some (packV 0x24 d a b.field m b.kind 0x0c)
  | .vsll d a b m => some (packV 0x24 d a b.field m b.kind 0x0d)
  | .vsrl d a b m => some (packV 0x24 d a b.field m b.kind 0x0e)
  | .vsra d a b m => some (packV 0x24 d a b.field m b.kind 0x0f)
  | .vrsh d a b m => some (packV 0x24 d a b.field m b.kind 0x10)
  | .vmulq d a b m => some (packV 0x24 d a b.field m b.kind 0x11)
  | .vsat d a m => some (packV 0x24 d a 0 m 0 0x12)
  | .vabs d a m => some (packV 0x24 d a 0 m 0 0x13)
  | .vmerge d a b m => some (packV 0x24 d a b.field m b.kind 0x14)
  | .vmv d b m => some (packV 0x24 d 0 b.field m b.kind 0x15)
  | .vid d m => some (packV 0x24 d 0 0 m 0 0x16)
  | .vfadd d a b m => some (packV 0x25 d a b.field m b.kind 0x00)
  | .vfsub d a b m => some (packV 0x25 d a b.field m b.kind 0x01)
  | .vfmul d a b m => some (packV 0x25 d a b.field m b.kind 0x02)
  | .vfdiv d a b m => some (packV 0x25 d a b.field m b.kind 0x03)
  | .vffma d a b m => some (packV 0x25 d a b.field m b.kind 0x04)
  | .vfmin d a b m => some (packV 0x25 d a b.field m b.kind 0x05)
  | .vfmax d a b m => some (packV 0x25 d a b.field m b.kind 0x06)
  | .vfsqrt d a m => some (packV 0x25 d a 0 m 0 0x07)
  | .vfexp2 d a m => some (packV 0x25 d a 0 m 0 0x08)
  | .vfrcp d a m => some (packV 0x25 d a 0 m 0 0x09)
  | .vfabs d a m => some (packV 0x25 d a 0 m 0 0x0a)
  | .vfneg d a m => some (packV 0x25 d a 0 m 0 0x0b)
  | .vcmpeq d a b m => some (packV 0x26 (kField d) a b.field m b.kind 0x00)
  | .vcmpne d a b m => some (packV 0x26 (kField d) a b.field m b.kind 0x01)
  | .vcmplt d a b m => some (packV 0x26 (kField d) a b.field m b.kind 0x02)
  | .vcmple d a b m => some (packV 0x26 (kField d) a b.field m b.kind 0x03)
  | .vcmpltu d a b m => some (packV 0x26 (kField d) a b.field m b.kind 0x04)
  | .vcmpleu d a b m => some (packV 0x26 (kField d) a b.field m b.kind 0x05)
  | .vfcmpeq d a b m => some (packV 0x26 (kField d) a b.field m b.kind 0x06)
  | .vfcmplt d a b m => some (packV 0x26 (kField d) a b.field m b.kind 0x07)
  | .vfcmple d a b m => some (packV 0x26 (kField d) a b.field m b.kind 0x08)
  | .vfcmpuo d a b m => some (packV 0x26 (kField d) a b.field m b.kind 0x09)
  | .kand d a b => some (packV 0x26 (kField d) (kField a) (kField b) 0 0 0x10)
  | .kor d a b => some (packV 0x26 (kField d) (kField a) (kField b) 0 0 0x11)
  | .kxor d a b => some (packV 0x26 (kField d) (kField a) (kField b) 0 0 0x12)
  | .kandn d a b => some (packV 0x26 (kField d) (kField a) (kField b) 0 0 0x13)
  | .knot d a => some (packV 0x26 (kField d) (kField a) 0 0 0 0x14)
  | .kmov d a => some (packV 0x26 (kField d) (kField a) 0 0 0 0x15)
  | .kpopc d a m => some (packV 0x26 d (kField a) 0 m 0 0x16)
  | .kfirst d a m => some (packV 0x26 d (kField a) 0 m 0 0x17)
  | .kset d a => some (packV 0x26 (kField d) a 0 0 0 0x18)
  | .vcompress d a m => some (packV 0x27 d a 0 m 0 0x00)
  | .vexpand d a m => some (packV 0x27 d a 0 m 0 0x01)
  | .vslideup d a b m => some (packV 0x27 d a b.field m b.kind 0x02)
  | .vslidedn d a b m => some (packV 0x27 d a b.field m b.kind 0x03)
  | .vperm d a b m => some (packV 0x27 d a b m 0 0x04)
  | .vprefpop d a m => some (packV 0x27 d (kField a) 0 m 0 0x05)
  | .vconflict d a m => some (packV 0x27 d a 0 m 0 0x06)
  | .vbcast d a b m => some (packV 0x27 d a b m 1 0x07)
  | .vext d a b => some (packV 0x27 d a b 0 1 0x08)
  | .vins d a b m => some (packV 0x27 d a b m 1 0x09)
  | .vredsum d a b m => some (packV 0x28 d a b m 1 0x00)
  | .vredmax d a b m => some (packV 0x28 d a b m 1 0x01)
  | .vredmin d a b m => some (packV 0x28 d a b m 1 0x02)
  | .vredmaxu d a b m => some (packV 0x28 d a b m 1 0x03)
  | .vredminu d a b m => some (packV 0x28 d a b m 1 0x04)
  | .vredand d a b m => some (packV 0x28 d a b m 1 0x05)
  | .vredor d a b m => some (packV 0x28 d a b m 1 0x06)
  | .vfredsum d a b m => some (packV 0x28 d a b m 1 0x07)
  | .vfredmax d a b m => some (packV 0x28 d a b m 1 0x08)
  | .vfredmin d a b m => some (packV 0x28 d a b m 1 0x09)
  | .vscan d a b m => some (packV 0x28 d a b m 1 0x0a)
  | .vscanSeg d a h m => some (packV 0x28 d a (kField h) m 0 0x0a)
  | .vfscan d a b => some (packV 0x28 d a b 0 1 0x0b)
  | .vfscanSeg d a h => some (packV 0x28 d a (kField h) 0 0 0x0b)
  | .rshsave a => some (packV 0x28 0 a 0 0 0 0x0c)
  | .rshload a => some (packV 0x28 0 a 0 0 0 0x0d)
  | .vcvt d a b m => some (packV 0x29 d a b m 1 0x00)
  | .vquant d a b => some (packV 0x29 d a b 0 1 0x01)
  | .vdeq d a b m => some (packV 0x29 d a b m 1 0x02)
  | .vplanes d a u p m => some (packV 0x29 d a (u ++ p) m 2 0x03)
  | .vsetq q b => some (packV 0x29 q 0 b 0 1 0x04)
  | .vqmvQv d a => some (packV 0x29 d a 0 0 0 0x05)
  | .vqmvVq d a => some (packV 0x29 d a 1 0 0 0x05)
  | .vld v a m => some (packVM 0x2a v a 0 m 0x0 0)
  | .vlds v a x m => some (packVM 0x2a v a x m 0x4 0)
  | .vldx v a x m => some (packVM 0x2a v a x m 0x8 0)
  | .vldff v a m => some (packVM 0x2a v a 0 m 0x1 0)
  | .vldc v a x m => some (packVM 0x2a v a x m 0x2 0)
  | .vldp v a m p => some (packVM 0x2a v a 0 m 0x3 p)
  | .vst v a m => some (packVM 0x2b v a 0 m 0x0 0)
  | .vsts v a x m => some (packVM 0x2b v a x m 0x4 0)
  | .vstx v a x m => some (packVM 0x2b v a x m 0x8 0)
  | .vstxu v a x m => some (packVM 0x2b v a x m 0xc 0)
  | .vamoadd v a x m nr => some (packVM 0x2c v a x m 0 (boolBit nr ++ (0 : BitVec 3)))
  | .vamomin v a x m nr => some (packVM 0x2c v a x m 1 (boolBit nr ++ (0 : BitVec 3)))
  | .vamomax v a x m nr => some (packVM 0x2c v a x m 2 (boolBit nr ++ (0 : BitVec 3)))
  | .vamoand v a x m nr => some (packVM 0x2c v a x m 3 (boolBit nr ++ (0 : BitVec 3)))
  | .vamoor v a x m nr => some (packVM 0x2c v a x m 4 (boolBit nr ++ (0 : BitVec 3)))
  | .vamoxor v a x m nr => some (packVM 0x2c v a x m 5 (boolBit nr ++ (0 : BitVec 3)))
  | .vamoswap v a x m nr => some (packVM 0x2c v a x m 6 (boolBit nr ++ (0 : BitVec 3)))
  | .qld q a imm => some (packM13 0x2d q a 0 imm)
  | .qst q a imm => some (packM13 0x2d q a 1 imm)
  | .kld k a imm => some (packM13 0x2d (kField k) a 2 imm)
  | .kst k a imm => some (packM13 0x2d (kField k) a 3 imm)
  | .mton => some (packM 0x30 0 0 0 0 0 0)
  | .mtoff => some (packM 0x30 0 0 0 0 0 1)
  | .mzero z => some (packM 0x30 z 0 0 0 0 2)
  | .mcfg a => some (packM 0x30 0 a 0 0 0 3)
  | .tshape d s => some (packM 0x30 0 d s 0 0 4)
  | .mopa z a b r c => some (packM 0x31 z a b r c 0)
  | .mrd z v x m c => some (packM 0x32 z v x m 0 ((0 : BitVec 1) ++ c ++ (0 : BitVec 7)))
  | .mwr z v x m c => some (packM 0x32 z v x m 0 ((1 : BitVec 1) ++ c ++ (0 : BitVec 7)))
  | .cpy k a => some (packR 0x34 (kField k) a 0 0x000)
  | .cpyq k a => some (packR 0x34 (kField k) a 0 0x001)
  | .cpyx k a => some (packR 0x34 (kField k) a 0 0x002)
  | .cpyw k a => some (packR 0x34 (kField k) a 0 0x003)
  | .wvopen d a s => some (packR 0x35 d a 0 ((0 : BitVec 4) ++ s ++ (0 : BitVec 4)))
  | .wvstep h a b s => some (packR 0x35 (kField h) a b ((0 : BitVec 4) ++ s ++ (1 : BitVec 4)))
  | .wvsplit d a b s => some (packR 0x35 d a b ((0 : BitVec 4) ++ s ++ (2 : BitVec 4)))
  | .wvsave a s => some (packR 0x35 0 a 0 ((0 : BitVec 4) ++ s ++ (3 : BitVec 4)))
  | .wvload a s => some (packR 0x35 0 a 0 ((0 : BitVec 4) ++ s ++ (4 : BitVec 4)))
  | .wvclose s => some (packR 0x35 0 0 0 ((0 : BitVec 4) ++ s ++ (5 : BitVec 4)))
  | .farm d a b => some (packR 0x36 d a b 0x000)
  | .strip d => some (packR 0x36 d 0 0 0x001)
  | .scommit => some (packR 0x36 0 0 0 0x002)
  | .sdep a b => some (packR 0x36 0 a b 0x003)
  | .farmw d a => some (packR 0x36 d a 0 0x004)
  | .rscat v a n => some (packR 0x37 v a n 0x000)
  | .rmcast a => some (packR 0x37 0 a 0 0x001)
  | .rcomb a => some (packR 0x37 0 a 0 0x002)
  | .rwait d a => some (packR 0x37 d a 0 0x003)
  | .pfx p neg cp d2 => some (packPfx p neg cp d2)
  | .preempt _ => none
  | .contextSaveComplete _ => none
  | .hostSignal _ => none
  | .saturationEvent _ => none
  | .localAlarm _ => none
  | .asyncErrorReport _ => none
  | .chunkLand _ _ => none
  | .copyErrorStop _ _ _ _ => none
  | .restoredCopyStart _ _ => none
  | .storeQueueWriteHome _ _ => none
  | .pageWalk _ _ => none
  | .lockedLineGrant _ => none
  | .lockReservationGrant _ => none
  | .hostEnqueue _ _ _ => none
  | .rotationDecision => none
  | .contextRestore _ => none
  | .queueHeadWaitLimit _ => none
  | .completionWordWrite _ => none
  | .teamHartStop _ => none
  | .waitmReturn _ => none
  | .stripBlockEnd _ => none
  | .postWindowResume _ => none
  | .scommitWindowResume _ => none
  | .ropeWaitReturn _ => none
  | .vwaitReturn _ => none
  | .barrierWaitReturn _ => none
  | .farmwReturn _ => none
  | .farmQueueRoom _ => none
  | .rwaitReturn _ => none
  | .hostPreempt _ => none
  | .hsig _ => none
  | .hostFence _ => none
  | .laneSramReportLimit _ => none
  | .chipletStateUncorrectable _ => none
  | .ucieLinkFailure _ => none
  | .managementFenceRequest _ => none
  | .thermalTcrit _ _ => none
  | .supplyLimit _ => none
  | .clockStepDecrease _ _ _ => none
  | .clockStepIncrease _ _ _ => none
  | .powerOn _ => none
  | .chipletJoin _ _ => none
  | .tileSelfTest _ _ => none
  | .hostMemoryWrite _ _ => none
  | .hostMemoryRead _ _ => none
  | .controlRegisterWrite _ _ => none
  | .explore _ => none
  | .fabricEnable _ => none
  | .portTrained _ => none
  | .portTrainingLost _ => none
  | .flitCrcRetry _ => none
  | .remoteAccess _ => none
  | .fabricTrain _ _ _ => none
  | .fabricAck _ _ => none
  | .fabricTimeout _ => none
  | .combineInput _ => none
  | .combineNodeTimeout _ => none
  | .collectiveResult _ => none
  | .collectiveMemberTimeout _ => none
  | .getcert => none
  | .attest => none
  | .loadfw => none
  | .mailboxBadCommand _ => none
  | .mailboxCommandComplete => none
  | .illegalOp _ => none
  | .fetchFault => none
  | .powerLoss => none

/-- The instruction that the decoder of the 8840 reads from a table row's word of `nbits` bits. Instructions are one
32-bit word, so bits at and above `nbits` are zero. -/
noncomputable def decodeTableWord (nbits w : Nat) : Option Instr :=
  match decodeWord .p8840 (BitVec.ofNat 32 (w % 2 ^ nbits)) with
  | .ok i => some i
  | .error _ => none

end Sys2Proof
end

