-- ==== Sys2Proof/Machine/State.lean ====
section
/-! DEFINITION. Everything the manual gives the machine, as plain data, and the machine at reset: the module before
power-on (R393). Fields marked "the model's own" are not state of the manual. -/

namespace Sys2Proof.Machine

/-! ### A hart's registers (chapters 3 to 6) -/

/-- The descriptor fields of Table 4.1 but NZP, which is computed from the planes (R107: exact). -/
structure VDesc where
  borg : BitVec 13
  gsz : BitVec 2
  dirty : Bool
  kind : BitVec 4
  width : BitVec 4
  gpos : BitVec 2
  prog : BitVec 6
  vlen : BitVec 16
  deriving DecidableEq, Repr

/-- A vector register: sixteen plane rows and its descriptor (R102, R106). -/
structure VReg where
  planes : Vector Plane 16
  desc : VDesc
  deriving DecidableEq, Repr

/-- A scale register: 1024 E8M0 codes and the header fields of Table 6.5 (R169). -/
structure QReg where
  scales : Vector Byte 1024
  org : BitVec 13
  fmt : BitVec 4
  nblk : BitVec 11
  deriving DecidableEq, Repr

/-- The reduction shadow (R154, Table 5.6). -/
structure Shadow where
  word : BitVec 32
  valid : Bool
  order : BitVec 4
  vl : BitVec 16
  pc : Word
  slots : Vector Word 32
  deriving DecidableEq, Repr

/-- The pending prefix register pfxst (Table 2.8). -/
structure Pfxst where
  pend : Bool
  c : Bool
  p : Reg
  neg : BitVec 1
  cp : BitVec 1
  d2 : Reg
  deriving DecidableEq, Repr

/-- What a BLOCKED hart waits in (Table 3.1, Table 13.4): the instruction at its pc, which executes again. -/
inductive Waiting where
  | waitm (d : Reg) (k : KReg) (lim : Nat)
  | strip (d : Reg)
  | post (a : Reg)
  | waitRope (a : Reg)
  | waitBarrier (d a b : Reg)
  | vwait (a : Reg) (m : KReg) (mask : Plane)
  | farmw (d a : Reg)
  | rwait (d a : Reg)
  | farm (d a b : Reg)
  | scommit
  | retire
  deriving DecidableEq, Repr

/-- Hart states (Table 3.1). SAVED is no state of a position: a saved context stands in a resume list. `saving` is a
position whose image the save engine has written and whose release is still due (R349); `restoring` is a position base
camp has placed a saved context in and whose image is still to be loaded (R356). -/
inductive HartStatus where
  | free | running | parked | blocked (w : Waiting) | saving | restoring | halted
  deriving DecidableEq, Repr

/-- A lane SRAM word with an uncorrectable error: UNIT, REG and POS of Table 13.2, and in a vector register the plane
whose row holds it (R131). -/
structure LaneMark where
  unit : BitVec 4
  reg : Nat
  plane : Fin 16
  pos : Nat
  deriving DecidableEq, Repr

/-- One byte of a write: the bits of `mask` take those of `val` (R205: sub-byte elements). -/
structure ByteWrite where
  pa : Nat
  val : Byte
  mask : Byte
  deriving DecidableEq, Repr

/-- What an access does to a page (R197). -/
inductive Acc where
  | read | write | fetch
  deriving DecidableEq, Repr

/-- A translation cache entry (R199): a leaf and the address it was read from. -/
structure TEntry where
  asid : BitVec 16
  vpn : BitVec 33
  big : Bool
  pte : Word
  pteAddr : Nat
  deriving DecidableEq, Repr

/-- A leaf that an access found by a walk and will mark (R198): the cache entry it makes, with A and D as the access sets
them, and the value that the walk read. -/
structure PageMark where
  entry : TEntry
  old : Word
  deriving DecidableEq, Repr

/-- A translation that a probe has taken (R201): what it is for, its virtual page and asid, whether its leaf is global
and of 128 MiB and its region HOME, the physical base and the host address of the page, the leaf that its use marks, or
the cause that its walk ended in. -/
structure PageMap where
  acc : Acc
  vpn : Nat
  asid : BitVec 16
  glob : Bool
  big : Bool
  home : Nat
  base : Nat
  host : Option Nat
  mark : Option PageMark
  fail : Option (BitVec 7)
  deriving DecidableEq, Repr

/-- A store that has not performed whole (R218, R228, R236): the parts left, in order, the number of its instruction,
whether they stay in order, whether the first is at another module unacknowledged, the translations that its parts were
placed by (R200, R201), and the trap in which the store ends, with its vstart. -/
structure StoreRest where
  parts : List (List ByteWrite)
  group : Nat
  ordered : Bool
  away : Bool
  pins : List PageMap
  stop : Option (Nat × BitVec 7 × Word)
  deriving DecidableEq, Repr

/-- What a hart's instruction still has to do after it has issued (R220, R242): nothing; one request of a scalar access
or a VAMO at its home, by its address; that request answered with the bytes its home returned; the trains of an RSCAT or
RMCAST that are not acknowledged (R387); the reads of another module that are asked for, as address and length, beside
the bytes that have come; or the rest of a store. -/
inductive Remote where
  | idle
  | sent (pa : Nat)
  | answered (reply : List Byte)
  | trains (mods : List Byte)
  | reading (asked : List (Nat × Nat)) (got : List (Nat × Byte))
  | storing (r : StoreRest)
  deriving DecidableEq, Repr

/-- An asynchronous error report that waits for its boundary (R298). -/
structure Report where
  cause : BitVec 7
  tval : Word
  deriving DecidableEq, Repr

/-- One hart position and the context it holds (R52, R53). -/
structure Hart where
  status : HartStatus
  launch : Nat
  rank : Nat
  x : Vector Word 32
  f : Vector Word 32
  pc : Word
  v : Vector VReg 32
  k : Vector Plane 8
  q : Vector QReg 32
  shadow : Shadow
  vl : BitVec 16
  vstart : BitVec 15
  vtype : BitVec 21
  mfmt : BitVec 2
  avl : Word
  sidx : Word
  tshape : Word
  zcfg : BitVec 32
  satCount : BitVec 32
  satEvp : Bool
  satthr : BitVec 32
  fflags : BitVec 13
  lbeg : Vector Word 2
  lrem : Vector (BitVec 32) 2
  llen : Vector (BitVec 16) 2
  ld : BitVec 2
  alarm : Word
  sr : BitVec 16
  cause : BitVec 7
  epc : Word
  tval : Word
  tvec : Word
  asid : BitVec 16
  ptbase : Word
  hscratch : Word
  pfxst : Pfxst
  /-- The model's own: the pending prefix applies to the next word (R44: a handler's words are not prefixed). -/
  pfxLive : Bool
  preemptReq : Bool
  hostSig : Bool
  stopReq : Bool
  reports : List Report
  remote : Remote
  /-- The translations that the probe of the instruction in progress has taken (R201). -/
  pins : List PageMap
  /-- The mask registers as the instruction in progress sampled them at its issue (R133): none when none is in progress. -/
  kept : Option (Vector Plane 8)
  /-- The model's own: the instruction at pc has issued and waits, so that it completes before an interrupt or a PREEMPT is
  taken (R350). -/
  held : Bool
  /-- The number of the last FENCE that orders the hart's later writes behind earlier ones and holds no read (R234). -/
  fenceAt : Nat
  /-- The base clock at which the request of `remote` was sent (R385). -/
  sentAt : Nat
  marks : List LaneMark
  /-- Clocks in a row in which the hart was ready and did not issue (R58). -/
  starve : Nat
  /-- The clock in which the head instruction became the head (R57). -/
  headAt : Nat
  deriving DecidableEq, Repr

/-! ### A core (chapters 1, 7, 8, 9, 11) -/

/-- A write in a core's VLSU store queue (R228, R229): its hart and launch (R240), the fence generation it carries (R362), the number
of its instruction, the number of its hart's last FENCE of writes, behind whose earlier writes it stays (R234), and whether
it must leave in order (R236). -/
structure QueuedWrite where
  hart : HartId
  launch : Nat
  gen : Byte
  group : Nat
  after : Nat
  ordered : Bool
  bytes : List ByteWrite
  deriving DecidableEq, Repr

/-- The cells of one accumulator that are not 0, by rising key 256 × i + j (R257, R263). -/
abbrev Tile := List (Nat × BitVec 64)

/-- A Weave cursor: the fields of the cursor image (Table 11.8). -/
structure Cursor where
  desc : Vector Word 8
  wlo : Nat
  whi : Nat
  row : Nat
  lastRow : Nat
  pa : Nat
  pb : Nat
  lastA : Nat
  lastB : Nat
  inExp : Bool
  brd : Bool
  ard : Bool
  done : Bool
  pbEnd : Nat
  olo : Nat
  ohi : Nat
  deriving DecidableEq, Repr

/-- A copy in flight (R284, R296): who owns it, its launch (R240), its descriptor as accepted, the chunks landed and the pages its probe
translated. `engine` says it holds a transposer; a restored copy may wait for one (R297). `since` is the base clock at
which it came to its next chunk, whose accesses of other modules count FTO from then on (R298, R385). -/
structure Copy where
  owner : HartId
  launch : Nat
  retired : Bool
  form : BitVec 2
  d : Vector Word 6
  k : KReg
  next : Nat
  desc : Bool
  loc : Bool
  engine : Bool
  since : Nat
  index : List Nat
  pages : List PageMap
  deriving DecidableEq, Repr

/-- An open cursor slot and its hart (R302). -/
structure Slot where
  owner : HartId
  cur : Cursor
  deriving DecidableEq, Repr

/-- A core's shared state (R16, R55). -/
structure Core where
  queue : List QueuedWrite
  icache : List (Nat × BitVec 32)
  tcache : List TEntry
  tileOwner : Option HartId
  z : Vector Tile 2
  slots : Vector (Option Slot) 8
  copies : List Copy
  cycle : Word
  lwAsid : Option (BitVec 16)
  clockStep : Nat
  /-- The cycle at which the clock step last changed (R397). -/
  stepAt : Nat
  temp : Byte
  marks : List LaneMark
  /-- The lane work of instructions in the last 65,536 clocks, by the clock it is counted in (R398). -/
  work : List (Nat × Nat)
  deriving DecidableEq, Repr

/-- Chiplet states (Table 17.2). -/
inductive ChipletState where
  | off | fenced | provisional | full
  deriving DecidableEq, Repr

/-- What the base die holds for a chiplet: its state, fence generation (R362), the reason of its last fence or of the
failure of its join (Table 13.9, Table 17.1), the base clocks of its newest 64 lane
SRAM reports, newest first, and whether 64 of them came within the time of R348. -/
structure Chiplet where
  st : ChipletState
  gen : Byte
  reason : Byte
  reports : List Nat
  limit : Bool
  /-- The base clock of its last fence (R405). -/
  fencedAt : Nat
  deriving DecidableEq, Repr

/-! ### Base camp (chapter 12) -/

/-- A launch record, by field (Table 12.1). -/
structure LaunchRec where
  entry : Word
  args : Word
  save : Word
  done : Word
  lavl : BitVec 32
  savl : BitVec 32
  rop : BitVec 3
  rn : BitVec 4
  blk : BitVec 24
  strips : BitVec 25
  kind : BitVec 2
  prio : BitVec 2
  asid : BitVec 16
  team : BitVec 8
  cores : BitVec 32
  deriving DecidableEq, Repr

/-- A record waiting in a queue, and the base clock at which it became the head (R321). -/
structure Queued where
  record : LaunchRec
  headAt : Nat
  deriving DecidableEq, Repr

/-- A saved context on a resume list (R317): its launch, its rank and what base camp keeps of it for placement
(R319): its asid, whether its image has TILE set, and its cursor slots. -/
structure Saved where
  launch : Nat
  rank : Nat
  asid : BitVec 16
  lw : Bool
  tile : Bool
  curs : BitVec 8
  deriving DecidableEq, Repr

/-- A queue of base camp (R317). -/
structure LaunchQueue where
  records : List Queued
  resume : List Saved
  deriving DecidableEq, Repr

/-- A write staged in a belayed strip (R243): bytes, or a VAMO.nr element whose combine waits for the belay. `op` is
VAMO's operation and `kind` vtype.KIND. -/
inductive Staged where
  | bytes (ws : List ByteWrite)
  | vamo (op : Nat) (kind : BitVec 4) (width : Nat) (pa : Nat) (d : Word)
  deriving DecidableEq, Repr

/-- A line with uncorrectable data: in HBM, or in a dirty LLC line (R345, R346). -/
structure BadLine where
  line : Nat
  llc : Bool
  deriving DecidableEq, Repr

/-- An open strip (R323, R330, R332): its index, the rank that holds it, its staged writes and deposits, its post
position and end in a roped farm, and its staged lines that hold uncorrectable data (R347). -/
structure OpenStrip where
  strip : Nat
  rank : Nat
  staged : List Staged
  deposits : List (Nat × Word)
  post : Nat
  stop : Nat
  bad : List BadLine
  deriving DecidableEq, Repr

/-- A launch in progress (R315, R322, R325, R332, R404). `committedAbove` and `postedAbove` hold what is committed or
posted above the floor. -/
structure Launch where
  ident : Nat
  queue : Fin 16
  record : LaunchRec
  retired : Nat
  failed : Option Byte
  failedAt : Nat
  nextDeal : Nat
  redeal : List Nat
  stripFloor : Nat
  committedAbove : List Nat
  count : Nat
  opens : List OpenStrip
  deposits : List (Nat × Nat × Word)
  ropeFloor : Nat
  postedAbove : List Nat
  lostRanks : List Nat
  cairn : Option (Vector Word 8)
  deriving DecidableEq, Repr

/-- A barrier object (R336 to R338). -/
structure Barrier where
  owner : Option Nat
  gen : BitVec 16
  need : BitVec 16
  arrived : BitVec 16
  phase : BitVec 16
  deriving DecidableEq, Repr

/-- Base camp (R312 to R339). -/
structure BaseCamp where
  queues : Vector LaunchQueue 16
  launches : List Launch
  nextIdent : Nat
  slot : Nat
  rrResume : Nat
  rrHead : Nat
  barriers : Vector Barrier 64
  /-- The saved contexts, by launch and rank, for which R324 frees a position, each with the hart that is pre-empted. -/
  promises : List (Nat × Nat × HartId)
  /-- The harts that wait in a STRIP, in the order in which their requests reached base camp (R322). -/
  asks : List HartId
  /-- The positions that base camp frees for a head that has waited, by queue (R321). -/
  owed : List (Fin 16 × List HartId)
  astab : Word
  drops : BitVec 32
  deriving DecidableEq, Repr

/-! ### The rest of the base die (chapters 8, 13, 16, 17) -/

/-- Who holds a line lock (R252): another module's VAMO, by its fabric number, or a VAMO of a hart of this module. -/
inductive Holder where
  | module (m : Nat)
  | hart (h : HartId)
  deriving DecidableEq, Repr

/-- A locked line, the slice in which it stays resident (64: none, for a line of a local memory), and the accesses that wait for it, in arrival order (R252). -/
structure LineLock where
  line : Nat
  slice : Nat
  holder : Option Holder
  waiting : List HartId
  deriving DecidableEq, Repr

/-- A step that a VAMO makes before its elements perform (R252): it reserves room for its lines, with their slices, on the
module that an address field names, or locks a line, which stays in a slice. Lines are addresses div 128, with the field of
their module. -/
inductive VamoStep where
  | reserve (field : Nat) (lines : List (Nat × Nat))
  | lock (line slice : Nat)
  deriving DecidableEq, Repr

/-- A VAMO of hart `owner` in progress (R251 to R253): its elements as element, address and data, as it took them at issue,
the steps it has still to make, whether its elements on other modules have been sent there, and the old values once every
element has performed. -/
structure VamoFlight where
  owner : HartId
  op : Nat
  kind : BitVec 4
  width : Nat
  elems : List (Nat × Nat × Nat)
  steps : List VamoStep
  sent : Bool
  olds : Option (List (Nat × Nat))
  deriving DecidableEq, Repr

/-- Room that a VAMO of this module reserves in a slice, for a number of lines (R252): granted, or still waiting. -/
structure Reservation where
  slice : Nat
  hart : HartId
  lines : Nat
  granted : Bool
  deriving DecidableEq, Repr

/-- A host window aperture (R381). -/
structure Aperture where
  hbase : Word
  size : Byte
  deriving DecidableEq, Repr

/-- A host write sent, by host address (R222, R241). -/
structure HostWrite where
  addr : Word
  val : Byte
  deriving DecidableEq, Repr

/-- How a host read ended (R380). -/
inductive HostReply where
  | data (bytes : List Byte)
  | unsupported
  | abort
  deriving DecidableEq, Repr

/-- An entry of the MSI-X table (R378): the message's address and data, and the mask bit of its vector control. -/
structure MsixEntry where
  addr : Word
  data : BitVec 32
  masked : Bool
  deriving DecidableEq, Repr

/-- What a module sends over the fabric (R242, R384, R387 to R389). -/
inductive FabricMsg where
  | load (pa n : Nat)
  | store (ws : List ByteWrite)
  | amo (pa : Nat) (op : AmoOp) (width : AmoWidth) (src cmp : Word)
  | reserve (field : Nat) (lines : List (Nat × Nat))
  | lock (pa slice : Nat)
  | unlock (pas : List Nat)
  | vamo (m : Nat) (op : Nat) (kind : BitVec 4) (width : Nat) (elems : List (Nat × Word))
  | train (m : Byte) (cast : Bool) (writes : List TrainWrite) (count : Nat)
  | ack (m : Byte)
  | reply (bytes : List Byte)
  | combine (m : Byte) (inp : CollInput)
  | result (m : Byte) (root : CollInput)
  | explore (port : Nat) (ident : Byte)
  deriving DecidableEq, Repr

/-- The fabric registers of Table 16.2 and the routes (R384). -/
structure Fabric where
  ident : Byte
  en : Bool
  fto : BitVec 32
  dup : Bool
  done : Bool
  up : BitVec 16
  routes : Vector (Option (BitVec 4)) 256
  out : List FabricMsg
  deriving DecidableEq, Repr

/-- A collective on the base die (R389): its parameters, where DST and STAT lie, the base clock of its issue, this module's own
triple, and STAT doubleword 0 once STAT is written. -/
structure Collective where
  key : CollKey
  cid : BitVec 32
  nr : Nat
  len : Nat
  ranks : List Byte
  dst : Word
  stat : Word
  asid : BitVec 16
  ptbase : Word
  issuedAt : Nat
  own : Option Triple
  status : Option Word
  deriving DecidableEq, Repr

/-- A node of a collective's tree at this module's router (R147, R389, R390): its level and place, the inputs that
arrived, the base clock of the first, and whether FTO has passed, so that what comes later is absent. -/
structure CombineNode where
  cid : BitVec 32
  level : Nat
  index : Nat
  inputs : List CollInput
  firstAt : Nat
  closed : Bool
  deriving DecidableEq, Repr

/-- The trust mailbox (Table 17.6). -/
structure Mailbox where
  len : BitVec 32
  ovr : Bool
  busy : Bool
  op : Byte
  res : Byte
  arg0 : Word
  arg1 : BitVec 32
  nonce : Vector Byte 32
  buf : List Byte
  deriving DecidableEq, Repr

/-- The flash of the module (R400): it keeps its contents without power (R402). -/
structure Flash where
  banks : Vector (List Byte) 2
  marker : Fin 2
  deriving DecidableEq, Repr

/-- A log ring of sixteen entries (R399). -/
structure LogRing where
  entries : Vector Word 16
  ovf : Bool
  next : BitVec 4
  deriving DecidableEq, Repr

/-- Management state (Table 17.3). -/
structure Management where
  powered : Bool
  recov : Bool
  memErr : Bool
  base : Bool
  stage : BitVec 5
  /-- The firmware bank in use since power-on (R400, R402). -/
  bank : Fin 2
  flog : LogRing
  elog : LogRing
  /-- The base clock of the newest fence log entry, and how many entries were written in it (R399). -/
  flogAt : Nat
  flogRun : Nat
  /-- The base clock of the newest error log entry, and the chiplets of the entries written in it, in their order (R399). -/
  elogAt : Nat
  elogChips : List Nat
  deriving DecidableEq, Repr

/-! ### The order in which the agents move -/

/-- Who moves next (the model's own): a core's clock with the harts that are ready and the units a long instruction
may run before an interrupt stops it (0: no stop); an event of the table; a base clock that passes between two
decisions of base camp; a core's translation cache that evicts an entry (R199); an error that strikes memory or lane
SRAM; or an error that no hart is told of, by SRC of Table 17.5 (R399). -/
inductive Turn where
  | clock (c : CoreId) (ready : BitVec 4) (units : Nat)
  | event (i : Instr)
  | baseClock
  | evict (c : CoreId) (i : Nat)
  | badLine (b : BadLine)
  | badStaged (launch rank line : Nat)
  | badLane (h : HartId) (m : LaneMark)
  | badLocal (c : CoreId) (m : LaneMark)
  | unreported (src : BitVec 2) (c : CoreId) (line : Nat)
  deriving DecidableEq, Repr

/-- Memory (R192, Table 7.2): the cells of the module's physical space that are not 0, by rising address. -/
abbrev Memory := List Host.Cell

/-- The module. -/
structure State where
  part : Part
  mem : Memory
  badLines : List BadLine
  locks : List LineLock
  vamos : List VamoFlight
  reservations : List Reservation
  harts : Vector Hart 128
  cores : Vector Core 32
  chiplets : Vector Chiplet 8
  camp : BaseCamp
  apertures : Vector Aperture 16
  hostOut : List HostWrite
  hostReplies : List HostReply
  /-- The vectors of the MSI-X messages sent, in order (R382). -/
  msix : List Nat
  msixTable : Vector MsixEntry 32
  msixPending : BitVec 32
  fabric : Fabric
  collectives : List Collective
  nodes : List CombineNode
  /-- The root results that this module's router has formed, for the members on this module (R389). -/
  roots : List CollInput
  mgmt : Management
  mailbox : Mailbox
  flash : Flash
  baseClock : Nat
  /-- The model's own: the turns to come, the hart whose instruction executes, the free-value counter, the units that
  the executing instruction may run (0: no bound), the number of the next writing instruction, and the agent that goes
  on first when no turn is given. -/
  agenda : List Turn
  cur : HartId
  tick : Nat
  slice : Nat
  group : Nat
  nextAgent : Nat
  deriving DecidableEq, Repr

/-- Why a step stops with a fault. -/
inductive Fault where
  /-- Raised when base camp, a page walk or the fabric reads or writes a physical address that Table 7.2 says does
  not exist or that the part does not have. The manual gives no effect for it. Safe: the machine stops. -/
  | physicalHole (pa : Nat)
  deriving DecidableEq, Repr

/-- Why a step has no meaning. -/
inductive Refusal where
  /-- Raised by an arm of exec whose instruction has no meaning yet. Safe. -/
  | notModelled (mnemonic : String)
  deriving DecidableEq, Repr

/-! ### Reset -/

/-- A descriptor at launch (R104). -/
def VDesc.zero : VDesc :=
  { borg := 0, gsz := 0, dirty := false, kind := 0, width := 0, gpos := 0, prog := 0, vlen := 0 }
/-- A vector register at launch (R104). -/
def VReg.zero : VReg := { planes := Vector.replicate 16 0, desc := VDesc.zero }
/-- A scale register at launch: every scale 0x7F, every header field 0 but BSZL (R169). -/
def QReg.initial : QReg := { scales := Vector.replicate 1024 0x7F, org := 0, fmt := 0, nblk := 0 }
/-- The empty shadow (R154). -/
def Shadow.zero : Shadow :=
  { word := 0, valid := false, order := 0, vl := 0, pc := 0, slots := Vector.replicate 32 0 }
/-- No pending prefix (Table 2.8). -/
def Pfxst.zero : Pfxst := { pend := false, c := false, p := 0, neg := 0, cp := 0, d2 := 0 }

/-- A FREE position: every register at its reset value, IE = 1 (Table 3.5). -/
def Hart.initial : Hart :=
  { status := .free, launch := 0, rank := 0, x := Vector.replicate 32 0, f := Vector.replicate 32 0, pc := 0,
    v := Vector.replicate 32 VReg.zero, k := Vector.replicate 8 0, q := Vector.replicate 32 QReg.initial,
    shadow := Shadow.zero, vl := 0, vstart := 0, vtype := 0, mfmt := 0, avl := 0, sidx := 0, tshape := 0, zcfg := 0,
    satCount := 0, satEvp := false, satthr := 0, fflags := 0, lbeg := Vector.replicate 2 0,
    lrem := Vector.replicate 2 0, llen := Vector.replicate 2 0, ld := 0, alarm := 0, sr := 0x0004, cause := 0,
    epc := 0, tval := 0, tvec := 0, asid := 0, ptbase := 0, hscratch := 0, pfxst := Pfxst.zero, pfxLive := false,
    preemptReq := false, hostSig := false, stopReq := false, reports := [], remote := .idle, pins := [], kept := none,
    held := false, fenceAt := 0, sentAt := 0, marks := [],
    starve := 0, headAt := 0 }

/-- A core of a chiplet that is OFF: local state empty; CACT.KM1 reads 0 (Table 17.3). -/
def Core.initial : Core :=
  { queue := [], icache := [], tcache := [], tileOwner := none, z := Vector.replicate 2 [],
    slots := Vector.replicate 8 none, copies := [], cycle := 0, lwAsid := none, clockStep := 1, stepAt := 0, temp := 0,
    marks := [], work := [] }

/-- A chiplet before power-on: OFF, generation 0 (Tables 17.1 and 17.2). -/
def Chiplet.initial : Chiplet := { st := .off, gen := 0, reason := 0, reports := [], limit := false, fencedAt := 0 }

/-- A free barrier object. -/
def Barrier.initial : Barrier := { owner := none, gen := 0, need := 0, arrived := 0, phase := 0 }

/-- Base camp cleared (Table 17.1, step 3). -/
def BaseCamp.initial : BaseCamp :=
  { queues := Vector.replicate 16 { records := [], resume := [] }, launches := [], nextIdent := 0, slot := 0,
    rrResume := 0, rrHead := 0, barriers := Vector.replicate 64 Barrier.initial, promises := [], asks := [], owed := [],
    astab := 0, drops := 0 }

/-- The fabric registers at reset (Table 16.2). -/
def Fabric.initial : Fabric :=
  { ident := 0, en := false, fto := 0x100000, dup := false, done := false, up := 0,
    routes := Vector.replicate 256 none, out := [] }

/-- The mailbox at reset (Table 17.6). -/
def Mailbox.initial : Mailbox :=
  { len := 0, ovr := false, busy := false, op := 0, res := 0, arg0 := 0, arg1 := 0,
    nonce := Vector.replicate 32 0, buf := [] }

/-- An empty log (Table 17.3). -/
def LogRing.initial : LogRing := { entries := Vector.replicate 16 0, ovf := false, next := 0 }

/-- Management at reset (Table 17.3). -/
def Management.initial : Management :=
  { powered := false, recov := false, memErr := false, base := false, stage := 0, bank := 0, flog := LogRing.initial,
    elog := LogRing.initial, flogAt := 0, flogRun := 0, elogAt := 0, elogChips := [] }

/-- The module at reset: an 8840 before power-on. The manual gives no contents of memory or flash at power-on: memory
reads 0 (log 6), both firmware banks are empty and the marker names bank 0 (log 7). -/
def State.reset : State :=
  { part := .p8840, mem := [], badLines := [], locks := [], vamos := [], reservations := [],
    harts := Vector.replicate 128 Hart.initial, cores := Vector.replicate 32 Core.initial,
    chiplets := Vector.replicate 8 Chiplet.initial, camp := BaseCamp.initial,
    apertures := Vector.replicate 16 { hbase := 0, size := 0 }, hostOut := [], hostReplies := [], msix := [],
    msixTable := Vector.replicate 32 { addr := 0, data := 0, masked := true }, msixPending := 0,
    fabric := Fabric.initial, collectives := [], nodes := [], roots := [], mgmt := Management.initial,
    mailbox := Mailbox.initial, flash := { banks := Vector.replicate 2 [], marker := 0 }, baseClock := 0,
    agenda := [], cur := 0, tick := 0, slice := 0, group := 0, nextAgent := 0 }

end Sys2Proof.Machine
end

