-- ==== Sys2Proof/Machine/Flags.lean ====
section
/-! DEFINITION. Exceptions, fflags, the saturation counter and the cause codes. -/

namespace Sys2Proof.Machine

/-- The five IEEE 754 exceptions of one operation (R70). -/
structure Exc where
  nv : Bool
  dz : Bool
  of : Bool
  uf : Bool
  nx : Bool
  deriving DecidableEq, Repr

/-- No exception. -/
def Exc.none : Exc := { nv := false, dz := false, of := false, uf := false, nx := false }
/-- Invalid operation alone. -/
def Exc.invalid : Exc := { Exc.none with nv := true }
/-- Division by zero alone. -/
def Exc.divZero : Exc := { Exc.none with dz := true }
/-- Inexact alone. -/
def Exc.inexact : Exc := { Exc.none with nx := true }
/-- Overflow and inexact. -/
def Exc.overflow : Exc := { Exc.none with of := true, nx := true }
/-- Invalid when `b`. -/
def Exc.nvIf (b : Bool) : Exc := { Exc.none with nv := b }
/-- Both sets of exceptions. -/
def Exc.or (a b : Exc) : Exc :=
  { nv := a.nv || b.nv, dz := a.dz || b.dz, of := a.of || b.of, uf := a.uf || b.uf, nx := a.nx || b.nx }

/-- The exceptions in the bit order of Table 3.8: NX UF OF DZ NV from bit 4 down. -/
def Exc.bits (e : Exc) : BitVec 5 :=
  boolBit e.nx ++ boolBit e.uf ++ boolBit e.of ++ boolBit e.dz ++ boolBit e.nv

/-- fflags with `e` ORed into the scalar group (R70). -/
def fflagsScalar (f : BitVec 13) (e : Exc) : BitVec 13 := f ||| e.bits.setWidth 13
/-- fflags with `e` ORed into the vector group (R70, R166). -/
def fflagsVector (f : BitVec 13) (e : Exc) : BitVec 13 := f ||| (e.bits.setWidth 13 <<< 8)

/-- satcnt after one instruction's `n` counts: COUNT stops at 0xFFFF_FFFF, and EVP is set when THR is crossed
(R167, R168). -/
def Hart.countSat (h : Hart) (n : Nat) : Hart :=
  let c := h.satCount.toNat
  let c' := min (c + n) 0xFFFFFFFF
  let hit := h.satthr.toNat ≠ 0 ∧ c < h.satthr.toNat ∧ h.satthr.toNat ≤ c'
  { h with satCount := BitVec.ofNat 32 c', satEvp := h.satEvp || decide hit }

/-! ### Cause codes (Table 13.1) -/

namespace Cause
def illegalOp : BitVec 7 := 0x01
def illegalField : BitVec 7 := 0x02
def illegalPair : BitVec 7 := 0x03
def privilege : BitVec 7 := 0x04
def misalignedPc : BitVec 7 := 0x05
def noUnit : BitVec 7 := 0x06
def breakpoint : BitVec 7 := 0x07
def syscall : BitVec 7 := 0x08
def loopDepth : BitVec 7 := 0x09
def vtypeBad : BitVec 7 := 0x10
def vgroupAlign : BitVec 7 := 0x11
def mfmtBad : BitVec 7 := 0x12
def vstartRange : BitVec 7 := 0x13
def pageRead : BitVec 7 := 0x20
def pageWrite : BitVec 7 := 0x21
def pageExec : BitVec 7 := 0x22
def pageUser : BitVec 7 := 0x23
def addrNoncanon : BitVec 7 := 0x24
def misalignedData : BitVec 7 := 0x25
def spadRange : BitVec 7 := 0x26
def localWindowOff : BitVec 7 := 0x27
def hostWindow : BitVec 7 := 0x28
def bcfCorrupt : BitVec 7 := 0x29
def tileOff : BitVec 7 := 0x30
def tileShape : BitVec 7 := 0x31
def mxShape : BitVec 7 := 0x32
def scaleSkew : BitVec 7 := 0x33
def tileBusyOwned : BitVec 7 := 0x34
def weaveUnsorted : BitVec 7 := 0x40
def weaveCursor : BitVec 7 := 0x41
def copyDesc : BitVec 7 := 0x42
def maskOwned : BitVec 7 := 0x43
def fabDesc : BitVec 7 := 0x44
def fabModule : BitVec 7 := 0x45
def farmRange : BitVec 7 := 0x50
def ropeForward : BitVec 7 := 0x51
def belayForbidden : BitVec 7 := 0x52
def barrierBad : BitVec 7 := 0x53
def stripState : BitVec 7 := 0x54
def belayFull : BitVec 7 := 0x55
def memUncorrectable : BitVec 7 := 0x60
def llcUncorrectable : BitVec 7 := 0x61
def laneSram : BitVec 7 := 0x62
def fabricTimeout : BitVec 7 := 0x63
def chipletFenced : BitVec 7 := 0x64
def preempt : BitVec 7 := 0x70
def hostSignal : BitVec 7 := 0x71
def saturationEvent : BitVec 7 := 0x72
def localAlarm : BitVec 7 := 0x73
def contextBad : BitVec 7 := 0x74
end Cause

end Sys2Proof.Machine
end

