-- ==== Sys2Proof/Machine/Float.lean ====
section
/-! DEFINITION. Floating formats and exact arithmetic with one rounding (R89, R162 to R165). A finite value is an
exact dyadic number; every operation is computed exactly, or exactly to a sticky bit, and rounded once. -/

namespace Sys2Proof.Machine

/-! ### Formats (Tables 4.3 and 6.1) -/

/-- Which patterns of a kind are not finite (Table 6.2). -/
inductive Specials where
  | ieee | e4m3 | none
  deriving DecidableEq, Repr

/-- A floating kind: width, exponent bits, fraction bits and its special patterns. -/
structure Fmt where
  width : Nat
  exp : Nat
  frac : Nat
  bias : Nat
  special : Specials
  deriving DecidableEq, Repr

def Fmt.bf16 : Fmt := { width := 16, exp := 8, frac := 7, bias := 127, special := .ieee }
def Fmt.fp16 : Fmt := { width := 16, exp := 5, frac := 10, bias := 15, special := .ieee }
def Fmt.fp32 : Fmt := { width := 32, exp := 8, frac := 23, bias := 127, special := .ieee }
def Fmt.fp64 : Fmt := { width := 64, exp := 11, frac := 52, bias := 1023, special := .ieee }
def Fmt.e4m3 : Fmt := { width := 8, exp := 4, frac := 3, bias := 7, special := .e4m3 }
def Fmt.e5m2 : Fmt := { width := 8, exp := 5, frac := 2, bias := 15, special := .ieee }
def Fmt.e2m3 : Fmt := { width := 6, exp := 2, frac := 3, bias := 1, special := .none }
def Fmt.e3m2 : Fmt := { width := 6, exp := 3, frac := 2, bias := 3, special := .none }
def Fmt.e2m1 : Fmt := { width := 4, exp := 2, frac := 1, bias := 1, special := .none }

/-- The floating format of a Table 4.3 kind code. -/
def fmtOfKind (k : BitVec 4) : Option Fmt :=
  match k.toNat with
  | 2 => some .bf16
  | 3 => some .fp16
  | 4 => some .fp32
  | 5 => some .fp64
  | 6 => some .e4m3
  | 7 => some .e5m2
  | 8 => some .e2m3
  | 9 => some .e3m2
  | 10 => some .e2m1
  | _ => none

/-- The largest finite magnitude pattern (Table 6.2). -/
def Fmt.maxPat (f : Fmt) : Nat :=
  match f.special with
  | .ieee => (2 ^ f.exp - 1) * 2 ^ f.frac - 1
  | .e4m3 => 0x7E
  | .none => 2 ^ (f.exp + f.frac) - 1

/-- The magnitude pattern of an infinity, where the kind has one. -/
def Fmt.infPat (f : Fmt) : Option Nat :=
  match f.special with
  | .ieee => some ((2 ^ f.exp - 1) * 2 ^ f.frac)
  | _ => none

/-- The canonical NaN (Table 6.2); +0 in the kinds without one (Table 6.3). -/
def Fmt.nanPat (f : Fmt) : Nat :=
  match f.special with
  | .ieee => (2 ^ f.exp - 1) * 2 ^ f.frac + 2 ^ (f.frac - 1)
  | .e4m3 => 0x7F
  | .none => 0

/-- The pattern of a magnitude with a sign. -/
def Fmt.signed (f : Fmt) (neg : Bool) (mag : Nat) : Nat := if neg then 2 ^ (f.width - 1) + mag else mag

/-- The exponent of the smallest normal value. -/
def Fmt.emin (f : Fmt) : Int := 1 - (f.bias : Int)

/-- A value: a NaN, an infinity, or the finite number (-1)^neg × m × 2^e, zeros with their sign (R162). -/
inductive Val where
  | nan (signalling : Bool)
  | inf (neg : Bool)
  | num (neg : Bool) (m : Nat) (e : Int)
  deriving DecidableEq, Repr

/-- A zero. -/
def Val.zero (neg : Bool) : Val := .num neg 0 0

/-- Whether a value is a NaN. -/
def Val.isNan : Val → Bool
  | .nan _ => true | _ => false
/-- Whether a value is a signalling NaN. -/
def Val.isSnan : Val → Bool
  | .nan s => s | _ => false
/-- Whether a value is a zero. -/
def Val.isZero : Val → Bool
  | .num _ m _ => m == 0 | _ => false
/-- The sign. -/
def Val.neg : Val → Bool
  | .nan _ => false | .inf n => n | .num n _ _ => n
/-- The value with the opposite sign. -/
def Val.negate : Val → Val
  | .nan s => .nan s | .inf n => .inf (!n) | .num n m e => .num (!n) m e

/-- The value of a pattern (R162). -/
def Fmt.decode (f : Fmt) (u : Nat) : Val :=
  let s := (u / 2 ^ (f.width - 1)) % 2 == 1
  let e := (u / 2 ^ f.frac) % 2 ^ f.exp
  let m := u % 2 ^ f.frac
  let finite : Val :=
    if e = 0 then .num s m (f.emin - f.frac) else .num s (2 ^ f.frac + m) ((e : Int) - f.bias - f.frac)
  match f.special with
  | .ieee =>
    if e = 2 ^ f.exp - 1 then
      if m = 0 then .inf s else .nan (m < 2 ^ (f.frac - 1))
    else finite
  | .e4m3 => if u % 128 = 127 then .nan false else finite
  | .none => finite

/-! ### Rounding -/

/-- Whether a truncated magnitude is rounded up: `odd` its low bit, the remainder `rem` of a divisor 2 × `half`, and
a nonzero tail below it when `sticky`. -/
def roundsUp (r : Rnd) (neg odd : Bool) (rem half : Nat) (sticky : Bool) : Bool :=
  let above := rem > half || (rem == half && sticky)
  let tie := rem == half && !sticky
  match r with
  | .rne => above || (tie && odd)
  | .rmm => above || tie
  | .rtz => false
  | .rdn => neg && (rem != 0 || sticky)
  | .rup => !neg && (rem != 0 || sticky)

/-- The integer nearest m × 2^e (plus a tail when `sticky`, which must be false for e > 0) at the rounding, with
whether it is inexact. -/
def roundInt (r : Rnd) (neg : Bool) (m : Nat) (e : Int) (sticky : Bool) : Nat × Bool :=
  if 0 ≤ e then (m * 2 ^ e.toNat, sticky)
  else
    let s := (-e).toNat
    let n := m / 2 ^ s
    let rem := m % 2 ^ s
    ((if roundsUp r neg (n % 2 == 1) rem (2 ^ (s - 1)) sticky then n + 1 else n), rem != 0 || sticky)

/-- floor(log2 (m × 2^e)) of a nonzero magnitude. -/
def expOf (m : Nat) (e : Int) : Int := (Nat.log2 m : Int) + e

/-- Whether m × 2^e (plus a tail) exceeds the largest finite value of the format. -/
def Fmt.beyond (f : Fmt) (m : Nat) (e : Int) (sticky : Bool) : Bool :=
  match f.decode f.maxPat with
  | .num _ m' e' =>
    if expOf m e ≠ expOf m' e' then decide (expOf m e > expOf m' e')
    else
      let lo := min e e'
      let a := m * 2 ^ (e - lo).toNat
      let b := m' * 2 ^ (e' - lo).toNat
      decide (a > b) || (decide (a = b) && sticky)
  | _ => false

/-- A result pattern, its exceptions and whether Table 6.3 counts it. -/
structure Rounded where
  pat : Nat
  exc : Exc
  counted : Bool
  deriving DecidableEq, Repr

/-- Rounding of a finite nonzero magnitude once into the format (R89): tininess after rounding with an unbounded
exponent; overflow to infinity or the largest finite value by the rounding. -/
def Fmt.roundMag (f : Fmt) (r : Rnd) (neg : Bool) (m : Nat) (e : Int) (sticky : Bool) : Rounded :=
  let q0 := expOf m e - f.frac
  let q := max q0 (f.emin - f.frac)
  let (n, inexact) := roundInt r neg m (e - q) sticky
  let mag := (q - (f.emin - f.frac)).toNat * 2 ^ f.frac + n
  let (n0, _) := roundInt r neg m (e - q0) sticky
  let tiny := n0 ≠ 0 ∧ expOf n0 q0 < f.emin
  if mag > f.maxPat then
    match f.infPat with
    | some inf =>
      let toInf := match r with
        | .rne | .rmm => true
        | .rtz => false
        | .rdn => neg
        | .rup => !neg
      { pat := f.signed neg (if toInf then inf else f.maxPat), exc := .overflow, counted := false }
    | none => { pat := f.signed neg f.maxPat, exc := .overflow, counted := true }
  else
    { pat := f.signed neg mag, exc := { Exc.none with nx := inexact, uf := inexact && decide tiny }, counted := false }

/-- A value rounded into the format; NaNs become the canonical NaN without a flag here. -/
def Fmt.roundVal (f : Fmt) (r : Rnd) (v : Val) (sticky : Bool := false) : Rounded :=
  match v with
  | .nan _ => { pat := f.nanPat, exc := .none, counted := false }
  | .inf n =>
    match f.infPat with
    | some p => { pat := f.signed n p, exc := .none, counted := false }
    | none => { pat := f.signed n f.maxPat, exc := .inexact, counted := true }
  | .num n 0 _ => { pat := f.signed n 0, exc := .none, counted := false }
  | .num n m e => f.roundMag r n m e sticky

/-- FCVT between the precisions (R89, Table 3.13): NV for a signalling NaN. -/
def Fmt.fcvt (f : Fmt) (r : Rnd) (v : Val) : Rounded :=
  let out := f.roundVal r v
  match v with
  | .nan s => { out with exc := Exc.nvIf s }
  | _ => out

/-- A conversion into a floating kind (R165, Table 6.3): NV for a signalling NaN, and for every NaN into a kind that has
none; an exact magnitude beyond the largest finite value is the infinity, or in a kind without one the largest finite
value, counted; every other value is rounded to nearest even. -/
def Fmt.convert (f : Fmt) (v : Val) : Rounded :=
  match v with
  | .nan s => { f.roundVal .rne v with exc := Exc.nvIf (s || f.special == .none) }
  | .inf _ => f.roundVal .rne v
  | .num n m e =>
    if m ≠ 0 ∧ f.beyond m e false then
      match f.infPat with
      | some inf => { pat := f.signed n inf, exc := .overflow, counted := false }
      | none => { pat := f.signed n f.maxPat, exc := .overflow, counted := true }
    else f.roundVal .rne v

/-- A conversion into MXINT8 (Table 6.3): a multiple of 2^-6 in -2 to 127/64. Never tiny. -/
def toMxint8 (v : Val) : Rounded :=
  match v with
  | .nan _ => { pat := 0, exc := .invalid, counted := false }
  | .inf n => { pat := if n then 0x80 else 0x7F, exc := .inexact, counted := true }
  | .num n m e =>
    let lim := if n then 128 else 127
    let up := roundInt .rup false m (e + 6) false
    if up.1 > lim then { pat := if n then 0x80 else 0x7F, exc := .overflow, counted := true }
    else
      let (k, inexact) := roundInt .rne n m (e + 6) false
      { pat := (if n then (256 - k) % 256 else k), exc := if inexact then .inexact else .none, counted := false }

/-- The value of an MXINT8 pattern (R164). -/
def ofMxint8 (u : Nat) : Val :=
  let x := (BitVec.ofNat 8 u).toInt
  .num (x < 0) x.natAbs (-6)

/-- The integer a finite value rounds to, signed. -/
def roundToInt (r : Rnd) (neg : Bool) (m : Nat) (e : Int) : Int × Bool :=
  let (n, inexact) := roundInt r neg m e false
  ((if neg then -(n : Int) else n), inexact)

/-- Whether the exact value (-1)^neg × m × 2^e lies outside [lo, hi]. -/
def outside (neg : Bool) (m : Nat) (e : Int) (lo hi : Int) : Bool :=
  let (up, _) := roundInt .rup false m e false
  if neg then decide (-(up : Int) < lo) else decide ((up : Int) > hi)

/-- A conversion from a floating kind into an integer range (Table 6.3): NaN gives 0 and NV; a value outside the range
clamps, counted, NV; otherwise rounded, NX when inexact. -/
def toIntSat (v : Val) (lo hi : Int) : Int × Exc × Bool :=
  match v with
  | .nan _ => (0, .invalid, false)
  | .inf n => ((if n then lo else hi), .invalid, true)
  | .num n m e =>
    if outside n m e lo hi then ((if n then lo else hi), .invalid, true)
    else
      let (k, inexact) := roundToInt .rne n m e
      (k, (if inexact then .inexact else .none), false)

/-- An exact integer as a value. -/
def ofInt (x : Int) : Val := .num (x < 0) x.natAbs 0

/-! ### Arithmetic (R88, R89, Table 3.12) -/

/-- The signed mantissa of a finite value at exponent `lo`, which is at most its own. -/
def alignTo (neg : Bool) (m : Nat) (e lo : Int) : Int :=
  let k : Int := m * 2 ^ (e - lo).toNat
  if neg then -k else k

/-- The sum of two values, NaN for infinities of opposite sign; an exact zero sum of operands of opposite sign is -0
under .rdn and +0 otherwise (R89). -/
def addVal (r : Rnd) (a b : Val) : Val × Exc :=
  match a, b with
  | .nan s, .nan t => (.nan false, Exc.nvIf (s || t))
  | .nan s, _ => (.nan false, Exc.nvIf s)
  | _, .nan t => (.nan false, Exc.nvIf t)
  | .inf n, .inf k => if n = k then (.inf n, .none) else (.nan false, .invalid)
  | .inf n, _ => (.inf n, .none)
  | _, .inf k => (.inf k, .none)
  | .num n m e, .num k l f =>
    let lo := min e f
    let x := alignTo n m e lo + alignTo k l f lo
    if x = 0 then
      (.zero (if n = k then n else (r == Rnd.rdn)), .none)
    else (.num (x < 0) x.natAbs lo, .none)

/-- The exact product. -/
def mulVal (a b : Val) : Val × Exc :=
  match a, b with
  | .nan s, .nan t => (.nan false, Exc.nvIf (s || t))
  | .nan s, _ => (.nan false, Exc.nvIf s)
  | _, .nan t => (.nan false, Exc.nvIf t)
  | .inf n, .inf k => (.inf (n != k), .none)
  | .inf n, .num k l _ => if l = 0 then (.nan false, .invalid) else (.inf (n != k), .none)
  | .num n m _, .inf k => if m = 0 then (.nan false, .invalid) else (.inf (n != k), .none)
  | .num n m e, .num k l f => (.num (n != k) (m * l) (e + f), .none)

/-- A value with a sticky tail. -/
structure Sticky where
  val : Val
  sticky : Bool
  deriving DecidableEq, Repr

/-- The quotient to `bits` significant bits and a sticky tail. -/
def divVal (bits : Nat) (a b : Val) : Sticky × Exc :=
  match a, b with
  | .nan s, .nan t => (⟨.nan false, false⟩, Exc.nvIf (s || t))
  | .nan s, _ => (⟨.nan false, false⟩, Exc.nvIf s)
  | _, .nan t => (⟨.nan false, false⟩, Exc.nvIf t)
  | .inf _, .inf _ => (⟨.nan false, false⟩, .invalid)
  | .inf n, .num k _ _ => (⟨.inf (n != k), false⟩, .none)
  | .num n _ _, .inf k => (⟨.zero (n != k), false⟩, .none)
  | .num n m e, .num k l f =>
    if l = 0 then
      if m = 0 then (⟨.nan false, false⟩, .invalid) else (⟨.inf (n != k), false⟩, .divZero)
    else if m = 0 then (⟨.zero (n != k), false⟩, .none)
    else
      let sh := bits + Nat.log2 l + 1
      let num := m * 2 ^ sh
      (⟨.num (n != k) (num / l) (e - f - sh), num % l != 0⟩, .none)

/-- floor(sqrt n) by bits from `fuel` down: the greatest r with r × r at most n, given r < 2^fuel. -/
def isqrtGo (n : Nat) : Nat → Nat → Nat
  | 0, r => r
  | k + 1, r =>
    let t := r + 2 ^ k
    isqrtGo n k (if t * t ≤ n then t else r)

/-- floor(sqrt n). -/
def isqrt (n : Nat) : Nat := isqrtGo n (Nat.log2 n / 2 + 1) 0

/-- The square root to at least `bits` significant bits and a sticky tail (Table 3.12). -/
def sqrtVal (bits : Nat) (a : Val) : Sticky × Exc :=
  match a with
  | .nan s => (⟨.nan false, false⟩, Exc.nvIf s)
  | .inf n => if n then (⟨.nan false, false⟩, .invalid) else (⟨.inf false, false⟩, .none)
  | .num n m e =>
    if m = 0 then (⟨.zero n, false⟩, .none)
    else if n then (⟨.nan false, false⟩, .invalid)
    else
      let k := 2 * bits + (if e % 2 = 0 then 0 else 1)
      let x := m * 2 ^ k
      let s := isqrt x
      (⟨.num false s ((e - k) / 2), s * s != x⟩, .none)

/-- The precision of the intermediate results of exp2 in bits below the binary point. -/
def expBits : Nat := 256

/-- 2^(f / 2^n) scaled by 2^expBits, for f < 2^n: the product of the square-root chain 2^(1/2), 2^(1/4), … over the
bits of f, from the most significant. `root` is 2^(2^-i) scaled, `acc` the product so far. -/
def exp2Go (f : Nat) : Nat → Nat → Nat → Nat
  | 0, _, acc => acc
  | k + 1, root, acc =>
    let root' := isqrt (root * 2 ^ expBits)
    exp2Go f k root' (if f.testBit k then acc * root' / 2 ^ expBits else acc)

/-- 2^A (Table 6.6): exact for integers, otherwise an irrational number, given to about 250 bits with a sticky tail. A
magnitude below 2^-60 gives 1 and a tail too small to round; one of 2^14 or more is replaced by 2^14, where every
format has overflowed or underflowed (log 9). -/
def exp2Val (a : Val) : Sticky × Exc :=
  match a with
  | .nan s => (⟨.nan false, false⟩, Exc.nvIf s)
  | .inf n => if n then (⟨.zero false, false⟩, .none) else (⟨.inf false, false⟩, .none)
  | .num n m e =>
    if m = 0 then (⟨.num false 1 0, false⟩, .none)
    else if expOf m e ≥ 14 then (⟨.num false 1 (if n then -16384 else 16384), false⟩, .none)
    else if expOf m e < -60 then
      (⟨.num false (if n then 2 ^ 200 - 1 else 2 ^ 200) (-200), true⟩, .none)
    else
      let s := (-e).toNat
      let x : Int := if n then -(m * 2 ^ e.toNat : Int) else m * 2 ^ e.toNat
      let i := x / 2 ^ s
      let f := (x % 2 ^ s).toNat
      if f = 0 then (⟨.num false 1 i, false⟩, .none)
      else (⟨.num false (exp2Go f s (2 * 2 ^ expBits) (2 ^ expBits)) (i - expBits), true⟩, .none)

/-- Numeric order of two values that are not NaN: the sign of a - b. -/
def cmpVal (a b : Val) : Int :=
  match a, b with
  | .inf n, .inf k => if n = k then 0 else if n then -1 else 1
  | .inf n, _ => if n then -1 else 1
  | _, .inf k => if k then 1 else -1
  | .num n m e, .num k l f =>
    let lo := min e f
    (alignTo n m e lo - alignTo k l f lo).sign
  | _, _ => 0

/-- The minimum or maximum of R89: the other operand for one NaN, NaN for two, -0 below +0; NV if either is
signalling. -/
def minmaxVal (isMax : Bool) (a b : Val) : Val × Exc :=
  let nv := Exc.nvIf (a.isSnan || b.isSnan)
  if a.isNan && b.isNan then (.nan false, nv)
  else if a.isNan then (b, nv)
  else if b.isNan then (a, nv)
  else
    let c := cmpVal a b
    let aFirst := if c = 0 then (if isMax then !a.neg else a.neg) else (if isMax then c > 0 else c < 0)
    (if aFirst then a else b, nv)

/-- One operation on patterns of one format (R88, R175). -/
inductive FOp where
  | add | sub | mul | div | sqrt | ffma | min | max | exp2 | rcp
  deriving DecidableEq, Repr

/-- The result of an operation on patterns a, b and d, rounded once (R89, Tables 3.12 and 6.6). -/
def fpOp (f : Fmt) (r : Rnd) (op : FOp) (a b d : Nat) : Nat × Exc :=
  let x := f.decode a
  let y := f.decode b
  let fin (v : Val) (st : Bool) (e : Exc) : Nat × Exc :=
    let o := f.roundVal r v st
    (o.pat, e.or o.exc)
  match op with
  | .add => let (v, e) := addVal r x y; fin v false e
  | .sub => let (v, e) := addVal r x y.negate; fin v false e
  | .mul => let (v, e) := mulVal x y; fin v false e
  | .div => let (v, e) := divVal (f.frac + 4) x y; fin v.val v.sticky e
  | .rcp => let (v, e) := divVal (f.frac + 4) (.num false 1 0) x; fin v.val v.sticky e
  | .sqrt => let (v, e) := sqrtVal (f.frac + 4) x; fin v.val v.sticky e
  | .exp2 => let (v, e) := exp2Val x; fin v.val v.sticky e
  | .ffma =>
    let (p, e) := mulVal x y
    let z := f.decode d
    let (v, e') := addVal r p z
    fin v false (e.or e')
  | .min => let (v, e) := minmaxVal false x y; fin v false e
  | .max => let (v, e) := minmaxVal true x y; fin v false e

/-- The binary32 pattern of a 16-bit leaf, exact: a NaN keeps its sign and kind and its fraction moves to the top
fraction bits (R151). -/
def widen16 (f : Fmt) (u : Nat) : Nat :=
  match f.decode u with
  | .nan _ => Fmt.fp32.signed (u / 2 ^ 15 % 2 == 1) (0x7F800000 + (u % 2 ^ f.frac) * 2 ^ (23 - f.frac))
  | v => (Fmt.fp32.roundVal .rne v).pat

/-- The class word of a pattern (R91). -/
def classOf (f : Fmt) (u : Nat) : Nat :=
  let s := (u / 2 ^ (f.width - 1)) % 2
  let e := (u / 2 ^ f.frac) % 2 ^ f.exp
  let code := match f.decode u with
    | .nan sig => if sig then 5 else 4
    | .inf _ => 3
    | .num _ m _ => if m = 0 then 0 else if e = 0 then 1 else 2
  code + 8 * s

/-- The scalar conversions to a 64-bit integer (R90): a NaN, or a rounded value outside the range, saturates with NV. -/
def toIntScalar (r : Rnd) (v : Val) (lo hi : Int) : Int × Exc :=
  match v with
  | .nan _ => (hi, .invalid)
  | .inf n => ((if n then lo else hi), .invalid)
  | .num n m e =>
    let (k, inexact) := roundToInt r n m e
    if k < lo then (lo, .invalid) else if k > hi then (hi, .invalid)
    else (k, if inexact then .inexact else .none)

end Sys2Proof.Machine
end

