-- ==== Sys2Proof/Machine/Ops.lean ====
section
/-! DEFINITION. The named operations over harts, cores and launches: register access with the prefix copy (R41, R61),
completion with the loop return (R83, R84), taking a trap (R343), the return from one (R94), halting (R99) and the
failure of a launch (R404). -/

namespace Sys2Proof.Machine

/-- One step's outcome. -/
abbrev Out := Host.Outcome State Fault Refusal

/-- What follows a step that goes on. -/
def andThen (o : Out) (k : State → Out) : Out :=
  match o with
  | .next t => k t
  | .fault e => .fault e
  | .refused r => .refused r

/-! ### Harts and cores -/

/-- The hart at a position. -/
def State.hart (s : State) (h : HartId) : Hart := s.harts.get h
/-- The state with a hart replaced. -/
def State.setHart (s : State) (h : HartId) (x : Hart) : State := { s with harts := s.harts.set h.val x h.isLt }
/-- The state with a hart changed. -/
def State.modHart (s : State) (h : HartId) (f : Hart → Hart) : State := s.setHart h (f (s.hart h))
/-- The hart whose instruction executes. -/
def State.me (s : State) : Hart := s.hart s.cur
/-- The state with that hart replaced. -/
def State.setMe (s : State) (x : Hart) : State := s.setHart s.cur x
/-- The state with that hart changed. -/
def State.modMe (s : State) (f : Hart → Hart) : State := s.setHart s.cur (f s.me)

/-- The core of a hart position (R52). -/
def coreOf (h : HartId) : CoreId := ⟨h.val / 4, by have := h.isLt; omega⟩
/-- The chiplet of a core (R15). -/
def chipletOf (c : CoreId) : ChipletId := ⟨c.val / 4, by have := c.isLt; omega⟩
/-- Position n of a core. -/
def hartOf (c : CoreId) (n : Fin 4) : HartId := ⟨4 * c.val + n.val, by have := c.isLt; have := n.isLt; omega⟩

/-- A core's shared state. -/
def State.core (s : State) (c : CoreId) : Core := s.cores.get c
/-- The state with a core replaced. -/
def State.setCore (s : State) (c : CoreId) (x : Core) : State := { s with cores := s.cores.set c.val x c.isLt }
/-- The state with a core changed. -/
def State.modCore (s : State) (c : CoreId) (f : Core → Core) : State := s.setCore c (f (s.core c))
/-- The core of the executing hart. -/
def State.myCore (s : State) : Core := s.core (coreOf s.cur)
/-- The state with that core changed. -/
def State.modMyCore (s : State) (f : Core → Core) : State := s.modCore (coreOf s.cur) f

/-- A chiplet's record on the base die. -/
def State.chiplet (s : State) (c : ChipletId) : Chiplet := s.chiplets.get c
/-- The state with a chiplet changed. -/
def State.modChiplet (s : State) (c : ChipletId) (f : Chiplet → Chiplet) : State :=
  { s with chiplets := s.chiplets.set c.val (f (s.chiplet c)) c.isLt }

/-- The chiplet is in service: PROVISIONAL or FULL (Table 17.2). -/
def State.inService (s : State) (c : ChipletId) : Bool :=
  match (s.chiplet c).st with
  | .provisional | .full => true
  | _ => false

/-- Every hart position. -/
def allHarts : List HartId := List.finRange 128
/-- Every core. -/
def allCores : List CoreId := List.finRange 32
/-- The cores of the part (R25). -/
def State.coreCount (s : State) : Nat := Config.cores s.part

/-! ### Registers -/

/-- x[r]: x0 reads as zero (R61). -/
def Hart.xr (h : Hart) (r : Reg) : Word := if r = 0 then 0 else h.x[r.toNat]'r.isLt
/-- f[r]. -/
def Hart.fr (h : Hart) (r : Reg) : Word := h.f[r.toNat]'r.isLt
/-- v[r]. -/
def Hart.vr (h : Hart) (r : Reg) : VReg := h.v[r.toNat]'r.isLt
/-- k[r]. -/
def Hart.kr (h : Hart) (r : KReg) : Plane := h.k[r.toNat]'r.isLt
/-- q[r]. -/
def Hart.qr (h : Hart) (r : Reg) : QReg := h.q[r.toNat]'r.isLt

/-- x[r] replaced; a write of x0 is discarded (R61). -/
def Hart.putX (h : Hart) (r : Reg) (v : Word) : Hart := if r = 0 then h else { h with x := h.x.set r.toNat v r.isLt }
/-- f[r] replaced. -/
def Hart.putF (h : Hart) (r : Reg) (v : Word) : Hart := { h with f := h.f.set r.toNat v r.isLt }
/-- v[r] replaced, descriptor and all. -/
def Hart.putV (h : Hart) (r : Reg) (v : VReg) : Hart := { h with v := h.v.set r.toNat v r.isLt }
/-- k[r] replaced. -/
def Hart.putK (h : Hart) (r : KReg) (v : Plane) : Hart := { h with k := h.k.set r.toNat v r.isLt }
/-- q[r] replaced. -/
def Hart.putQ (h : Hart) (r : Reg) (v : QReg) : Hart := { h with q := h.q.set r.toNat v r.isLt }

/-- The register a live prefix copies the result to, when its condition holds and cp = 1 (R39, R41). -/
def Hart.copyReg (h : Hart) : Option Reg :=
  if h.pfxLive && h.pfxst.c && h.pfxst.cp == 1 then some h.pfxst.d2 else none

/-- k[r] as the instruction in progress reads it: as it stood when the instruction issued (R133). -/
def Hart.sampled (h : Hart) (r : KReg) : Plane :=
  match h.kept with
  | some m => m[r.toNat]'r.isLt
  | none => h.kr r
/-- The instruction in progress keeps the mask registers as it sampled them at its issue (R133). -/
def Hart.sample (h : Hart) : Hart := { h with kept := some (h.kept.getD h.k) }

/-- A result for x[d], and for d2 of a live copying prefix (R41: also when d is x0). -/
def Hart.setX (h : Hart) (d : Reg) (v : Word) : Hart :=
  match h.copyReg with
  | some d2 => (h.putX d v).putX d2 v
  | none => h.putX d v
/-- A result for f[d] and its copy. -/
def Hart.setF (h : Hart) (d : Reg) (v : Word) : Hart :=
  match h.copyReg with
  | some d2 => (h.putF d v).putF d2 v
  | none => h.putF d v
/-- A result for k[d] and its copy. -/
def Hart.setK (h : Hart) (d : KReg) (v : Plane) : Hart :=
  match h.copyReg with
  | some d2 => (h.putK d v).putK (kOf d2) v
  | none => h.putK d v

/-! ### status (Table 3.5) -/

/-- MODE: supervisor. -/
def Hart.supervisor (h : Hart) : Bool := h.sr.getLsbD 0
/-- IE. -/
def Hart.ie (h : Hart) : Bool := h.sr.getLsbD 2
/-- INH. -/
def Hart.inh (h : Hart) : Bool := h.sr.getLsbD 4
/-- LW. -/
def Hart.lw (h : Hart) : Bool := h.sr.getLsbD 14
/-- HP. -/
def Hart.hp (h : Hart) : Bool := h.sr.getLsbD 15

/-- The bits of status that exist (Table 3.5). -/
def srMask : BitVec 16 := 0xC71F

/-- status on trap entry: PMODE ← MODE, PIE ← IE, MODE ← 1, IE ← 0, INH ← 1 (R66). -/
def srEnter (sr : BitVec 16) : BitVec 16 :=
  (sr &&& 0xFFE0) ||| 0x0010 ||| (if sr.getLsbD 2 then 0x0008 else 0) ||| (if sr.getLsbD 0 then 0x0002 else 0) ||| 0x0001

/-- status on TRET: MODE ← PMODE, IE ← PIE, INH ← 0 (R94). -/
def srLeave (sr : BitVec 16) : BitVec 16 :=
  (sr &&& 0xFFEA) ||| (if sr.getLsbD 3 then 0x0004 else 0) ||| (if sr.getLsbD 1 then 0x0001 else 0)

/-! ### The loop stack and completion (R83, R84) -/

/-- The word at `ia` is the last of the body of loop entry t: ia = lbeg + 4 × LEN − 4 in exact numbers (R5, R83). -/
def Hart.endsBody (h : Hart) (ia : Word) (t : Fin 2) : Bool :=
  ia.toNat + 4 == (h.lbeg.get t).toNat + 4 * (h.llen.get t).toNat

/-- One test of the loop return of R83 for an instruction at `ia`: the hart after it, and whether the test ends. -/
def Hart.loopTest (h : Hart) (ia : Word) (t : Fin 2) : Hart × Bool :=
  if !h.endsBody ia t then (h, true)
  else if h.lrem.get t ≠ 0 then
    ({ h with lrem := h.lrem.set t.val (h.lrem.get t - 1) t.isLt, pc := h.lbeg.get t }, true)
  else ({ h with ld := h.ld - 1 }, false)

/-- The loop return after an instruction at `ia` whose next pc is ia + 4, already in pc (R83). -/
def Hart.loopReturn (h : Hart) (ia : Word) : Hart :=
  match h.ld.toNat with
  | 0 => h
  | 1 => (h.loopTest ia 0).1
  | _ =>
    let (h1, done) := h.loopTest ia 1
    if done then h1 else (h1.loopTest ia 0).1

/-- The prefix is spent: PEND ← 0 (R39). -/
def Hart.endPfx (h : Hart) : Hart :=
  if h.pfxLive then { h with pfxLive := false, pfxst := { h.pfxst with pend := false } } else h

/-- The instruction at pc completes with next pc pc + 4: the prefix is spent, what it sampled is no longer kept, and the loop
return is applied (R39, R83, R133). -/
def Hart.advance (h : Hart) : Hart :=
  let ia := h.pc
  let h := h.endPfx
  { h with pc := ia + 4, kept := none }.loopReturn ia

/-- Whether a transfer from `ia` to `t` leaves the body of loop entry `e` (R84). -/
def Hart.leaves (h : Hart) (ia t : Word) (e : Fin 2) : Bool :=
  let lo := (h.lbeg.get e).toNat
  let hi := lo + 4 * (h.llen.get e).toNat
  decide (lo ≤ ia.toNat ∧ ia.toNat < hi) && !decide (lo ≤ t.toNat ∧ t.toNat < hi)

/-- The pops of a control transfer that leaves loops early (R84). -/
def Hart.popLoops (h : Hart) (ia t : Word) : Hart :=
  match h.ld.toNat with
  | 0 => h
  | 1 => if h.leaves ia t 0 then { h with ld := 0 } else h
  | _ => if h.leaves ia t 1 then (if h.leaves ia t 0 then { h with ld := 0 } else { h with ld := 1 }) else h

/-- A taken transfer completes: with the next word as its target the loop return of R83 is applied; with any other
target it pops the loops it leaves, when `pops` (R84, log 12). -/
def Hart.jump (h : Hart) (t : Word) (pops : Bool) : Hart :=
  let ia := h.pc
  let h := { h.endPfx with kept := none }
  if t = ia + 4 then { h with pc := t }.loopReturn ia
  else if pops then { h.popLoops ia t with pc := t } else { h with pc := t }

/-- The executing hart's instruction completes after `f` changed the hart. -/
def State.finish (s : State) (f : Hart → Hart) : Out := .next (s.setMe (f s.me).advance)
/-- The instruction in a state already changed completes. -/
def State.done (s : State) : Out := .next (s.setMe s.me.advance)
/-- The instruction waits at issue: nothing changes, and it executes again. -/
def State.stall (s : State) : Out := .next s
/-- A hart whose instruction has issued and waits: it completes before an interrupt or a PREEMPT is taken (R133, R350). -/
def Hart.hold (h : Hart) : Hart := { h.sample with held := true }
/-- The instruction has issued and waits: it completes before an interrupt or a PREEMPT is taken (R350). -/
def State.holding (s : State) : State := s.modMe Hart.hold
/-- The instruction has issued and waits: it executes again. -/
def State.hold (s : State) : Out := .next s.holding

/-! ### Launches (R404) -/

/-- The launch with a number. -/
def State.launch (s : State) (l : Nat) : Option Launch := s.camp.launches.find? (fun x => x.ident == l)
/-- The state with a launch changed. -/
def State.modLaunch (s : State) (l : Nat) (f : Launch → Launch) : State :=
  { s with camp := { s.camp with launches := s.camp.launches.map (fun x => if x.ident == l then f x else x) } }

/-- A position that holds a context of a launch: it runs, waits or is parked (Table 3.1). -/
def Hart.live (h : Hart) : Bool :=
  match h.status with
  | .free | .halted => false
  | _ => true

/-- The failure code that stands when `code` falls at base clock `now` (R404). -/
def Launch.failWith (x : Launch) (code : Byte) (now : Nat) : Launch :=
  match x.failed with
  | none => { x with failed := some code, failedAt := now }
  | some old => if x.failedAt = now ∧ code.toNat < old.toNat then { x with failed := some code } else x

/-- What failure does to a launch's open strips: a belayed farm's are abandoned with their staging and deposits; a
roped farm's state is frozen (R404). -/
def Launch.abandon (x : Launch) : Launch := if x.record.kind = 1 then { x with opens := [] } else x

/-- A launch fails: no hart of it starts, every live hart is stopped at its next boundary, saved contexts are
discarded and open strips abandoned (R404). -/
def State.failLaunch (s : State) (l : Nat) (code : Byte) : State :=
  let s := s.modLaunch l (fun x => (x.failWith code s.baseClock).abandon)
  { s with
    harts := s.harts.map (fun h => if h.live && h.launch == l then { h with stopReq := true } else h)
    camp := { s.camp with
      queues := s.camp.queues.map (fun q => { q with resume := q.resume.filter (fun c => c.launch != l) })
      launches := s.camp.launches.map (fun x => if x.ident == l then { x with lostRanks := [] } else x) } }

/-! ### Releasing and halting -/

/-- The tile unit, chunk masks and cursor slots of a hart are released; its copies run on under no hart (R96, R300). -/
def State.release (s : State) (h : HartId) : State :=
  s.modCore (coreOf h) (fun c =>
    let own := c.tileOwner == some h
    { c with
      tileOwner := if own then none else c.tileOwner
      z := if own then Vector.replicate 2 [] else c.z
      slots := c.slots.map (fun o => match o with
        | some x => if x.owner == h then none else some x
        | none => none)
      copies := c.copies.map (fun k => if k.owner == h then { k with retired := true } else k) })

/-- Hart h waits at no home any more: it leaves the waiters of every line and gives back its reservations, and a free line
with no waiters is no longer kept (R252). -/
def State.leaveHomes (s : State) (h : HartId) : State :=
  let left := s.locks.map (fun l => { l with waiting := l.waiting.filter (fun x => x != h) })
  { s with
    locks := left.filter (fun l => l.holder.isSome || !l.waiting.isEmpty)
    reservations := s.reservations.filter (fun r => r.hart != h) }

/-- The open strip of a rank of a launch. -/
def Launch.openOf (x : Launch) (rank : Nat) : Option OpenStrip := x.opens.find? (fun o => o.rank == rank)

/-- A double trap: the hart halts, no trap register is written, its resources are released, its open strip is abandoned
and its launch fails with DOUBLE_TRAP (R99, R331, Table 3.1). -/
def State.halt (s : State) (h : HartId) : State :=
  let l := (s.hart h).launch
  let rank := (s.hart h).rank
  let s := (s.release h).leaveHomes h
  let s := s.modHart h (fun x => { x with
    status := .halted, pfxLive := false, remote := .idle, pins := [], kept := none, held := false, stopReq := false })
  let s := s.modLaunch l (fun x =>
    if x.record.kind = 1 then { x with opens := x.opens.filter (fun o => o.rank != rank) } else x)
  s.failLaunch l 0x05

/-! ### Taking a trap (R343) and returning from one (R94) -/

/-- The registers a trap entry writes: cause, epc, tval, status and pc; every other register keeps its value. The live
prefix is left to pfxst (R44). -/
def Hart.enterTrap (h : Hart) (c : BitVec 7) (tval e : Word) : Hart :=
  { h with cause := c, epc := e, tval := tval, sr := srEnter h.sr, pc := h.tvec, pfxLive := false, status := .running,
           remote := .idle, pins := [], kept := none, held := false }

/-- Whether 64 reports, newest first, came within 2^30 core clocks: a core clock is 10/7 base clocks (R2, R348). -/
def reportsDense (r : List Nat) : Bool := r.length == 64 && decide (7 * (r.headD 0 - r.getLastD 0) < 10 * 2 ^ 30)

/-- The chiplet's record with a report made at a base clock. -/
def Chiplet.note (k : Chiplet) (now : Nat) : Chiplet :=
  let r := (now :: k.reports).take 64
  { k with reports := r, limit := k.limit || reportsDense r }

/-- A LANE_SRAM_UNCORRECTABLE report is counted for its chiplet; the newest 64 are kept (R348). -/
def State.noteReport (s : State) (h : HartId) (c : BitVec 7) : State :=
  if c = Cause.laneSram then s.modChiplet (chipletOf (coreOf h)) (fun k => k.note s.baseClock) else s

/-- A trap of hart h with cause c, value v and resume address e: with INH = 1 the hart halts (R99, R343); otherwise the first
instruction of its handler becomes its head in this clock (R57). -/
def State.trapHart (s : State) (h : HartId) (c : BitVec 7) (v e : Word) : State :=
  if (s.hart h).inh then (s.noteReport h c).halt h
  else ((s.noteReport h c).leaveHomes h).modHart h (fun x =>
    { x.enterTrap c v e with headAt := (s.core (coreOf h)).cycle.toNat })

/-- A trap at the executing instruction: e is its address. -/
def State.trap (s : State) (c : BitVec 7) (v : Word) : Out := .next (s.trapHart s.cur c v s.me.pc)

/-- The registers TRET writes: MODE, IE, INH and pc; a pending prefix applies to the word at epc (R94, R44). -/
def Hart.leaveTrap (h : Hart) : Hart :=
  { h with sr := srLeave h.sr, pc := h.epc, pfxLive := h.pfxst.pend }

/-! ### What stops an access -/

/-- Why an access does not perform: a trap with its cause and tval, a physical address that does not exist, or a wait
in which the instruction executes again in the state given. -/
inductive Stop where
  | trap (c : BitVec 7) (v : Word)
  | hole (pa : Nat)
  | wait (s : State)

/-- Each element's result in order: the first failure stops. -/
def eachOk {ε α β : Type} (f : α → Except ε β) : List α → Except ε (List β)
  | [] => .ok []
  | x :: rest =>
    match f x with
    | .error e => .error e
    | .ok y =>
      match eachOk f rest with
      | .error e => .error e
      | .ok ys => .ok (y :: ys)

/-- The outcome of a stopped instruction. -/
def Stop.out (x : Stop) (s : State) : Out :=
  match x with
  | .trap c v => s.trap c v
  | .hole pa => .fault (.physicalHole pa)
  | .wait t => .next t

/-- Whether hart h runs in a belayed farm (R323). -/
def State.belayed (s : State) (h : HartId) : Bool :=
  match s.launch (s.hart h).launch with
  | some x => x.record.kind == 1
  | none => false

/-- The open strip of hart h. -/
def State.openStrip (s : State) (h : HartId) : Option OpenStrip :=
  match s.launch (s.hart h).launch with
  | some x => x.openOf (s.hart h).rank
  | none => none

/-- Whether hart h is inside a belayed strip (R323). -/
def State.inBelay (s : State) (h : HartId) : Bool := s.belayed h && (s.openStrip h).isSome

/-- The state with the open strip of hart h changed. -/
def State.modStrip (s : State) (h : HartId) (f : OpenStrip → OpenStrip) : State :=
  s.modLaunch (s.hart h).launch (fun x =>
    { x with opens := x.opens.map (fun o => if o.rank == (s.hart h).rank then f o else o) })

/-- An instruction word as tval. -/
def wordVal (w : BitVec 32) : Word := w.setWidth 64

/-- MSI-X vector n is signalled (R382): its message goes out, or waits in its pending bit while its entry is masked. -/
def State.signal (s : State) (n : Nat) : State :=
  if (s.msixTable.get (Fin.ofNat 32 n)).masked then { s with msixPending := s.msixPending ||| BitVec.twoPow 32 (n % 32) }
  else { s with msix := s.msix ++ [n] }

end Sys2Proof.Machine
end

