-- ==== Sys2Proof/Machine/Memory.lean ====
section
/-! DEFINITION. Memory, the physical map, store queues, line locks, page walks and translation, and the access of a
hart to its bytes (chapters 7 and 8, R345, R346, R366, R381). -/

namespace Sys2Proof.Machine

/-! ### Cells -/

/-- The byte at a physical address: an address that is not listed reads 0. -/
def memGet : Memory → Nat → Byte
  | [], _ => 0
  | (b, v) :: rest, a => if a = b then v else if a < b then 0 else memGet rest a

/-- The memory with one byte written, in canonical form. -/
def memSet : Memory → Nat → Byte → Memory
  | [], a, v => if v = 0 then [] else [(a, v)]
  | (b, w) :: rest, a, v =>
    if a < b then (if v = 0 then (b, w) :: rest else (a, v) :: (b, w) :: rest)
    else if a = b then (if v = 0 then rest else (a, v) :: rest)
    else (b, w) :: memSet rest a v

/-- The canonical form: addresses strictly rise and no listed byte is 0. -/
def memWfFrom : Nat → Memory → Bool
  | _, [] => true
  | lo, (a, v) :: rest => decide (lo ≤ a) && v != 0 && memWfFrom (a + 1) rest

/-- The canonical form of a memory. -/
def Memory.wf (m : Memory) : Bool := memWfFrom 0 m

/-- A byte with the bits of `mask` taken from `val`. -/
def mixByte (old val mask : Byte) : Byte := (old &&& ~~~mask) ||| (val &&& mask)

/-- A masked write to a memory. -/
def memPut (m : Memory) (w : ByteWrite) : Memory := memSet m w.pa (mixByte (memGet m w.pa) w.val w.mask)

/-- Masked writes in order. -/
def memPuts (m : Memory) (ws : List ByteWrite) : Memory := ws.foldl memPut m

/-- A little-endian number from bytes. -/
def leNat : List Byte → Nat
  | [] => 0
  | b :: rest => b.toNat + 256 * leNat rest

/-- The n low bytes of a number, little-endian. -/
def leBytes : Nat → Nat → List Byte
  | 0, _ => []
  | n + 1, x => BitVec.ofNat 8 x :: leBytes n (x / 256)

/-- Full writes of bytes from an address up. -/
def writesAt (pa : Nat) : List Byte → List ByteWrite
  | [] => []
  | b :: rest => { pa := pa, val := b, mask := 0xFF } :: writesAt (pa + 1) rest

/-! ### The physical map (Table 7.2) -/

/-- What a physical address names. -/
inductive Region where
  | global
  | host (off : Nat)
  | spad (c : Nat) (off : Nat)
  | sdm (c : Nat) (off : Nat)
  | remote (m : Nat)
  | hole
  deriving DecidableEq, Repr

/-- The first address of core c's slot. -/
def slotBase (c : Nat) : Nat := 0xC0000000000 + c * 0x1000000

/-- The region of a 52-bit physical address on a part (R12, R192, R193, Table 7.2): a part without fabric ports reaches no
other module. -/
def regionOf (p : Part) (pa : Nat) : Region :=
  if pa / 2 ^ 44 ≠ 0 then (if Config.hasFab p then .remote (pa / 2 ^ 44) else .hole)
  else if pa < Config.memBytes p then .global
  else if 0x80000000000 ≤ pa ∧ pa < 0xC0000000000 then .host (pa - 0x80000000000)
  else if 0xC0000000000 ≤ pa ∧ pa < 0xE0000000000 then
    let c := (pa - 0xC0000000000) / 0x1000000
    let o := (pa - 0xC0000000000) % 0x1000000
    if c < Config.cores p then
      if o < 0x400000 then .spad c o else if o < 0x440000 then .sdm c (o - 0x400000) else .hole
    else .hole
  else .hole

/-- The region of an address on the module. -/
def State.region (s : State) (pa : Nat) : Region := regionOf s.part pa

/-- A frame can be mapped (R193; R222 on the 8810): the offset within the named module lies in memory, the host window
or a local memory. The map of another module is taken as this part's own (log 88). -/
def mappable (p : Part) (pa : Nat) : Bool :=
  match regionOf p (pa % 2 ^ 44) with
  | .hole => false
  | _ => pa / 2 ^ 44 == 0 || Config.hasFab p

/-- The host address an open aperture gives a window offset: none where SIZE is outside 12 to 38, the offset lies past
the aperture, or HBASE[11:0] breaks its rule, and the access raises HOST_WINDOW (R1, R381, log 74). -/
def State.aperture (s : State) (off : Nat) : Option Nat :=
  let n := off / 2 ^ 38
  let o := off % 2 ^ 38
  if h : n < 16 then
    let a := s.apertures[n]
    let g := a.size.toNat
    if 12 ≤ g ∧ g ≤ 38 ∧ o < 2 ^ g ∧ a.hbase.toNat % 4096 = 0 then some ((a.hbase.toNat + o) % 2 ^ 64) else none
  else none

/-! ### Homes and store queues -/

/-- Lines of global memory with uncorrectable data (R346). -/
def State.badLineOf (s : State) (pa : Nat) : Option BadLine := s.badLines.find? (fun b => b.line == pa / 128)

/-- The tval of an uncorrectable line (Table 13.2): the number of its stack or slice, among those that the part has, is a
free value (R12, log 10). -/
def lineTval (p : Part) (b : BadLine) : Word :=
  let place : Nat := if b.llc then (Config.sliceNumber b.line).toNat
    else (Config.stackNumber b.line).toNat % Config.stackCount p
  BitVec.ofNat 64 (place * 2 ^ 56 + b.line % 2 ^ 45 * 128)

/-- The cause of an uncorrectable line. -/
def lineCause (b : BadLine) : BitVec 7 := if b.llc then Cause.llcUncorrectable else Cause.memUncorrectable

/-- The word of 8 bytes of a scratchpad (unit 5) or scalar data memory (unit 6) that a mark of a core spoils: its number
in that memory (R202, log 72). -/
def LaneMark.spoils (m : LaneMark) (unit : BitVec 4) (off : Nat) : Bool := m.unit == unit && m.pos / 8 == off / 8

/-- The mark that spoils the local word holding a physical address. -/
def State.markAt (s : State) (pa : Nat) : Option LaneMark :=
  match s.region pa with
  | .spad c o => if h : c < 32 then (s.cores.get ⟨c, h⟩).marks.find? (fun m => m.spoils 5 o) else none
  | .sdm c o => if h : c < 32 then (s.cores.get ⟨c, h⟩).marks.find? (fun m => m.spoils 6 o) else none
  | _ => none

/-- LANE_SRAM_UNCORRECTABLE's tval (Table 13.2): REG is 0 for the shadow and the local memories. -/
def laneVal (m : LaneMark) : Word :=
  let reg : Nat := if m.unit.toNat < 4 then m.reg else 0
  BitVec.ofNat 64 (m.unit.toNat * 2 ^ 60 + reg % 2 ^ 20 * 2 ^ 40 + m.pos % 2 ^ 32)

/-- Nothing in global memory and no local memory holds uncorrectable data. -/
def State.clean (s : State) : Bool := s.badLines.isEmpty && s.cores.all (fun c => c.marks.isEmpty)

/-- The bits of a byte that writes write. -/
def maskOf (pa : Nat) (ws : List ByteWrite) : Byte := ws.foldl (fun m w => if w.pa == pa then m ||| w.mask else m) 0

/-- Whether writes cover all of the n bytes from a multiple of n. -/
def coversBlock (ws : List ByteWrite) (n pa : Nat) : Bool :=
  (List.range n).all (fun i => maskOf (pa / n * n + i) ws == 0xFF)

/-- Whether writes cover all 128 bytes of a line. -/
def coversLine (ws : List ByteWrite) (line : Nat) : Bool := coversBlock ws 128 (128 * line)

/-- The distinct lines of writes, in order of first appearance. -/
def linesOf (pas : List Nat) : List Nat :=
  (pas.map (fun p => p / 128)).eraseDups

/-- The uncorrectable data that a write of the byte at a physical address would merge with, when the writes `ws` made
with it do not cover the line or local word (R346). -/
def State.spoiled (s : State) (ws : List ByteWrite) (pa : Nat) : Option Stop :=
  match s.badLineOf pa with
  | some b => if coversLine ws (pa / 128) then none else some (.trap (lineCause b) (lineTval s.part b))
  | none =>
    match s.markAt pa with
    | some m => if coversBlock ws 8 pa then none else some (.trap Cause.laneSram (laneVal m))
    | none => none

/-- The marks of a core's memories after writes: a word that is covered is sound again. -/
def State.marksAfter (s : State) (c : Nat) (ws : List ByteWrite) (marks : List LaneMark) : List LaneMark :=
  marks.filter (fun m => !ws.any (fun w => match s.region w.pa with
    | .spad k o => k == c && m.spoils 5 o && coversBlock ws 8 w.pa
    | .sdm k o => k == c && m.spoils 6 o && coversBlock ws 8 w.pa
    | _ => false))

/-- Writes performed at their home: a line or local word with bad data takes only writes of all its bytes, which mend it
(R346). -/
def State.home (s : State) (ws : List ByteWrite) : State :=
  if s.clean then { s with mem := memPuts s.mem ws }
  else
    { s with
      mem := memPuts s.mem (ws.filter (fun w => (s.spoiled ws w.pa).isNone))
      badLines := s.badLines.filter (fun b => !coversLine ws b.line)
      cores := Vector.ofFn (fun c : Fin 32 =>
        { s.cores.get c with marks := s.marksAfter c.val ws (s.cores.get c).marks }) }

/-- The home of a write lies on a chiplet out of service: the write is lost (R227). -/
def State.homeLost (s : State) (pa : Nat) : Bool :=
  match s.region pa with
  | .spad c _ | .sdm c _ => if h : c < 32 then !s.inService (chipletOf ⟨c, h⟩) else true
  | _ => false

/-- A write leaves a store queue: it performs at its home, or is dropped when its fence generation is stale (R229,
R362). -/
def State.perform (s : State) (w : QueuedWrite) : State :=
  if (s.chiplet (chipletOf (coreOf w.hart))).gen = w.gen then
    s.home (w.bytes.filter (fun b => !s.homeLost b.pa))
  else s

/-- Whether two writes touch a common byte. -/
def overlaps (a b : QueuedWrite) : Bool := a.bytes.any (fun x => b.bytes.any (fun y => x.pa == y.pa))

/-- Whether entry i of a queue may leave: no earlier entry shares a byte with it (R229), no earlier entry of its own
ordered instruction remains (R236), and none that a FENCE puts before it (R234). -/
def mayLeave (q : List QueuedWrite) (i : Nat) : Bool :=
  match q[i]? with
  | none => false
  | some w => (q.take i).all (fun e => !overlaps e w && !(w.ordered && e.group == w.group) && decide (w.after ≤ e.group))

/-- Entry i leaves the queue of core c for its home. -/
def State.drain (s : State) (c : CoreId) (i : Nat) : State :=
  match (s.core c).queue[i]? with
  | none => s
  | some w => (s.modCore c (fun k => { k with queue := k.queue.eraseIdx i })).perform w

/-- The line of a physical address is locked, or released with accesses still waiting for it in their order: an access
that does not stand among them comes after them (R252). -/
def State.lineHeld (s : State) (pa : Nat) : Bool := s.locks.any (fun l => l.line == pa / 128)

/-- Whether entry i of a queue can leave now: it may leave, and no line it writes is locked (R229, R252). -/
def State.canLeave (s : State) (q : List QueuedWrite) (i : Nat) : Bool :=
  match q[i]? with
  | none => false
  | some w => mayLeave q i && !w.bytes.any (fun b => s.lineHeld b.pa)

/-- The first entry of a core's queue that can leave. -/
def State.nextLeaving (s : State) (c : CoreId) : Option Nat :=
  let q := (s.core c).queue
  (List.range q.length).find? (fun i => s.canLeave q i)

/-- The first entry of a core's queue that can leave goes home; none does while locked lines hold them all. -/
def State.drainOne (s : State) (c : CoreId) : State :=
  match s.nextLeaving c with
  | none => s
  | some i => s.drain c i

/-- The places of the 64 that a queue's writes take: one for each line that an instruction writes (R228). -/
def queueLoad (q : List QueuedWrite) : Nat :=
  ((q.flatMap (fun w => (linesOf (w.bytes.map (fun b => b.pa))).map (fun l => (w.group, l)))).eraseDups).length

/-- Whether a queue has room for a write (R228): the elements of an ordered store that must become visible as one enter an
empty queue together, however many lines they write (log 87). -/
def queueFits (q : List QueuedWrite) (w : QueuedWrite) : Bool := q.isEmpty || decide (queueLoad (q ++ [w]) ≤ 64)

/-- Entries of a core's queue leave, at most n of them, until it has room for a write (R228). -/
def State.makeRoom (s : State) (c : CoreId) (w : QueuedWrite) : Nat → State
  | 0 => s
  | n + 1 => if queueFits (s.core c).queue w then s else (s.drainOne c).makeRoom c w n

/-- A write enters a core's queue. -/
def State.enqueue (s : State) (c : CoreId) (w : QueuedWrite) : State :=
  s.modCore c (fun k => { k with queue := k.queue ++ [w] })

/-- A byte as writes leave it. -/
def applyWrites (pa : Nat) (old : Byte) (ws : List ByteWrite) : Byte :=
  ws.foldl (fun b w => if w.pa == pa then mixByte b w.val w.mask else b) old

/-- The byte a hart of core c reads: the home's, as the writes in the core's queue leave it (R229). -/
def State.coreByte (s : State) (c : CoreId) (pa : Nat) : Byte :=
  (s.core c).queue.foldl (fun b w => applyWrites pa b w.bytes) (memGet s.mem pa)

/-- The writes that the open belayed strip of hart h has staged, but for its VAMOs (R243). -/
def State.stagedWrites (s : State) (h : HartId) : List ByteWrite :=
  if s.belayed h then
    match s.openStrip h with
    | some o => o.staged.flatMap (fun e => match e with
        | .bytes ws => ws
        | .vamo .. => [])
    | none => []
  else []

/-- The byte hart h reads: inside a belayed strip its staged writes too, a staged VAMO excepted (R243). -/
def State.readByte (s : State) (h : HartId) (pa : Nat) : Byte :=
  applyWrites pa (s.coreByte (coreOf h) pa) (s.stagedWrites h)

/-- A core's queue holds every bit of a byte (R229). -/
def State.coreHeld (s : State) (c : CoreId) (pa : Nat) : Bool :=
  maskOf pa ((s.core c).queue.flatMap (fun w => w.bytes)) == 0xFF

/-- The byte that hart h reads comes whole from its core's queue or its strip's staging, and not from its home (R229). -/
def State.heldByte (s : State) (h : HartId) (pa : Nat) : Bool :=
  maskOf pa ((s.core (coreOf h)).queue.flatMap (fun w => w.bytes) ++ s.stagedWrites h) == 0xFF

/-! ### Waiting for writes (R232 to R240) -/

/-- Whether every write in the queue of the core of hart h is home. The model waits for the core's whole queue: what a
hart has seen of its core's writes is not recorded (log 11). -/
def State.quiet (s : State) (h : HartId) : Bool :=
  (s.core (coreOf h)).queue.isEmpty

/-- Writes that the executing hart's last FENCE of writes puts before its later ones are still on their way (R234). -/
def State.fencePending (s : State) : Bool := s.myCore.queue.any (fun e => decide (e.group < s.me.fenceAt))

/-- The instruction waits until the writes of hart h are home: one entry leaves (log 11). -/
def State.waitQuiet (s : State) : Out := (s.drainOne (coreOf s.cur)).hold

/-! ### Line locks (R252) -/

/-- Whether a line waits for hart h: it is locked by another agent, or others arrived before. -/
def State.lockedFor (s : State) (h : HartId) (line : Nat) : Bool :=
  s.locks.any (fun l => l.line == line && match l.holder with
    | some k => k != .hart h
    | none => l.waiting.head? != some h)

/-- Hart h waits at a line, which its instruction needs next, and at no other; the instruction holds on (R252, log 25). -/
def State.joinLock (s : State) (h : HartId) (line : Nat) : State :=
  let locks := s.locks.map (fun l =>
    if l.line != line then { l with waiting := l.waiting.filter (fun x => x != h) }
    else if l.waiting.contains h then l else { l with waiting := l.waiting ++ [h] })
  { s.modHart h Hart.hold with locks := locks.filter (fun l => l.holder.isSome || !l.waiting.isEmpty) }

/-- Hart h waits at no home any more, when it did: its instruction has completed. -/
def State.leaveLocks (s : State) (h : HartId) : State := if s.locks = [] ∧ s.reservations = [] then s else s.leaveHomes h

/-- The first line of a list for which hart h must wait: it joins its waiters (R252). -/
def State.lockWait (s : State) (h : HartId) (lines : List Nat) : Option Stop :=
  if s.locks = [] then none
  else (lines.find? (fun l => s.lockedFor h l)).map (fun l => .wait (s.joinLock h l))

/-- Hart h takes the locks of lines, each with the slice in which it stays (R252). -/
def State.takeLocks (s : State) (h : HartId) (lines : List (Nat × Nat)) : State :=
  let mine := s.locks.map (fun l =>
    if lines.any (fun x => x.1 == l.line) then
      { l with holder := some (.hart h), waiting := l.waiting.filter (fun x => x != h) }
    else l)
  let new := lines.filter (fun x => !s.locks.any (fun l => l.line == x.1))
  { s with locks := mine ++ new.map (fun x => { line := x.1, slice := x.2, holder := some (.hart h), waiting := [] }) }

/-- A holder releases its locks; a line for which others wait goes to them in their order (R252). -/
def State.freeLocks (s : State) (k : Holder) : State :=
  let freed := s.locks.map (fun l => if l.holder = some k then { l with holder := none } else l)
  { s with locks := freed.filter (fun l => l.holder.isSome || !l.waiting.isEmpty) }

/-- A line that counts in no slice: one of a local memory, or one that is locked without a reservation. -/
def noSlice : Nat := 64

/-! ### Page tables (R195 to R199) -/

/-- The translation cause of a missing page or permission (R197). -/
def Acc.cause : Acc → BitVec 7
  | .read => Cause.pageRead | .write => Cause.pageWrite | .fetch => Cause.pageExec

/-- How a walk ends: a leaf, an invalid entry, or a stop on the way. -/
inductive Walk where
  | leaf (pte : Word) (pteAddr : Nat) (big : Bool)
  | invalid
  | stop (e : Stop)

/-- The doubleword of a page table at a physical address, read at its home (R199). A table in the host window or on
another module holds bytes this module does not know: free values. -/
def State.tableWord (s : State) (pa : Nat) : Option Word :=
  match s.region pa with
  | .hole => none
  | .host off => some (BitVec.ofNat 64 (leNat ((List.range 8).map (fun i => Config.hostByte s.tick (off + i)))))
  | .remote _ => some (BitVec.ofNat 64 (leNat ((List.range 8).map (fun i => Config.hostByte s.tick (pa + i)))))
  | _ => some (BitVec.ofNat 64 (leNat ((List.range 8).map (fun i => memGet s.mem (pa + i)))))

/-- FRAME of an entry (Table 7.4). -/
def pteFrame (e : Word) : Nat := e.toNat / 2 ^ 15 % 2 ^ 37

/-- A valid leaf. -/
def pteLeaf (e : Word) : Bool := e.getLsbD 1 || e.getLsbD 2 || e.getLsbD 3

/-- An entry that ends a walk in a fault whatever its level (R196): V = 0, a reserved bit, or W without R. -/
def pteBad (e : Word) : Bool :=
  !e.getLsbD 0 || e &&& 0xFFF0000000007100 != 0 || (e.getLsbD 2 && !e.getLsbD 1)

/-- A walk of va from the root frame (R195, R196). `stop` says what stops the read of an entry. -/
def State.walk (s : State) (stop : Nat → Option Stop) (root : Nat) (va : Nat) : Walk :=
  let entry (pa : Nat) (k : Word → Walk) : Walk :=
    match stop pa with
    | some e => .stop e
    | none =>
      match s.tableWord pa with
      | none => .stop (.hole pa)
      | some e => if pteBad e then .invalid else k e
  entry (root * 2 ^ 15 + 8 * (va / 2 ^ 39 % 512)) (fun e1 =>
    if pteLeaf e1 || !mappable s.part (pteFrame e1 * 2 ^ 15) then .invalid else
    let a2 := pteFrame e1 * 2 ^ 15 + 8 * (va / 2 ^ 27 % 4096)
    entry a2 (fun e2 =>
      if pteLeaf e2 then
        if pteFrame e2 % 4096 = 0 ∧ mappable s.part (pteFrame e2 * 2 ^ 15 + va / 2 ^ 15 % 4096 * 2 ^ 15) then
          .leaf e2 a2 true
        else .invalid
      else if !mappable s.part (pteFrame e2 * 2 ^ 15) then .invalid
      else
        let a3 := pteFrame e2 * 2 ^ 15 + 8 * (va / 2 ^ 15 % 4096)
        entry a3 (fun e3 =>
          if !pteLeaf e3 || !mappable s.part (pteFrame e3 * 2 ^ 15) then .invalid else .leaf e3 a3 false)))

/-- A cached entry covers va for an address space (R199). -/
def TEntry.hits (t : TEntry) (asid : BitVec 16) (va : Nat) : Bool :=
  (t.pte.getLsbD 5 || t.asid == asid) &&
    (if t.big then t.vpn.toNat / 4096 == va / 2 ^ 27 else t.vpn.toNat == va / 2 ^ 15)

/-- A and D of an entry suffice for the access; otherwise it walks again (R198). -/
def TEntry.usable (t : TEntry) (a : Acc) : Bool := t.pte.getLsbD 6 && (a != Acc.write || t.pte.getLsbD 7)

/-- Where an access lands: its virtual and physical address, whether its leaf is global and of 128 MiB, the region HOME of
its leaf (R202), and, when it was translated by a walk, the leaf to mark (R198). -/
structure Place where
  va : Word
  pa : Nat
  glob : Bool
  big : Bool
  home : Nat
  mark : Option PageMark
  deriving DecidableEq, Repr

/-- A leaf's physical address for va (R195). -/
def leafAddr (pte : Word) (big : Bool) (va : Nat) : Nat :=
  if big then pteFrame pte * 2 ^ 15 + va % 2 ^ 27 else pteFrame pte * 2 ^ 15 + va % 2 ^ 15

/-- The place that a leaf gives va. -/
def leafPlace (pte : Word) (big : Bool) (va : Nat) (mark : Option PageMark) : Place :=
  { va := BitVec.ofNat 64 va, pa := leafAddr pte big va, glob := pte.getLsbD 5, big := big,
    home := pte.toNat / 512 % 8, mark := mark }

/-- The checks of R197 on a leaf: a frame that cannot be mapped makes the entry invalid (R193), which of a 128 MiB leaf is
asked of the frames it is used for (log 88), and no frame of another module is global memory to a fetch (log 88). -/
def leafCheck (p : Part) (pte : Word) (a : Acc) (super : Bool) (pa : Nat) : Option (BitVec 7) :=
  let perm := match a with
    | .read => pte.getLsbD 1
    | .write => pte.getLsbD 2
    | .fetch => pte.getLsbD 3
  if !mappable p (pa / 2 ^ 15 * 2 ^ 15) then some a.cause
  else if !super && !pte.getLsbD 4 then some Cause.pageUser
  else if !perm then some a.cause
  else if a == Acc.fetch && regionOf p pa != .global then some Cause.pageExec
  else none

/-- Who makes an access: a hart's core, address space, tables and mode, and the translations it has taken. -/
structure Ctx where
  hart : HartId
  asid : BitVec 16
  ptbase : Word
  super : Bool
  lw : Bool
  pins : List PageMap
  deriving DecidableEq, Repr

/-- The access context of hart h. -/
def State.ctx (s : State) (h : HartId) : Ctx :=
  let x := s.hart h
  { hart := h, asid := x.asid, ptbase := x.ptbase, super := x.supervisor, lw := x.lw, pins := x.pins }

/-- A physical address lies in a local memory of another chiplet that is out of service (R366). -/
def State.fencedFor (s : State) (core : CoreId) (pa : Nat) : Bool :=
  match s.region pa with
  | .spad c _ | .sdm c _ =>
    if h : c < 32 then chipletOf ⟨c, h⟩ != chipletOf core && !s.inService (chipletOf ⟨c, h⟩) else false
  | _ => false

/-- What stops hart h's walk for va at an entry: a locked line, a fenced chiplet, or uncorrectable data (R252, R345,
R366). -/
def State.walkStop (s : State) (h : HartId) (va pa : Nat) : Option Stop :=
  match s.lockWait h [pa / 128] with
  | some e => some e
  | none => if s.fencedFor (coreOf h) pa then some (.trap Cause.chipletFenced (BitVec.ofNat 64 va)) else s.spoiled [] pa

/-- Translation of a canonical address outside the local region (R194 to R199): the page that the instruction's probe
has taken already, an entry of the core's cache, or a walk. -/
def State.translate (s : State) (x : Ctx) (a : Acc) (va : Nat) : Except Stop Place :=
  let v : Word := BitVec.ofNat 64 va
  match x.pins.find? (fun m => m.acc == a && m.vpn == va / 2 ^ 15) with
  | some m =>
    match m.fail with
    | some c => .error (.trap c v)
    | none => .ok { va := v, pa := m.base + va % 2 ^ 15, glob := m.glob, big := m.big, home := m.home, mark := m.mark }
  | none =>
    match (s.core (coreOf x.hart)).tcache.find? (fun t => t.hits x.asid va && t.usable a) with
    | some t =>
      match leafCheck s.part t.pte a x.super (leafAddr t.pte t.big va) with
      | some c => .error (.trap c v)
      | none => .ok (leafPlace t.pte t.big va none)
    | none =>
      match s.walk (s.walkStop x.hart va) (x.ptbase.toNat / 2 ^ 15) va with
      | .stop e => .error e
      | .invalid => .error (.trap a.cause v)
      | .leaf pte pteAddr big =>
        match leafCheck s.part pte a x.super (leafAddr pte big va) with
        | some c => .error (.trap c v)
        | none =>
          let pte' := pte ||| 0x40 ||| (if a = Acc.write then 0x80 else 0)
          .ok (leafPlace pte big va (some
            { entry := { asid := x.asid, vpn := BitVec.ofNat 33 (va / 2 ^ 15), big := big, pte := pte', pteAddr := pteAddr },
              old := pte }))

/-- Entries a translation cache keeps (R199): the newest 4096 small and 128 large ones. -/
def trimCache (ts : List TEntry) : List TEntry :=
  let small := (ts.filter (fun t => !t.big)).take 4096
  let large := (ts.filter (fun t => t.big)).take 128
  small ++ large

/-- A core's translation cache holds a leaf that a walk read (R199). -/
def State.fillCache (s : State) (c : CoreId) (t : TEntry) : State :=
  s.modCore c (fun k => { k with tcache := trimCache (t :: k.tcache.filter (fun u =>
    !(u.pteAddr == t.pteAddr && u.asid == t.asid && u.big == t.big && u.vpn == t.vpn))) })

/-- A and D of an entry (Table 7.4). -/
def pteMarks : Word := 0xC0

/-- The leaf at its home after an access sets A and D, by the entry that its walk read: one that no longer holds that
entry, but for its A and D, is left as it is (R198, R201, log 91). -/
def State.markLeaf (s : State) (m : PageMark) : State :=
  let t := m.entry
  let now : Word := BitVec.ofNat 64 (leNat ((List.range 8).map (fun i => memGet s.mem (t.pteAddr + i))))
  if now &&& ~~~pteMarks = t.pte &&& ~~~pteMarks then s.home (writesAt t.pteAddr (leBytes 8 (now ||| t.pte).toNat)) else s

/-- A message goes out to another module. -/
def State.post (s : State) (ms : List FabricMsg) : State :=
  { s with fabric := { s.fabric with out := s.fabric.out ++ ms } }

/-- A leaf in the host window or on another module is marked by a write of the byte that holds A and D, or by an AMO of its
home; none goes out when the walk found them set (R198, log 91). -/
def State.markAway (s : State) (m : PageMark) : State :=
  let t := m.entry
  if t.pte = m.old then s
  else
    match s.region t.pteAddr with
    | .host off =>
      { s with hostOut := s.hostOut ++ ((s.aperture off).map (fun a =>
          ({ addr := BitVec.ofNat 64 a, val := t.pte.setWidth 8 } : HostWrite))).toList }
    | _ => s.post [.amo t.pteAddr .cas .d t.pte m.old]

/-- A and D are set in a leaf, wherever it lies (R198). -/
def State.markPage (s : State) (m : PageMark) : State :=
  match s.region m.entry.pteAddr with
  | .hole => s
  | .host _ | .remote _ => s.markAway m
  | _ => s.markLeaf m

/-- A translation is used: A and D are set in its leaf, and the core's cache holds it (R198, R199). -/
def State.usePage (s : State) (c : CoreId) (m : PageMark) : State := (s.markPage m).fillCache c m.entry

/-- The pages of the places an access performs at are used. -/
def State.usePages (s : State) (c : CoreId) (ps : List Place) : State :=
  (ps.filterMap (fun p => p.mark)).eraseDups.foldl (fun s t => s.usePage c t) s

/-! ### An access of a hart (R87, R189, R190, R222, R366) -/

/-- How an instruction may touch the host window (R222). -/
inductive HostUse where
  | never | opened
  deriving DecidableEq, Repr

/-- Addresses of the local region (Table 7.1). -/
def isLocal (va : Nat) : Bool := decide (0x7FF000000000 ≤ va ∧ va < 0x7FF100000000)

/-- The checks of one byte's address up to HOST_WINDOW, in the order of R87 and R211, and where it lands. -/
def State.locateRaw (s : State) (x : Ctx) (a : Acc) (hu : HostUse) (va : Word) : Except Stop Place :=
  let n := va.toNat
  if 2 ^ 48 ≤ n then .error (.trap Cause.addrNoncanon va)
  else if isLocal n then
    if a = Acc.fetch then .error (.trap Cause.pageExec va)
    else if !x.lw then .error (.trap Cause.localWindowOff va)
    else
      let o := n - 0x7FF000000000
      if o < 0x440000 then
        .ok { va := va, pa := slotBase (coreOf x.hart).val + o, glob := false, big := false, home := 0,
              mark := none }
      else .error (.trap Cause.spadRange va)
  else
    match s.translate x a n with
    | .error e => .error e
    | .ok p =>
      match s.region p.pa with
      | .host off =>
        if hu = .opened ∧ (s.aperture off).isSome then .ok p else .error (.trap Cause.hostWindow va)
      | _ => .ok p

/-- The checks of one byte's address and where it lands: after those of `locateRaw`, a byte on another chiplet that is
out of service is CHIPLET_FENCED (R366, log 73). -/
def State.locate (s : State) (x : Ctx) (a : Acc) (hu : HostUse) (va : Word) : Except Stop Place :=
  match s.locateRaw x a hu va with
  | .error e => .error e
  | .ok p => if s.fencedFor (coreOf x.hart) p.pa then .error (.trap Cause.chipletFenced va) else .ok p

/-- Every byte of n bytes at va located in ascending order: the first that fails stops. -/
def State.locateAll (s : State) (x : Ctx) (a : Acc) (hu : HostUse) (va : Word) : Nat → Except Stop (List Place)
  | 0 => .ok []
  | n + 1 =>
    match s.locate x a hu va with
    | .error e => .error e
    | .ok p =>
      match s.locateAll x a hu (va + 1) n with
      | .error e => .error e
      | .ok ps => .ok (p :: ps)

/-- Accesses that R244 forbids inside a belayed strip: the host window, another module, another core's memories. -/
def State.belayForbids (s : State) (c : CoreId) (pa : Nat) : Bool :=
  match s.region pa with
  | .host _ | .remote _ => true
  | .spad k _ | .sdm k _ => k != c.val
  | _ => false

/-- A write to global memory. -/
def State.isGlobal (s : State) (pa : Nat) : Bool := s.region pa == .global

/-- The BELAY_FORBIDDEN check of an access found by translation (R87 check 6, R244, R323): outside a strip the writes forbidden
are those to this module's global memory (log 95). -/
def State.belayCheck (s : State) (h : HartId) (a : Acc) (w : BitVec 32) (ps : List Place) : Option Stop :=
  if !s.belayed h then none
  else
    let bad := match s.openStrip h with
      | some _ => ps.any (fun p => s.belayForbids (coreOf h) p.pa)
      | none => a == Acc.write && ps.any (fun p => s.isGlobal p.pa)
    if bad then some (.trap Cause.belayForbidden (wordVal w)) else none

/-- The lines of a strip's staging (R323). -/
def OpenStrip.lines (o : OpenStrip) : List Nat :=
  linesOf (o.staged.flatMap (fun e => match e with
    | .bytes ws => ws.map (fun w => w.pa)
    | .vamo _ _ _ pa _ => [pa]))

/-- Lines one strip may stage (R323). -/
def stageLimit : Nat := 16384

/-- Whether staging writes at these addresses would pass the limit: the first address that falls in a new line past it.
`seen` are the strip's lines. -/
def firstFull (seen : List Nat) : List Nat → Option Nat
  | [] => none
  | pa :: rest =>
    if seen.contains (pa / 128) then firstFull seen rest
    else if seen.length ≥ stageLimit then some pa
    else firstFull ((pa / 128) :: seen) rest

/-! ### Uncorrectable data that an access meets (R87 check 8, R219, R345, R346) -/

/-- The line of a byte that hart h's open belayed strip has staged, when that staged line holds uncorrectable data
(R345, R347). -/
def State.stagedBad (s : State) (h : HartId) (pa : Nat) : Option BadLine :=
  if s.belayed h then
    match s.openStrip h with
    | some o => if maskOf pa (s.stagedWrites h) = 0 then none else o.bad.find? (fun b => b.line == pa / 128)
    | none => none
  else none

/-- Uncorrectable data in the bytes that hart h reads: of its strip's staged lines, and at their homes but for those its
core's queue holds (R229). -/
def State.readError (s : State) (h : HartId) (ps : List Place) : Option Stop :=
  ps.findSome? (fun p : Place =>
    match s.stagedBad h p.pa with
    | some b => some (.trap (lineCause b) (lineTval s.part b))
    | none => if s.clean || s.heldByte h p.pa then none else s.spoiled [] p.pa)

/-- An earlier write of a core's queue makes the line or local word of a byte sound (R346). -/
def State.queueMends (s : State) (c : CoreId) (pa : Nat) : Bool :=
  (s.core c).queue.any (fun e => (s.spoiled e.bytes pa).isNone && e.bytes.any (fun b => b.pa == pa))

/-- Uncorrectable data that hart h's write of a byte would merge with, made with the writes `ws`: a write that an earlier
one of its core's queue makes sound does not, and a write to be staged merges only at the belay (R346, R347). -/
def State.mergesBad (s : State) (h : HartId) (ws : List ByteWrite) (pa : Nat) : Option Stop :=
  if s.clean || (s.inBelay h && s.isGlobal pa) || s.queueMends (coreOf h) pa then none else s.spoiled ws pa

/-- Uncorrectable data that hart h's writes would merge with. -/
def State.mergeError (s : State) (h : HartId) (ws : List ByteWrite) : Option Stop :=
  ws.findSome? (fun w => s.mergesBad h ws w.pa)

/-- Waiting at the homes of places whose lines are locked (R252). -/
def State.lockCheck (s : State) (h : HartId) (ps : List Place) : Option Stop :=
  s.lockWait h (linesOf (ps.map (fun p => p.pa)))

/-! ### Accesses to other modules (R192, R242) -/

/-- A physical address on another module. -/
def isRemote (pa : Nat) : Bool := pa / 2 ^ 44 != 0

/-- The fabric number that a nonzero PA[51:44] names (R192). -/
def State.moduleOf (s : State) (pa : Nat) : Byte := s.fabric.ident ^^^ BitVec.ofNat 8 (pa / 2 ^ 44)

/-- Traffic reaches a module: it has a route, and the route's own port is up (R384). -/
def State.routeUp (s : State) (m : Byte) : Bool :=
  s.mgmt.base && s.fabric.en &&
    match s.fabric.routes.get m.toFin with
    | some p => s.fabric.up.getLsbD p.toNat
    | none => false

/-- FTO in base clocks: 0 is taken as 1 (Table 16.2). -/
def State.fto (s : State) : Nat := max 1 s.fabric.fto.toNat

/-- The module an access names, when it is another one (R192). -/
def remoteOf (ps : List Place) : Option Nat := (ps.map (fun p => p.pa)).find? isRemote

/-- The translation of a place, as the instruction keeps it while it waits (R201). -/
def State.pinOf (s : State) (x : Ctx) (a : Acc) (p : Place) : PageMap :=
  { acc := a, vpn := p.va.toNat / 2 ^ 15, asid := x.asid, glob := p.glob, big := p.big, home := p.home,
    base := p.pa / 2 ^ 15 * 2 ^ 15,
    host := match s.region p.pa with
      | .host off => (s.aperture off).map (fun ha => (ha + 2 ^ 64 - p.pa % 2 ^ 15) % 2 ^ 64)
      | _ => none,
    mark := p.mark, fail := none }

/-- The translated pages of places, each once. -/
def State.pinsOf (s : State) (x : Ctx) (a : Acc) (ps : List Place) : List PageMap :=
  ((ps.filter (fun p => !isLocal p.va.toNat)).map (s.pinOf x a)).eraseDups

/-- A translation that failed, kept too: the trap of R197 that a probe found (R201). -/
def failPin (x : Ctx) (a : Acc) (e : Stop) : List PageMap :=
  match e with
  | .trap c v =>
    if c = Cause.pageRead ∨ c = Cause.pageWrite ∨ c = Cause.pageUser then
      [{ acc := a, vpn := v.toNat / 2 ^ 15, asid := x.asid, glob := false, big := false, home := 0, base := 0, host := none,
         mark := none, fail := some c }]
    else []
  | _ => []

/-- The executing hart keeps translations until its instruction ends. -/
def State.keepPins (s : State) (ms : List PageMap) : State :=
  s.modMe (fun h => { h with pins := (h.pins ++ ms).eraseDups })

/-- A translation kept whose leaf is marked: its use marks none anew. -/
def PageMap.used (m : PageMap) : PageMap := { m with mark := none }

/-- The leaves of the pages that the executing hart keeps are marked. -/
def State.usedPins (s : State) : State := s.modMe (fun h => { h with pins := h.pins.map PageMap.used })

/-- A scalar access of the executing hart to another module: the first execution sends the message and waits; executed
again, it waits until the answer is there (R242). `none` lets a local access go on; a list is the answer. -/
def State.remoteGate (s : State) (a : Acc) (ps : List Place) (msg : FabricMsg) : Except Stop (Option (List Byte)) :=
  match remoteOf ps with
  | none => .ok none
  | some pa =>
    match s.me.remote with
    | .idle =>
      let t := (s.keepPins (s.pinsOf (s.ctx s.cur) a ps)).usePages (coreOf s.cur) ps
      .error (.wait ((t.modMe (fun h => { h with remote := .sent pa, sentAt := s.baseClock })).post [msg]))
    | .answered r => .ok (some r)
    | _ => .error (.wait s)

/-- The instruction's waits at other modules are over. -/
def State.endRemote (s : State) : State := s.modMe (fun h => { h with remote := .idle, pins := [] })

/-- What an instruction reads: the bytes that have come from other modules, by physical address, the reads still to be
asked for there, and the addresses read so far. -/
structure Reader where
  got : List (Nat × Byte)
  need : List (Nat × Nat)
  seen : List Nat
  deriving DecidableEq, Repr

/-- The bytes the executing hart's instruction has of other modules. -/
def Hart.reader (h : Hart) : Reader :=
  { got := match h.remote with
      | .reading _ l => l
      | _ => [],
    need := [], seen := [] }

/-- Rising addresses as runs of address and length. -/
def byteRuns : List Nat → List (Nat × Nat)
  | [] => []
  | a :: rest =>
    match byteRuns rest with
    | [] => [(a, 1)]
    | (b, n) :: more => if b = a + 1 then (a, n + 1) :: more else (a, 1) :: (b, n) :: more

/-- The byte hart h reads at a place; a host-window byte is what the host answers (R241): a free value. -/
def State.fetchByte (s : State) (h : HartId) (pa : Nat) : Byte :=
  match s.region pa with
  | .host off => Config.hostByte s.tick ((s.aperture off).getD 0)
  | _ => s.readByte h pa

/-- Bytes as the executing hart reads them, or what must be asked for before they can be read: the bytes of one access
of another module are read there in one request (R226). -/
def Reader.bytes (r : Reader) (s : State) (ps : List Place) : Option (List Byte) × Reader :=
  let away := (ps.map (fun p => p.pa)).filter isRemote
  let r := { r with seen := r.seen ++ ps.map (fun p => p.pa) }
  if away.all (fun pa => r.got.any (fun g => g.1 == pa)) then
    (some (ps.map (fun p =>
      if isRemote p.pa then ((r.got.find? (fun g => g.1 == p.pa)).map (fun g => g.2)).getD 0
      else s.fetchByte s.cur p.pa)), r)
  else (none, { r with need := r.need ++ byteRuns away })

/-- The reads of other modules that a reader needs are asked for, and the instruction waits (R242). -/
def State.asking (s : State) (r : Reader) : State :=
  let need := r.need.eraseDups
  (s.modMe (fun h => { h.sample with remote := .reading need r.got, sentAt := s.baseClock })).post
    (need.map (fun n => .load n.1 n.2))

/-- The instruction waits for what it asks for. -/
def State.askReads (s : State) (r : Reader) : Out := .next (s.asking r)

/-- The free-value counter moves on. -/
def State.step1 (s : State) : State := { s with tick := s.tick + 1 }

/-! ### Stores (R218, R228, R236, R241 to R243) -/

/-- The entry of a core's queue that holds some of the executing hart's writes. -/
def State.entry (s : State) (ordered : Bool) (group : Nat) (ws : List ByteWrite) : QueuedWrite :=
  { hart := s.cur, launch := s.me.launch, gen := (s.chiplet (chipletOf (coreOf s.cur))).gen, group := group, after := s.me.fenceAt,
    ordered := ordered, bytes := ws }

/-- The writes of a part that enter the store queue of the executing hart's core: global ones but in a belayed strip,
and local ones. -/
def State.queuedPart (s : State) (ws : List ByteWrite) : List ByteWrite :=
  ws.filter (fun w => match s.region w.pa with
    | .global => !s.inBelay s.cur
    | .spad _ _ | .sdm _ _ => true
    | _ => false)

/-- Writes of the executing hart on this module perform: staged inside a belayed strip (R243), sent to the host (R241),
or entered in the core's store queue (R228). -/
def State.putBytes (s : State) (ordered : Bool) (group : Nat) (ws : List ByteWrite) : State :=
  let hostW := ws.filterMap (fun w => match s.region w.pa with
    | .host off => (s.aperture off).map (fun a => ({ addr := BitVec.ofNat 64 a, val := w.val } : HostWrite))
    | _ => none)
  let staged := if s.inBelay s.cur then ws.filter (fun w => s.isGlobal w.pa) else []
  let queued := s.queuedPart ws
  let s := if hostW.isEmpty then s else { s with hostOut := s.hostOut ++ hostW }
  let s := if staged.isEmpty then s else s.modStrip s.cur (fun o => { o with
    staged := o.staged ++ [.bytes staged], bad := o.bad.filter (fun b => !coversLine staged b.line) })
  if queued.isEmpty then s else s.enqueue (coreOf s.cur) (s.entry ordered group queued)

/-- The state with room, as far as entries can leave, for a part of a store. -/
def State.roomFor (s : State) (ordered : Bool) (group : Nat) (ws : List ByteWrite) : State :=
  let c := coreOf s.cur
  s.makeRoom c (s.entry ordered group (s.queuedPart ws)) (s.core c).queue.length

/-- Whether the queue has room for a part of a store. -/
def State.hasRoom (s : State) (ordered : Bool) (group : Nat) (ws : List ByteWrite) : Bool :=
  let w := s.queuedPart ws
  w.isEmpty || queueFits (s.core (coreOf s.cur)).queue (s.entry ordered group w)

/-- Whether writes of an ordered instruction still stand in the executing hart's queue (R236). -/
def State.groupQueued (s : State) (group : Nat) : Bool :=
  (s.core (coreOf s.cur)).queue.any (fun e => e.hart == s.cur && e.group == group)

/-- Entries of the executing hart's core leave, at most n of them, until an instruction's writes are home. -/
def State.flushGroup (s : State) (group : Nat) : Nat → State
  | 0 => s
  | n + 1 => if s.groupQueued group then (s.drainOne (coreOf s.cur)).flushGroup group n else s

/-- Entries of the executing hart's core leave, at most n of them. -/
def State.drainSome (s : State) : Nat → State
  | 0 => s
  | n + 1 => (s.drainOne (coreOf s.cur)).drainSome n

/-- A part of a store with bytes on this module and on another is sent: the lines of its bytes here are locked until the
other module has acknowledged, so that no agent sees some of the part without the rest (R236, R237, log 86). The state,
and whether the part is out. -/
def State.sendMixed (s : State) (away own : List ByteWrite) : State × Bool :=
  let t := s.drainSome (s.core (coreOf s.cur)).queue.length
  let lines := linesOf (own.map (fun w => w.pa))
  if !(t.core (coreOf s.cur)).queue.isEmpty then (t, false)
  else
    match lines.find? (fun l => t.lockedFor s.cur l) with
    | some l => (t.joinLock s.cur l, false)
    | none => ((t.takeLocks s.cur (lines.map (fun l => (l, noSlice)))).post [.store away], true)

/-- The parts of a store perform in order as far as they can: what is left of them, and whether the first of these was
sent to another module (R242). -/
def State.pushParts (s : State) (ordered : Bool) (group : Nat) :
    List (List ByteWrite) → State × List (List ByteWrite) × Bool
  | [] => (s, [], false)
  | p :: rest =>
    if p.any (fun w => isRemote w.pa) then
      let t := if ordered then s.flushGroup group (s.core (coreOf s.cur)).queue.length else s
      if ordered && t.groupQueued group then (t, p :: rest, false)
      else if p.all (fun w => isRemote w.pa) then (t.post [.store p], p :: rest, true)
      else
        let u := t.sendMixed (p.filter (fun w => isRemote w.pa)) (p.filter (fun w => !isRemote w.pa))
        (u.1, p :: rest, u.2)
    else
      let t := s.roomFor ordered group p
      if t.hasRoom ordered group p then (t.putBytes ordered group p).pushParts ordered group rest
      else (t, p :: rest, false)

/-- The executing hart's store goes on with the parts that are left; once all have performed, `k` says how it ends. -/
def State.goOn (s : State) (r : StoreRest) (k : State → Option (Nat × BitVec 7 × Word) → Out) : Out :=
  match s.pushParts r.ordered r.group r.parts with
  | (t, [], _) => k t.endRemote r.stop
  | (t, rest, away) =>
    .next (t.modMe (fun h => { h with
      remote := .storing { r with parts := rest, away := away }, pins := r.pins,
      sentAt := if away then s.baseClock else h.sentAt }))

/-- A part of hart h's store that another module has not acknowledged ends: its bytes on this module perform, when
`performs`, and their lines are free. -/
def State.endPart (s : State) (h : HartId) (performs : Bool) : State :=
  match (s.hart h).remote with
  | .storing r =>
    if r.away then
      (if performs then s.home ((r.parts.headD []).filter (fun w => !isRemote w.pa && !s.homeLost w.pa)) else s).freeLocks
        (.hart h)
    else s
  | _ => s

/-- A write that goes to the host or to another module. -/
def State.goesOut (s : State) (w : ByteWrite) : Bool :=
  match s.region w.pa with
  | .host _ | .remote _ => true
  | _ => false

/-- A store whose probe is done begins: it waits at issue for what a FENCE puts before writes that no queue holds (R234) and
while the queue has no room for its first part (R228), marks its pages (R198), and performs part by part, keeping its
translations until it is done (R200, R201). -/
def State.startStore (s : State) (ps : List Place) (ordered : Bool) (parts : List (List ByteWrite))
    (stop : Option (Nat × BitVec 7 × Word)) (k : State → Option (Nat × BitVec 7 × Word) → Out) : Out :=
  let first := parts.headD []
  let t := s.roomFor ordered s.group first
  if s.fencePending && parts.any (fun p => p.any s.goesOut) then s.waitQuiet
  else if !first.any (fun w => isRemote w.pa) && !t.hasRoom ordered s.group first then t.hold
  else
    (t.usePages (coreOf s.cur) ps).goOn
      { parts := parts, group := s.group, ordered := ordered, away := false, pins := s.pinsOf (s.ctx s.cur) .write ps,
        stop := stop } k

/-! ### Scalar loads and stores (R86, R87) -/

/-- The causes whose tval is that of Table 13.2, wherever they are met: on the way through the page tables too (R87 check
8, R342, R345). -/
def uncorrectable (c : BitVec 7) : Bool := c == Cause.memUncorrectable || c == Cause.llcUncorrectable || c == Cause.laneSram

/-- The tval of a check of a scalar access at ea that finds cause c with value v (R87, R248, R342). -/
def accessVal (c : BitVec 7) (v ea : Word) : Word := if uncorrectable c then v else ea

/-- A scalar load of n bytes at ea (R86, R87): the checks in order, then the bytes handed to `k`. -/
def State.load (s : State) (n : Nat) (ea : Word) (w : BitVec 32) (k : State → Nat → Out) : Out :=
  if 2 ^ 48 ≤ ea.toNat ∨ 2 ^ 48 ≤ (ea + BitVec.ofNat 64 (n - 1)).toNat then s.trap Cause.addrNoncanon ea
  else if ea.toNat % n ≠ 0 then s.trap Cause.misalignedData ea
  else
    match s.locateAll (s.ctx s.cur) .read .opened ea n with
    | .error (.trap c v) => s.trap c (accessVal c v ea)
    | .error e => e.out s
    | .ok ps =>
      match s.belayCheck s.cur .read w ps with
      | some e => e.out s
      | none =>
        match s.lockCheck s.cur ps with
        | some e => e.out s
        | none =>
          match s.readError s.cur ps with
          | some e => e.out s
          | none =>
            match s.remoteGate .read ps (.load ((ps.map (fun p => p.pa)).headD 0) n) with
            | .error e => e.out s
            | .ok (some r) => k s.endRemote (leNat (r.take n))
            | .ok none =>
              let t := s.usePages (coreOf s.cur) ps
              k t.step1 (leNat (ps.map (fun p => t.fetchByte s.cur p.pa)))

/-- A scalar store of n bytes at ea (R86, R87): the checks in order, then the write. -/
def State.store (s : State) (n : Nat) (ea : Word) (v : Nat) (w : BitVec 32) : Out :=
  match s.me.remote with
  | .storing r => s.goOn r (fun t _ => t.done)
  | _ =>
    if 2 ^ 48 ≤ ea.toNat ∨ 2 ^ 48 ≤ (ea + BitVec.ofNat 64 (n - 1)).toNat then s.trap Cause.addrNoncanon ea
    else if ea.toNat % n ≠ 0 then s.trap Cause.misalignedData ea
    else
      match s.locateAll (s.ctx s.cur) .write .opened ea n with
      | .error (.trap c u) => s.trap c (accessVal c u ea)
      | .error e => e.out s
      | .ok ps =>
        match s.belayCheck s.cur .write w ps with
        | some e => e.out s
        | none =>
          let pas := ps.map (fun p => p.pa)
          let full := match s.openStrip s.cur with
            | some o => if s.belayed s.cur && pas.any (fun a => s.isGlobal a) then firstFull o.lines pas else none
            | none => none
          match full with
          | some _ => s.trap Cause.belayFull ea
          | none =>
            let ws := (pas.zip (leBytes n v)).map (fun p => ({ pa := p.1, val := p.2, mask := 0xFF } : ByteWrite))
            match s.mergeError s.cur ws with
            | some e => e.out s
            | none => s.startStore ps false [ws] none (fun t _ => t.done)

/-! ### Instruction fetch (R31, R189, R197, R235) -/

/-- What a fetch gives: a trap before any word exists, a wait, or the word. -/
inductive Fetched where
  | stop (e : Stop)
  | word (w : BitVec 32) (s : State)

/-- The word at hart h's pc: the instruction cache's, or the memory's as the hart reads it, which the cache then holds;
what a belayed strip has staged is seen by its hart alone and enters no cache (R243). -/
def State.fetch (s : State) (h : HartId) : Fetched :=
  let pc := (s.hart h).pc
  match s.locate (s.ctx h) .fetch .never pc with
  | .error e => .stop e
  | .ok p =>
    let bytes := (List.range 4).map (fun i => p.pa + i)
    let staged := bytes.any (fun a => maskOf a (s.stagedWrites h) != 0)
    match (if staged then none else (s.core (coreOf h)).icache.find? (fun e => e.1 == p.pa)) with
    | some e => .word e.2 (s.usePages (coreOf h) [p])
    | none =>
      match (s.lockCheck h [p]).orElse (fun _ => s.readError h (bytes.map (fun a => { p with pa := a }))) with
      | some e => .stop e
      | none =>
        let t := s.usePages (coreOf h) [p]
        let w := BitVec.ofNat 32 (leNat (bytes.map (fun a => t.readByte h a)))
        if staged then .word w t
        else .word w (t.modCore (coreOf h) (fun k => { k with icache := ((p.pa, w) :: k.icache).take 16384 }))

end Sys2Proof.Machine
end

