-- ==== Sys2Proof/Machine/Alu.lean ====
section
/-! DEFINITION. The integer instructions: ALU, immediates, shifts by an immediate, LI, LIK and ADDPC (R73 to R78). -/

namespace Sys2Proof.Machine

/-- 1 or 0. -/
def boolWord (b : Bool) : Word := if b then 1 else 0
/-- The shift amount B[5:0] (R73). -/
def shiftOf (b : Word) : Nat := b.toNat % 64

/-- Signed quotient (Table 3.11). -/
def divS (a b : Word) : Word :=
  if b = 0 then BitVec.allOnes 64 else BitVec.ofInt 64 (a.toInt.tdiv b.toInt)
/-- Unsigned quotient (Table 3.11). -/
def divU (a b : Word) : Word := if b = 0 then BitVec.allOnes 64 else BitVec.ofNat 64 (a.toNat / b.toNat)
/-- Signed remainder (Table 3.11). -/
def remS (a b : Word) : Word := if b = 0 then a else BitVec.ofInt 64 (a.toInt.tmod b.toInt)
/-- Unsigned remainder (Table 3.11). -/
def remU (a b : Word) : Word := if b = 0 then a else BitVec.ofNat 64 (a.toNat % b.toNat)

/-- The position B[5:0] of a bit field (Table 3.10). -/
def fieldPos (b : Word) : Nat := b.toNat % 64
/-- The length B[13:8] of a bit field, where 0 means 64 (Table 3.10). -/
def fieldLen (b : Word) : Nat :=
  let n := b.toNat / 256 % 64
  if n = 0 then 64 else n

/-- Leading zeros of the low `n` bits of `x`. -/
def leadingZeros (x : Nat) : Nat → Nat
  | 0 => 0
  | n + 1 => if x.testBit n then 0 else leadingZeros x n + 1
/-- Trailing zeros of the bits of `x` from bit `i` up, at most `n`. -/
def trailingZeros (x : Nat) : Nat → Nat → Nat
  | 0, _ => 0
  | n + 1, i => if x.testBit i then 0 else trailingZeros x n (i + 1) + 1
/-- Set bits among the low `n` bits of `x`. -/
def countOnes (x : Nat) : Nat → Nat
  | 0 => 0
  | n + 1 => countOnes x n + (if x.testBit n then 1 else 0)

/-- BEXT (Table 3.10). -/
def bextWord (a b : Word) : Word := BitVec.ofNat 64 (a.toNat / 2 ^ fieldPos b % 2 ^ fieldLen b)
/-- BINS into `old` (Table 3.10). -/
def binsWord (old a b : Word) : Word :=
  let m : Word := BitVec.ofNat 64 ((2 ^ fieldLen b - 1) * 2 ^ fieldPos b)
  (old &&& ~~~m) ||| ((a <<< fieldPos b) &&& m)

/-- A scalar instruction with no trap writes its result to x[d] and completes. -/
def State.writeX (s : State) (d : Reg) (v : Word) : Out := s.finish (fun h => h.setX d v)
/-- A two-operand ALU instruction. -/
def State.alu (s : State) (d a b : Reg) (f : Word → Word → Word) : Out := s.writeX d (f (s.me.xr a) (s.me.xr b))

/-- ADD: A + B. -/
def execAdd (d a b : Reg) (s : State) : Out := s.alu d a b (fun a b => a + b)
/-- SUB: A - B. -/
def execSub (d a b : Reg) (s : State) : Out := s.alu d a b (fun a b => a - b)
/-- AND. -/
def execAnd (d a b : Reg) (s : State) : Out := s.alu d a b (fun a b => a &&& b)
/-- OR. -/
def execOr (d a b : Reg) (s : State) : Out := s.alu d a b (fun a b => a ||| b)
/-- XOR. -/
def execXor (d a b : Reg) (s : State) : Out := s.alu d a b (fun a b => a ^^^ b)
/-- NOR. -/
def execNor (d a b : Reg) (s : State) : Out := s.alu d a b (fun a b => ~~~(a ||| b))
/-- SLL: A × 2^s. -/
def execSll (d a b : Reg) (s : State) : Out := s.alu d a b (fun a b => a <<< shiftOf b)
/-- SRL: floor(A / 2^s). -/
def execSrl (d a b : Reg) (s : State) : Out := s.alu d a b (fun a b => a >>> shiftOf b)
/-- SRA: floor(sA / 2^s). -/
def execSra (d a b : Reg) (s : State) : Out := s.alu d a b (fun a b => a.sshiftRight (shiftOf b))
/-- ROL: A rotated left by s. -/
def execRol (d a b : Reg) (s : State) : Out := s.alu d a b (fun a b => a.rotateLeft (shiftOf b))
/-- ROR: A rotated right by s. -/
def execRor (d a b : Reg) (s : State) : Out := s.alu d a b (fun a b => a.rotateRight (shiftOf b))
/-- SLT. -/
def execSlt (d a b : Reg) (s : State) : Out := s.alu d a b (fun a b => boolWord (a.slt b))
/-- SLTU. -/
def execSltu (d a b : Reg) (s : State) : Out := s.alu d a b (fun a b => boolWord (a.ult b))
/-- MIN. -/
def execMin (d a b : Reg) (s : State) : Out := s.alu d a b (fun a b => if a.slt b then a else b)
/-- MAX. -/
def execMax (d a b : Reg) (s : State) : Out := s.alu d a b (fun a b => if a.slt b then b else a)
/-- MINU. -/
def execMinu (d a b : Reg) (s : State) : Out := s.alu d a b (fun a b => if a.ult b then a else b)
/-- MAXU. -/
def execMaxu (d a b : Reg) (s : State) : Out := s.alu d a b (fun a b => if a.ult b then b else a)
/-- MUL: the low 64 bits of the product. -/
def execMul (d a b : Reg) (s : State) : Out := s.alu d a b (fun a b => a * b)
/-- MULH: floor(sA × sB / 2^64). -/
def execMulh (d a b : Reg) (s : State) : Out := s.alu d a b (fun a b => BitVec.ofInt 64 (a.toInt * b.toInt / 2 ^ 64))
/-- MULHU: floor(A × B / 2^64). -/
def execMulhu (d a b : Reg) (s : State) : Out := s.alu d a b (fun a b => BitVec.ofNat 64 (a.toNat * b.toNat / 2 ^ 64))
/-- DIV (R74). -/
def execDiv (d a b : Reg) (s : State) : Out := s.alu d a b (fun a b => divS a b)
/-- DIVU (R74). -/
def execDivu (d a b : Reg) (s : State) : Out := s.alu d a b (fun a b => divU a b)
/-- REM (R74). -/
def execRem (d a b : Reg) (s : State) : Out := s.alu d a b (fun a b => remS a b)
/-- REMU (R74). -/
def execRemu (d a b : Reg) (s : State) : Out := s.alu d a b (fun a b => remU a b)
/-- CLZ. -/
def execClz (d a : Reg) (s : State) : Out := s.writeX d (BitVec.ofNat 64 (leadingZeros (s.me.xr a).toNat 64))
/-- CTZ. -/
def execCtz (d a : Reg) (s : State) : Out := s.writeX d (BitVec.ofNat 64 (trailingZeros (s.me.xr a).toNat 64 0))
/-- POPC. -/
def execPopc (d a : Reg) (s : State) : Out := s.writeX d (BitVec.ofNat 64 (countOnes (s.me.xr a).toNat 64))
/-- BEXT. -/
def execBext (d a b : Reg) (s : State) : Out := s.alu d a b bextWord
/-- BINS: x[d] is a source too. -/
def execBins (d a b : Reg) (s : State) : Out := s.alu d a b (fun x y => binsWord (s.me.xr d) x y)

/-- ADDI (R75). -/
def execAddi (d a : Reg) (imm : BitVec 16) (s : State) : Out := s.writeX d (s.me.xr a + imm.signExtend 64)
/-- ANDI. -/
def execAndi (d a : Reg) (imm : BitVec 16) (s : State) : Out := s.writeX d (s.me.xr a &&& imm.setWidth 64)
/-- ORI. -/
def execOri (d a : Reg) (imm : BitVec 16) (s : State) : Out := s.writeX d (s.me.xr a ||| imm.setWidth 64)
/-- XORI. -/
def execXori (d a : Reg) (imm : BitVec 16) (s : State) : Out := s.writeX d (s.me.xr a ^^^ imm.setWidth 64)
/-- SLTI. -/
def execSlti (d a : Reg) (imm : BitVec 16) (s : State) : Out :=
  s.writeX d (boolWord ((s.me.xr a).slt (imm.signExtend 64)))
/-- SLTIU. -/
def execSltiu (d a : Reg) (imm : BitVec 16) (s : State) : Out :=
  s.writeX d (boolWord ((s.me.xr a).ult (imm.signExtend 64)))

/-- SLLI (R76). -/
def execSlli (d a : Reg) (n : BitVec 6) (s : State) : Out := s.writeX d (s.me.xr a <<< n.toNat)
/-- SRLI. -/
def execSrli (d a : Reg) (n : BitVec 6) (s : State) : Out := s.writeX d (s.me.xr a >>> n.toNat)
/-- SRAI. -/
def execSrai (d a : Reg) (n : BitVec 6) (s : State) : Out := s.writeX d ((s.me.xr a).sshiftRight n.toNat)
/-- RORI. -/
def execRori (d a : Reg) (n : BitVec 6) (s : State) : Out := s.writeX d ((s.me.xr a).rotateRight n.toNat)

/-- LI (R77). -/
def execLi (d : Reg) (sh : BitVec 2) (imm : BitVec 16) (s : State) : Out :=
  s.writeX d (imm.setWidth 64 <<< (16 * sh.toNat))
/-- LIK: one 16-bit field of x[d] is replaced (R77). -/
def execLik (d : Reg) (sh : BitVec 2) (imm : BitVec 16) (s : State) : Out :=
  let m : Word := (0xFFFF : Word) <<< (16 * sh.toNat)
  s.writeX d ((s.me.xr d &&& ~~~m) ||| (imm.setWidth 64 <<< (16 * sh.toNat)))
/-- ADDPC (R78). -/
def execAddpc (d : Reg) (off : BitVec 21) (s : State) : Out := s.writeX d (s.me.pc + 4096 * off.signExtend 64)

end Sys2Proof.Machine
end

