-- ==== Sys2Proof/Machine/LoadStore.lean ====
section
/-! DEFINITION. Scalar loads and stores (R86, R87). -/

namespace Sys2Proof.Machine

/-- The effective address x[a] + sext(imm13, 13) (R86). -/
def State.ea (s : State) (a : Reg) (imm : BitVec 13) : Word := s.me.xr a + imm.signExtend 64
/-- A little-endian value of n bytes, sign-extended. -/
def sextBytes (n v : Nat) : Word := (BitVec.ofNat (8 * n) v).signExtend 64
/-- A binary32 pattern as an f register holds it (R61). -/
def boxed (v : Nat) : Word := BitVec.ofNat 64 (0xFFFFFFFF00000000 + v % 2 ^ 32)

/-- A load of n bytes into x[d]. -/
def State.loadX (s : State) (n : Nat) (signed : Bool) (d a : Reg) (imm : BitVec 13) (w : BitVec 32) : Out :=
  s.load n (s.ea a imm) w (fun t v => t.writeX d (if signed then sextBytes n v else BitVec.ofNat 64 v))

/-- LDB. -/
def execLdb (d a : Reg) (imm : BitVec 13) (s : State) : Out :=
  s.loadX 1 true d a imm (packM13 0x1A d a 0 imm)
/-- LDH. -/
def execLdh (d a : Reg) (imm : BitVec 13) (s : State) : Out :=
  s.loadX 2 true d a imm (packM13 0x1A d a 1 imm)
/-- LDW. -/
def execLdw (d a : Reg) (imm : BitVec 13) (s : State) : Out :=
  s.loadX 4 true d a imm (packM13 0x1A d a 2 imm)
/-- LDD. -/
def execLdd (d a : Reg) (imm : BitVec 13) (s : State) : Out :=
  s.loadX 8 true d a imm (packM13 0x1A d a 3 imm)
/-- LDBU. -/
def execLdbu (d a : Reg) (imm : BitVec 13) (s : State) : Out :=
  s.loadX 1 false d a imm (packM13 0x1A d a 4 imm)
/-- LDHU. -/
def execLdhu (d a : Reg) (imm : BitVec 13) (s : State) : Out :=
  s.loadX 2 false d a imm (packM13 0x1A d a 5 imm)
/-- LDWU. -/
def execLdwu (d a : Reg) (imm : BitVec 13) (s : State) : Out :=
  s.loadX 4 false d a imm (packM13 0x1A d a 6 imm)
/-- STB: the low bytes of x[c]. -/
def execStb (c a : Reg) (imm : BitVec 13) (s : State) : Out :=
  s.store 1 (s.ea a imm) (s.me.xr c).toNat (packM13 0x1B c a 0 imm)
/-- STH: the low bytes of x[c]. -/
def execSth (c a : Reg) (imm : BitVec 13) (s : State) : Out :=
  s.store 2 (s.ea a imm) (s.me.xr c).toNat (packM13 0x1B c a 1 imm)
/-- STW: the low bytes of x[c]. -/
def execStw (c a : Reg) (imm : BitVec 13) (s : State) : Out :=
  s.store 4 (s.ea a imm) (s.me.xr c).toNat (packM13 0x1B c a 2 imm)
/-- STD: the low bytes of x[c]. -/
def execStd (c a : Reg) (imm : BitVec 13) (s : State) : Out :=
  s.store 8 (s.ea a imm) (s.me.xr c).toNat (packM13 0x1B c a 3 imm)
/-- FLW: the word boxed. -/
def execFlw (d a : Reg) (imm : BitVec 13) (s : State) : Out :=
  s.load 4 (s.ea a imm) (packM13 0x1E d a 0 imm) (fun t v => t.finish (fun h => h.setF d (boxed v)))
/-- FLD. -/
def execFld (d a : Reg) (imm : BitVec 13) (s : State) : Out :=
  s.load 8 (s.ea a imm) (packM13 0x1E d a 1 imm) (fun t v => t.finish (fun h => h.setF d (BitVec.ofNat 64 v)))
/-- FSW: f[c][31:0]. -/
def execFsw (c a : Reg) (imm : BitVec 13) (s : State) : Out :=
  s.store 4 (s.ea a imm) (s.me.fr c).toNat (packM13 0x1E c a 2 imm)
/-- FSD. -/
def execFsd (c a : Reg) (imm : BitVec 13) (s : State) : Out :=
  s.store 8 (s.ea a imm) (s.me.fr c).toNat (packM13 0x1E c a 3 imm)

end Sys2Proof.Machine
end

