-- ==== Sys2Proof/Machine/Amo.lean ====
section
/-! DEFINITION. The scalar atomics (R245 to R248). -/

namespace Sys2Proof.Machine

/-- The bytes an AMO width moves. -/
def amoBytes : AmoWidth → Nat
  | .w => 4 | .d => 8

/-- The new value of an AMO on n bits: `old` and `s` are below 2^n, `c` is the compare value (R246). -/
def amoNew (op : AmoOp) (n old s c : Nat) : Nat :=
  let so := (BitVec.ofNat n old).toInt
  let ss := (BitVec.ofNat n s).toInt
  match op with
  | .add => (old + s) % 2 ^ n
  | .and => old &&& s
  | .or => old ||| s
  | .xor => old ^^^ s
  | .min => if so < ss then old else s
  | .max => if so < ss then s else old
  | .minu => min old s
  | .maxu => max old s
  | .swap => s
  | .cas => if old = c % 2 ^ n then s else old

/-- Whether an AMO writes: amocas does not when the values differ (R246). -/
def amoWrites (op : AmoOp) (n old c : Nat) : Bool :=
  match op with
  | .cas => old == c % 2 ^ n
  | _ => true

/-- The word of an AMO (Table 2.3). -/
def amoWord (op : BitVec 4) (d a b : Reg) (wd : AmoWidth) (sc : Scope) (o : Order) : BitVec 32 :=
  packR 0x1C d a b ((0 : BitVec 2) ++ wd.bits ++ sc.bits ++ o.bits ++ op)

/-- A release at a scope is met: at .h and .c by every write of the hart, at .p and .s once its writes are home (R228,
R232). -/
def State.released (s : State) (sc : Scope) : Bool :=
  match sc with
  | .h | .c => true
  | .p | .s => s.quiet s.cur

/-- Whether an order makes the AMO a release (R247). -/
def isRelease : Order → Bool
  | .rel | .ar => true
  | .none | .acq => false

/-- A queued write of the hart's core shares a line with the places: it reaches the home first (R229, R230). -/
def State.queuedAt (s : State) (pas : List Nat) : Bool :=
  (s.core (coreOf s.cur)).queue.any (fun q => q.bytes.any (fun b => pas.any (fun a => a / 128 == b.pa / 128)))

/-- The executing hart's request has reached the home of one of the places: it waits there for a locked line (R252). -/
def State.atHome (s : State) (pas : List Nat) : Bool :=
  s.locks.any (fun l => l.waiting.contains s.cur && pas.any (fun a => a / 128 == l.line))

/-- An AMO whose places are known performs at its home in one indivisible step (R246). -/
def State.amoPerform (s : State) (op : AmoOp) (d : Reg) (wd : AmoWidth) (src cmp : Word) (ps : List Place) : Out :=
  let n := 8 * amoBytes wd
  let pas := ps.map (fun p => p.pa)
  let s := s.usePages (coreOf s.cur) ps
  let old := leNat (pas.map (fun p => memGet s.mem p))
  let new := amoNew op n old (src.toNat % 2 ^ n) cmp.toNat
  let ws := (pas.zip (leBytes (amoBytes wd) new)).map (fun p => ({ pa := p.1, val := p.2, mask := 0xFF } : ByteWrite))
  let s := if amoWrites op n old cmp.toNat then s.home ws else s
  s.writeX d (sextBytes (amoBytes wd) old)

/-- An AMO (R246 to R248): the checks in order, the wait of a release and for the core's earlier writes of its line, then
the atomic step. -/
def State.amo (s : State) (op : AmoOp) (word : BitVec 32) (d a b : Reg) (wd : AmoWidth) (sc : Scope) (o : Order) : Out :=
  let n := amoBytes wd
  let ea := s.me.xr a
  if s.inBelay s.cur then s.trap Cause.belayForbidden (wordVal word)
  else if 2 ^ 48 ≤ ea.toNat ∨ 2 ^ 48 ≤ (ea + BitVec.ofNat 64 (n - 1)).toNat then s.trap Cause.addrNoncanon ea
  else if ea.toNat % n ≠ 0 then s.trap Cause.misalignedData ea
  else
    match s.locateAll (s.ctx s.cur) .write .never ea n with
    | .error (.trap c v) => s.trap c (accessVal c v ea)
    | .error e => e.out s
    | .ok ps =>
      match s.belayCheck s.cur .write word ps with
      | some e => e.out s
      | none =>
        let pas := ps.map (fun p => p.pa)
        if !s.atHome pas && (isRelease o && !s.released sc || s.queuedAt pas || s.fencePending) then s.waitQuiet
        else
          match s.lockCheck s.cur ps with
          | some e => e.out s
          | none =>
            match (if s.clean then none else pas.findSome? (s.spoiled [])) with
            | some e => e.out s
            | none =>
              let src := s.me.xr b
              let cmp := s.me.xr d
              match s.remoteGate .write ps (.amo (pas.headD 0) op wd src cmp) with
              | .error e => e.out s
              | .ok (some r) => s.endRemote.writeX d (sextBytes n (leNat (r.take n)))
              | .ok none => s.amoPerform op d wd src cmp ps

/-- AMOADD. -/
def execAmoadd (d a b : Reg) (wd : AmoWidth) (sc : Scope) (o : Order) (s : State) : Out :=
  s.amo .add (amoWord 0 d a b wd sc o) d a b wd sc o
/-- AMOAND. -/
def execAmoand (d a b : Reg) (wd : AmoWidth) (sc : Scope) (o : Order) (s : State) : Out :=
  s.amo .and (amoWord 1 d a b wd sc o) d a b wd sc o
/-- AMOOR. -/
def execAmoor (d a b : Reg) (wd : AmoWidth) (sc : Scope) (o : Order) (s : State) : Out :=
  s.amo .or (amoWord 2 d a b wd sc o) d a b wd sc o
/-- AMOXOR. -/
def execAmoxor (d a b : Reg) (wd : AmoWidth) (sc : Scope) (o : Order) (s : State) : Out :=
  s.amo .xor (amoWord 3 d a b wd sc o) d a b wd sc o
/-- AMOMIN. -/
def execAmomin (d a b : Reg) (wd : AmoWidth) (sc : Scope) (o : Order) (s : State) : Out :=
  s.amo .min (amoWord 4 d a b wd sc o) d a b wd sc o
/-- AMOMAX. -/
def execAmomax (d a b : Reg) (wd : AmoWidth) (sc : Scope) (o : Order) (s : State) : Out :=
  s.amo .max (amoWord 5 d a b wd sc o) d a b wd sc o
/-- AMOMINU. -/
def execAmominu (d a b : Reg) (wd : AmoWidth) (sc : Scope) (o : Order) (s : State) : Out :=
  s.amo .minu (amoWord 6 d a b wd sc o) d a b wd sc o
/-- AMOMAXU. -/
def execAmomaxu (d a b : Reg) (wd : AmoWidth) (sc : Scope) (o : Order) (s : State) : Out :=
  s.amo .maxu (amoWord 7 d a b wd sc o) d a b wd sc o
/-- AMOSWAP. -/
def execAmoswap (d a b : Reg) (wd : AmoWidth) (sc : Scope) (o : Order) (s : State) : Out :=
  s.amo .swap (amoWord 8 d a b wd sc o) d a b wd sc o
/-- AMOCAS. -/
def execAmocas (d a b : Reg) (wd : AmoWidth) (sc : Scope) (o : Order) (s : State) : Out :=
  s.amo .cas (amoWord 9 d a b wd sc o) d a b wd sc o

end Sys2Proof.Machine
end

