-- ==== Sys2Proof/Machine/Csr.lean ====
section
/-! DEFINITION. Control registers and the CSR instructions (R65 to R72), and the writes of tcinv (R200). -/

namespace Sys2Proof.Machine

/-! ### Reading -/

/-- NZP: which planes of a register hold a 1 (Table 4.1, R107). -/
def VReg.nzp (v : VReg) : BitVec 16 :=
  BitVec.ofNat 16 ((List.finRange 16).foldl (fun n p => if v.planes.get p = 0 then n else n + 2 ^ p.val) 0)

/-- vdescn (Table 4.1). -/
def VReg.word (v : VReg) : Word :=
  v.nzp ++ v.desc.borg ++ v.desc.gsz ++ boolBit v.desc.dirty ++ v.desc.kind ++ v.desc.width ++ v.desc.gpos ++
    v.desc.prog ++ v.desc.vlen

/-- qdescn (Table 6.5). -/
def QReg.word (q : QReg) : Word :=
  (0 : BitVec 16) ++ q.org ++ (0 : BitVec 3) ++ q.fmt ++ (0 : BitVec 6) ++ (5 : BitVec 6) ++ (0 : BitVec 5) ++ q.nblk

/-- pfxst (Table 2.8). -/
def Pfxst.word (p : Pfxst) : Word :=
  (0 : BitVec 30) ++ boolBit p.pend ++ boolBit p.c ++ (1 : BitVec 6) ++ p.p ++ p.neg ++ p.cp ++ p.d2 ++ (0 : BitVec 14)

/-- satcnt (Table 6.4). -/
def Hart.satWord (h : Hart) : Word := boolBit h.satEvp ++ (0 : BitVec 31) ++ h.satCount

/-- lcnt of an entry; LD is in lcnt0 (Table 3.9). -/
def Hart.lcntWord (h : Hart) (t : Fin 2) : Word :=
  h.lrem.get t ++ (0 : BitVec 14) ++ (if t = 0 then h.ld else 0) ++ h.llen.get t

/-- feat (Table 3.6). -/
def featWord (p : Part) : Word :=
  (0 : BitVec 16) ++ Config.stepping ++ BitVec.ofNat 8 (Config.ports p) ++ BitVec.ofNat 8 (Config.cores p) ++
    (if p = .p8810 then (1 : BitVec 4) else 0) ++ (0 : BitVec 4) ++ boolBit (Config.hasWeave p) ++
    boolBit (Config.hasFab p) ++ BitVec.ofNat 14 (Config.partNumber p)

/-- A control register as hart h reads it (Table 3.4). -/
def State.csr (s : State) (h : HartId) (n : Nat) : Word :=
  let x := s.hart h
  match n with
  | 0x000 => x.vl.setWidth 64
  | 0x001 => x.vstart.setWidth 64
  | 0x002 => x.vtype.setWidth 64
  | 0x003 => x.mfmt.setWidth 64
  | 0x004 => x.avl
  | 0x005 => x.sidx
  | 0x006 => x.tshape
  | 0x007 => x.zcfg.setWidth 64
  | 0x008 => x.satWord
  | 0x009 => x.satthr.setWidth 64
  | 0x00A => x.fflags.setWidth 64
  | 0x010 => x.lbeg.get 0
  | 0x011 => x.lcntWord 0
  | 0x012 => x.lbeg.get 1
  | 0x013 => x.lcntWord 1
  | 0x020 => BitVec.ofNat 64 h.val
  | 0x021 => BitVec.ofNat 64 (coreOf h).val
  | 0x022 => (s.core (coreOf h)).cycle
  | 0x023 => x.alarm
  | 0x024 => featWord s.part
  | 0x200 => x.sr.setWidth 64
  | 0x201 => x.cause.setWidth 64
  | 0x202 => x.epc
  | 0x203 => x.tval
  | 0x204 => x.tvec
  | 0x205 => x.asid.setWidth 64
  | 0x206 => x.ptbase
  | 0x207 => x.hscratch
  | 0x208 => x.pfxst.word
  | n =>
    if 0x040 ≤ n ∧ n < 0x060 then (x.vr (BitVec.ofNat 5 n)).word
    else if 0x060 ≤ n ∧ n < 0x080 then (x.qr (BitVec.ofNat 5 n)).word
    else 0

/-! ### Writing -/

/-- Table 4.3: the widths a floating or MX kind fixes, as the value of each width field, and its IG. -/
def kindWidth (k : Nat) : Option (Nat × Nat) :=
  match k with
  | 2 | 3 => some (15, 0)
  | 4 => some (15, 1)
  | 5 => some (15, 2)
  | 6 | 7 | 11 => some (7, 0)
  | 8 | 9 => some (5, 0)
  | 10 => some (3, 0)
  | _ => none

/-- Whether the fields of vtype [19:0] form a combination that Table 4.3 allows (R110). -/
def vtypeValid (v : BitVec 20) : Bool :=
  let n := v.toNat
  let ig := n / 2 ^ 18
  let kind := n / 2 ^ 12 % 16
  if kind < 2 then ig != 3
  else
    match kindWidth kind with
    | some (w, g) => ig == g && n / 256 % 16 == w && n / 16 % 16 == w && n % 16 == w
    | none => false

/-- vtype with VILL as its fields say (R110). -/
def vtypeOf (v : BitVec 20) : BitVec 21 := boolBit (!vtypeValid v) ++ v

/-- The RW fields of pfxst from a written value (Table 2.8). -/
def pfxstOf (v : Word) : Pfxst :=
  { pend := v.getLsbD 33, c := v.getLsbD 32, p := v.extractLsb' 21 5, neg := v.extractLsb' 20 1,
    cp := v.extractLsb' 19 1, d2 := v.extractLsb' 14 5 }

/-- A written loop count: REM, LEN and, in lcnt0, LD unless it is 0b11 (Table 3.9). -/
def Hart.putLcnt (h : Hart) (t : Fin 2) (v : Word) : Hart :=
  let ld : BitVec 2 := v.extractLsb' 16 2
  { h with
    lrem := h.lrem.set t.val (v.extractLsb' 32 32) t.isLt
    llen := h.llen.set t.val (v.extractLsb' 0 16) t.isLt
    ld := if t = 0 ∧ ld ≠ 3 then ld else h.ld }

/-- status with its RW fields written; MODE is read-only (Table 3.5). -/
def srWrite (old : BitVec 16) (v : Word) : BitVec 16 :=
  (old &&& 0x0001) ||| (v.setWidth 16 &&& 0xC71E)

/-- A hart's registers after a write of control register n: fields that are not RW keep their value (R7, R8, R72). -/
def Hart.csrPut (h : Hart) (n : Nat) (v : Word) : Hart :=
  match n with
  | 0x001 => { h with vstart := v.setWidth 15 }
  | 0x002 => { h with vtype := vtypeOf (v.setWidth 20) }
  | 0x003 => { h with mfmt := v.setWidth 2 }
  | 0x004 => { h with avl := v }
  | 0x005 => { h with sidx := v }
  | 0x008 => { h with satCount := v.setWidth 32, satEvp := h.satEvp && !v.getLsbD 63 }
  | 0x009 => { h with satthr := v.setWidth 32 }
  | 0x00A => { h with fflags := v.setWidth 13 &&& 0x1F1F }
  | 0x010 => { h with lbeg := h.lbeg.set 0 v }
  | 0x011 => h.putLcnt 0 v
  | 0x012 => { h with lbeg := h.lbeg.set 1 v }
  | 0x013 => h.putLcnt 1 v
  | 0x023 => { h with alarm := v }
  | 0x200 => { h with sr := srWrite h.sr v }
  | 0x201 => { h with cause := v.setWidth 7 }
  | 0x202 => { h with epc := v }
  | 0x203 => { h with tval := v }
  | 0x204 => { h with tvec := v &&& 0x0000FFFFFFFFFFFC }
  | 0x205 => { h with asid := v.setWidth 16 }
  | 0x206 => { h with ptbase := v &&& 0x000FFFFFFFFF8000 }
  | 0x207 => { h with hscratch := v }
  | 0x208 => { h with pfxst := pfxstOf v }
  | _ => h

/-- A hart that runs with LW = 1 is the last to have done so on its core (R191). -/
def State.noteWindow (s : State) (h : HartId) : State :=
  let x := s.hart h
  if x.lw then s.modCore (coreOf h) (fun c => { c with lwAsid := some x.asid }) else s

/-! ### tcinv (R200, Table 7.5) -/

/-- Which translations a write of tcinv removes: those of one page for an address space, global and 128 MiB ones included
(mode 00), the non-global ones of an address space (mode 01), or all (mode 10). -/
inductive TcSel where
  | page (asid : BitVec 16) (vpn : BitVec 33)
  | space (asid : BitVec 16)
  | all
  deriving DecidableEq, Repr

/-- A translation with a tag, global or not, small or of 128 MiB, of a page, is selected. -/
def TcSel.takes (f : TcSel) (asid : BitVec 16) (glob big : Bool) (vpn : Nat) : Bool :=
  match f with
  | .page a v => (glob || asid == a) && (if big then vpn / 4096 == v.toNat / 4096 else vpn == v.toNat)
  | .space a => asid == a && !glob
  | .all => true

/-- The translation caches of the module without the entries that are selected. -/
def State.dropEntries (s : State) (f : TcSel) : State :=
  { s with cores := s.cores.map (fun c =>
      { c with tcache := c.tcache.filter (fun t => !f.takes t.asid (t.pte.getLsbD 5) t.big t.vpn.toNat) }) }

/-- A translation that an instruction has taken is selected. -/
def TcSel.takesPin (f : TcSel) (m : PageMap) : Bool := m.fail.isNone && f.takes m.asid m.glob m.big m.vpn

/-- An instruction that has not finished its accesses has taken a translation that is selected: a copy in flight, or a
hart that waits at another module (R200). -/
def State.inUse (s : State) (f : TcSel) : Bool :=
  s.cores.any (fun c => c.copies.any (fun k => k.pages.any f.takesPin)) || s.harts.any (fun h => h.pins.any f.takesPin)

/-- A tcinv write completes once every earlier store of the hart is visible at system scope, the entries are gone, and no
instruction has accesses to make by a translation that is removed (R200). -/
def State.tcinv (s : State) (f : TcSel) (d : Option Reg) : Out :=
  if !s.quiet s.cur then s.waitQuiet
  else if s.inUse f then (s.dropEntries f).hold
  else (s.dropEntries f).finish (fun h => match d with
    | some r => h.setX r 0
    | none => h)

/-- TCINV_PAGE: the hart's write of mode 00. -/
def execTcinvPage (asid : BitVec 16) (vpn : BitVec 33) (s : State) : Out := s.tcinv (.page asid vpn) none
/-- TCINV_ASID: the hart's write of mode 01. -/
def execTcinvAsid (asid : BitVec 16) (s : State) : Out := s.tcinv (.space asid) none
/-- TCINV_ALL: the hart's write of mode 10. -/
def execTcinvAll (s : State) : Out := s.tcinv .all none
/-- TCINV_NO_ACTION: mode 11 has no effect. -/
def execTcinvNoAction (s : State) : Out := s.done

/-- A write of tcinv by its mode, with the register a CSRRW answers 0 in. -/
def State.tcinvWrite (s : State) (v : Word) (d : Option Reg) : Out :=
  let asid : BitVec 16 := v.extractLsb' 48 16
  match v.toNat % 4 with
  | 0 => s.tcinv (.page asid (v.extractLsb' 15 33)) d
  | 1 => s.tcinv (.space asid) d
  | 2 => s.tcinv .all d
  | _ => s.finish (fun h => match d with
    | some r => h.setX r 0
    | none => h)

/-! ### The CSR instructions -/

/-- The executing hart writes `v` to control register n, and `d` receives the old value (R72). A write of pfxst takes
effect before a live copying prefix copies the old value by the new CP and D2 (log 75). -/
def State.csrWrite (s : State) (n : BitVec 12) (v : Word) (d : Option Reg) : Out :=
  if n.toNat = 0x110 then s.tcinvWrite v d
  else
    let old := s.csr s.cur n.toNat
    let h := s.me.csrPut n.toNat v
    let h := match d with
      | some r => h.setX r old
      | none => h
    .next (s.setMe h.advance)

/-- CSRR. -/
def execCsrr (d : Reg) (n : BitVec 12) (s : State) : Out := s.writeX d (s.csr s.cur n.toNat)
/-- CSRW. -/
def execCsrw (a : Reg) (n : BitVec 12) (s : State) : Out := s.csrWrite n (s.me.xr a) none
/-- CSRS. -/
def execCsrs (a : Reg) (n : BitVec 12) (s : State) : Out := s.csrWrite n (s.csr s.cur n.toNat ||| s.me.xr a) none
/-- CSRC. -/
def execCsrc (a : Reg) (n : BitVec 12) (s : State) : Out := s.csrWrite n (s.csr s.cur n.toNat &&& ~~~(s.me.xr a)) none
/-- CSRRW. -/
def execCsrrw (d a : Reg) (n : BitVec 12) (s : State) : Out := s.csrWrite n (s.me.xr a) (some d)

end Sys2Proof.Machine
end

