-- ==== Sys2Proof/Machine/Operands.lean ====
section
/-! DEFINITION. The operand forms of vector instructions: vtype (R109), groups and planes (R103), reading at a width
(R111), writing with extension and saturation (R112, R113), active elements (R117), the run-time checks (R119, R41), the
descriptors of a written group (R107) and the outcome of an uncorrectable plane row (R131). -/

namespace Sys2Proof.Machine

/-! ### vtype (Table 4.2) -/

/-- The fields of vtype. Widths are in bits. -/
structure VT where
  ill : Bool
  ig : Nat
  sat : Bool
  mz : Bool
  kind : BitVec 4
  wb : Nat
  wa : Nat
  wd : Nat
  deriving DecidableEq, Repr

/-- vtype as an instruction takes it at issue. -/
def Hart.vt (h : Hart) : VT :=
  let n := h.vtype.toNat
  let ig := n / 2 ^ 18 % 4
  { ill := h.vtype.getLsbD 20, ig := ig, sat := h.vtype.getLsbD 17, mz := h.vtype.getLsbD 16,
    kind := BitVec.ofNat 4 (n / 2 ^ 12), wb := (n / 256 % 16 + 1) * 2 ^ ig, wa := (n / 16 % 16 + 1) * 2 ^ ig,
    wd := (n % 16 + 1) * 2 ^ ig }

/-- Registers of a group. -/
def VT.regs (t : VT) : Nat := 2 ^ t.ig
/-- Planes of a group. -/
def VT.planes (t : VT) : Nat := 16 * 2 ^ t.ig
/-- KIND is SINT. -/
def VT.signed (t : VT) : Bool := t.kind == 0
/-- KIND is SINT or UINT. -/
def VT.isInt (t : VT) : Bool := t.kind.toNat < 2
/-- KIND is BF16, FP16, FP32 or FP64. -/
def VT.isFp (t : VT) : Bool := 2 ≤ t.kind.toNat && t.kind.toNat ≤ 5
/-- A kind code names an MX element kind. -/
def isMxKind (k : BitVec 4) : Bool := 6 ≤ k.toNat && k.toNat ≤ 11

/-! ### Elements -/

/-- The register at an offset in a group. -/
def regAt (n : Reg) (j : Nat) : Reg := n + BitVec.ofNat 5 j

/-- Plane p of element i of group n (R103). -/
def Hart.bit (h : Hart) (n : Reg) (p i : Nat) : Bool :=
  ((h.vr (regAt n (p / 16))).planes.get (Fin.ofNat 16 p)).getLsbD i

/-- Planes w − 1 … 0 of element i of group n, as an unsigned number. -/
def Hart.pat (h : Hart) (n : Reg) (i : Nat) : Nat → Nat
  | 0 => 0
  | w + 1 => h.pat n i w + (if h.bit n w i then 2 ^ w else 0)

/-- The value of a w-bit pattern (R160). -/
def extPat (signed : Bool) (u w : Nat) : Int := if signed && u.testBit (w - 1) then (u : Int) - 2 ^ w else u

/-- rd(n, i, w) (R111). -/
def Hart.rd (h : Hart) (t : VT) (n : Reg) (i w : Nat) : Int := extPat t.signed (h.pat n i w) w

/-- A mask or plane row with one bit set to b. -/
def setBit (x : Plane) (i : Nat) (b : Bool) : Plane :=
  let one : Plane := BitVec.twoPow 32768 i
  if b then x ||| one else x &&& ~~~one

/-- A register with element i replaced: plane p takes bit p of u. -/
def VReg.putBits (v : VReg) (i u : Nat) : VReg :=
  { v with planes := Vector.ofFn (fun p : Fin 16 => setBit (v.planes.get p) i (u.testBit p.val)) }

/-- Element i of the registers n, n + 1, … of a group replaced; register j takes planes 16j and up of u. -/
def Hart.putElem (h : Hart) (n : Reg) (i u : Nat) : Nat → Hart
  | 0 => h
  | j + 1 =>
    let h := h.putElem n i u j
    h.putV (regAt n j) ((h.vr (regAt n j)).putBits i (u / 2 ^ (16 * j)))

/-- The pattern of a result in all planes of its group: extended above wd by its top bit for SINT (R112). -/
def VT.spread (t : VT) (u : Nat) : Nat :=
  if t.signed && u.testBit (t.wd - 1) then u + (2 ^ t.planes - 2 ^ t.wd) else u

/-- A pattern of the destination's width from an exact integer. -/
def VT.trunc (t : VT) (y : Int) : Nat := (y % 2 ^ t.wd).toNat

/-- lo(wd) (R112). -/
def VT.lo (t : VT) : Int := if t.signed then -(2 ^ (t.wd - 1)) else 0
/-- hi(wd). -/
def VT.hi (t : VT) : Int := if t.signed then 2 ^ (t.wd - 1) - 1 else 2 ^ t.wd - 1

/-- One element's result: its pattern in all planes, what it adds to satcnt and its exceptions. -/
structure Elem where
  pat : Nat
  count : Nat := 0
  exc : Exc := .none
  deriving DecidableEq, Repr

/-- wr of R112 of an exact integer. -/
def VT.wr (t : VT) (y : Int) (clampable : Bool) : Elem :=
  if t.sat && clampable && (decide (y < t.lo) || decide (y > t.hi)) then
    { pat := t.spread (t.trunc (if y < t.lo then t.lo else t.hi)), count := 1 }
  else { pat := t.spread (t.trunc y) }

/-- A pattern moved to the destination's width, as put of R143 and R129 move it. -/
def VT.put (t : VT) (u : Nat) : Elem := { pat := t.spread (u % 2 ^ t.wd) }

/-! ### Source b (R34, R111) -/

/-- The low wb bits of a scalar or immediate. -/
def lowBits (v : Word) (w : Nat) : Nat := v.toNat % 2 ^ w

/-- An immediate sext(vb, 5). -/
def immWord (i : BitVec 5) : Word := i.signExtend 64

/-- The wb-bit pattern of source b for element i. -/
def Hart.bpat (h : Hart) (t : VT) (b : BSrc) (i : Nat) : Nat :=
  match b with
  | .vec n => h.pat n i t.wb
  | .scalar r => lowBits (h.xr r) t.wb
  | .imm v => lowBits (immWord v) t.wb

/-- bval(i) (R111). -/
def Hart.bval (h : Hart) (t : VT) (b : BSrc) (i : Nat) : Int := extPat t.signed (h.bpat t b i) t.wb

/-- The vector register that source b names. -/
def bVec : BSrc → Option Reg
  | .vec n => some n
  | _ => none
/-- The vector register that source b names. -/
def vsVec : VsSrc → Option Reg
  | .vec n => some n
  | _ => none

/-! ### Body elements (R116, R117) -/

/-- The body elements: vstart to vl − 1. -/
def Hart.body (h : Hart) : List Nat := List.range' h.vstart.toNat (h.vl.toNat - h.vstart.toNat)

/-- Whether element i is active under field k, by the mask as the instruction sampled it (R117, R133). -/
def Hart.active (h : Hart) (k : KReg) (i : Nat) : Bool := k == 0 || (h.sampled k).getLsbD i

/-- What a vector instruction writes: patterns by element, the saturation count and the exceptions. -/
structure VecOut where
  writes : List (Nat × Nat)
  count : Nat
  exc : Exc
  deriving DecidableEq, Repr

/-- The results of elements, in order. -/
def collect (l : List (Nat × Elem)) : VecOut :=
  { writes := l.map (fun x => (x.1, x.2.pat)), count := (l.map (fun x => x.2.count)).sum,
    exc := l.foldl (fun e x => e.or x.2.exc) .none }

/-- The frame of R126 and R175: active body elements receive f, masked-off ones zeros when MZ = 1; `all` writes every
body element. -/
def Hart.frame (h : Hart) (t : VT) (k : KReg) (all : Bool) (f : Nat → Elem) : VecOut :=
  collect (h.body.filterMap (fun i =>
    if all || h.active k i then some (i, f i) else if t.mz then some (i, { pat := 0 }) else none))

/-- Elements written into a group of `n` registers. -/
def Hart.putElems (h : Hart) (d : Reg) (n : Nat) (ws : List (Nat × Nat)) : Hart :=
  ws.foldl (fun h w => h.putElem d w.1 w.2 n) h

/-! ### Descriptors (R107) -/

/-- The descriptor of the register at position j of a written group, with `prog` element groups complete. -/
def VDesc.stamp (x : VDesc) (t : VT) (vl : BitVec 16) (borg : BitVec 13) (prog j : Nat) : VDesc :=
  { x with borg := borg, gsz := BitVec.ofNat 2 t.ig, dirty := true, kind := t.kind,
           width := BitVec.ofNat 4 (t.wd / 2 ^ t.ig - 1), gpos := BitVec.ofNat 2 j,
           prog := BitVec.ofNat 6 prog, vlen := if x.vlen.toNat < vl.toNat then vl else x.vlen }

/-- The descriptors of the first n registers of group d after a writing instruction with vl. -/
def Hart.stamp (h : Hart) (d : Reg) (t : VT) (vl : BitVec 16) (borg : BitVec 13) (prog : Nat) : Nat → Hart
  | 0 => h
  | j + 1 =>
    let h := h.stamp d t vl borg prog j
    h.putV (regAt d j) { h.vr (regAt d j) with desc := (h.vr (regAt d j)).desc.stamp t vl borg prog j }

/-- The element groups of a vector of vl elements: PROG at completion (R107). -/
def progOf (vl : BitVec 16) : Nat := (vl.toNat + 1023) / 1024

/-- The copy of group d to d2 of a live copying prefix, descriptors and all (R41). -/
def Hart.copyGroup (h : Hart) (d : Reg) (n : Nat) : Hart :=
  match h.copyReg with
  | none => h
  | some d2 => (List.range n).foldl (fun x j => x.putV (regAt d2 j) (h.vr (regAt d j))) h

/-! ### Checks (R119, R41) -/

/-- The registers of a list that are not multiples of their group sizes, first first; the copy register of a live
prefix is checked last, by the destination's group size (R41, log 13). -/
def Hart.misaligned (h : Hart) (groups : List (Reg × Nat)) (dest : Option Nat) : Option Reg :=
  let copy : List (Reg × Nat) := match h.copyReg, dest with
    | some d2, some n => [(d2, n)]
    | _, _ => []
  ((groups ++ copy).find? (fun g => g.1.toNat % g.2 != 0)).map (fun g => g.1)

/-- A register number as tval. -/
def regVal (r : Reg) : Word := r.setWidth 64

/-- The checks of R119 in order: VTYPE_BAD, VGROUP_ALIGN, VSTART_RANGE; none when all pass. -/
def Hart.vcheck (h : Hart) (kindOk : Bool) (groups : List (Reg × Nat)) (dest : Option Nat) (vstartOk : Bool) :
    Option (BitVec 7 × Word) :=
  if h.vt.ill || !kindOk then some (Cause.vtypeBad, h.vtype.setWidth 64)
  else
    match h.misaligned groups dest with
    | some r => some (Cause.vgroupAlign, regVal r)
    | none => if vstartOk then none else some (Cause.vstartRange, h.vstart.setWidth 64)

/-- vstart below vl. -/
def Hart.startOk (h : Hart) : Bool := h.vstart.toNat < h.vl.toNat

/-- An instruction with vl = 0: vstart ← 0 and nothing else (R118). -/
def State.emptyVl (s : State) : Out := s.finish (fun h => { h with vstart := 0 })

/-! ### Uncorrectable lane SRAM (R131, Table 13.2) -/

/-- What an instruction reads of the lane SRAM: a unit of Table 13.2, a register, the plane rows of it that are read, and,
for each position, the least element whose result needs it, when one does. -/
structure LaneRead where
  unit : Nat
  reg : Nat
  row : Nat → Bool
  user : Nat → Option Nat

/-- Planes lo to hi − 1 of the group at n (R103), each position read for the element that `user` names. -/
def rowReads (n : Reg) (lo hi : Nat) (user : Nat → Option Nat) : List LaneRead :=
  (List.range ((hi + 15) / 16)).map (fun j =>
    { unit := 0, reg := (regAt n j).toNat, row := fun p => decide (lo ≤ 16 * j + p ∧ 16 * j + p < hi), user := user })
/-- The w low planes of the group at n, which a read at width w consults (R111). -/
def groupReads (n : Reg) (w : Nat) (user : Nat → Option Nat) : List LaneRead := rowReads n 0 w user
/-- A whole register of a unit without planes. -/
def unitReads (unit reg : Nat) (user : Nat → Option Nat) : LaneRead :=
  { unit := unit, reg := reg, row := fun _ => true, user := user }
/-- A mask register. -/
def kReads (k : KReg) (user : Nat → Option Nat) : List LaneRead := [unitReads 1 k.toNat user]
/-- A mask register named by a k field. -/
def maskReads (k : KReg) (user : Nat → Option Nat) : List LaneRead := if k = 0 then [] else kReads k user

/-- Each body element is read for itself. -/
def Hart.inBody (h : Hart) (i : Nat) : Option Nat := if h.vstart.toNat ≤ i ∧ i < h.vl.toNat then some i else none
/-- Each active body element is read for itself (R117: what a masked-off element would read is not consulted). -/
def Hart.inActive (h : Hart) (k : KReg) (i : Nat) : Option Nat := if h.active k i then h.inBody i else none

/-- Source groups, each at its width, over the active body elements, and the mask over the body. -/
def Hart.bodyReads (h : Hart) (k : KReg) (srcs : List (Reg × Nat)) : List LaneRead :=
  srcs.flatMap (fun r => groupReads r.1 r.2 (h.inActive k)) ++ maskReads k h.inBody

/-- The element for which a read meets a mark, when it does. -/
def LaneRead.meets (r : LaneRead) (m : LaneMark) : Option Nat :=
  if m.unit.toNat == r.unit && m.reg == r.reg && r.row m.plane.val then r.user m.pos else none

/-- The earlier of two errors found: that of the lower element, and the first of one element (log 35). -/
def leastHit (b : Option (Nat × LaneMark)) (x : Nat × LaneMark) : Option (Nat × LaneMark) :=
  match b with
  | some y => if x.1 < y.1 then some x else some y
  | none => some x

/-- The uncorrectable word among what is read that the least element needs, with that element. -/
def laneHit (marks : List LaneMark) (rs : List LaneRead) : Option (Nat × LaneMark) :=
  (marks.flatMap (fun m => (rs.filterMap (fun r => r.meets m)).map (fun i => (i, m)))).foldl leastHit none

/-- The lowest element group not completed when an error at `pos` stops an instruction whose first body element is
`lo`: a free choice up to the error's group (log 3). -/
def stopGroup (tick lo pos : Nat) : Nat :=
  let g0 := lo / 1024
  g0 + Config.freeNat tick 0 % (pos / 1024 - g0 + 1)

/-- The writes that stand when groups below g are complete and every other element is old or new (R131). -/
def mixWrites (tick g : Nat) (ws : List (Nat × Nat)) : List (Nat × Nat) :=
  ws.filter (fun w => decide (w.1 / 1024 < g) || Config.freeBit tick w.1)

/-! ### Completion -/

/-- The hart after a vector instruction's writes to group d with `prog` element groups complete: elements, descriptors
over vl, and the prefix copy. -/
def Hart.writePart (h : Hart) (d : Reg) (t : VT) (borg : BitVec 13) (prog : Nat) (ws : List (Nat × Nat)) : Hart :=
  ((h.putElems d t.regs ws).stamp d t h.vl borg prog t.regs).copyGroup d t.regs

/-- The hart after all writes of a vector instruction to group d. -/
def Hart.writeGroup (h : Hart) (d : Reg) (t : VT) (borg : BitVec 13) (ws : List (Nat × Nat)) : Hart :=
  h.writePart d t borg (progOf h.vl) ws

/-- A vector instruction that writes group d completes: elements, descriptors, counts and flags (R107, R166, R168). -/
def State.vecFinish (s : State) (d : Reg) (t : VT) (borg : BitVec 13) (o : VecOut) : Out :=
  s.finish (fun h =>
    { (h.writeGroup d t borg o.writes).countSat o.count with vstart := 0, fflags := fflagsVector h.fflags o.exc })

/-- Whether an instruction stopped in element group g, from body element `lo` up, has written nothing: no group is
complete and no element of the others has its new value. -/
def untouched {α : Type} (lo g : Nat) (ws : List α) : Bool := g == lo / 1024 && ws.isEmpty

/-- The hart after an instruction that writes group d is stopped in element group g (R107, R131): descriptors and the
prefix copy follow only when it has written. -/
def Hart.stopWrite (h : Hart) (d : Reg) (t : VT) (borg : BitVec 13) (g : Nat) (ws : List (Nat × Nat)) : Hart :=
  { (if untouched h.vstart.toNat g ws then h else h.writePart d t borg g ws) with
    vstart := BitVec.ofNat 15 (1024 * g) }

/-- An uncorrectable row that element i needs stops a vector instruction that writes group d (R131). -/
def State.vecStop (s : State) (d : Reg) (t : VT) (borg : BitVec 13) (o : VecOut) (i : Nat) (m : LaneMark) : Out :=
  let g := stopGroup s.tick s.me.vstart.toNat i
  let t1 := s.modMe (fun h => h.stopWrite d t borg g (mixWrites s.tick g o.writes))
  t1.step1.trap Cause.laneSram (laneVal m)

/-- A vector instruction that writes group d and reads `rs` completes, or an uncorrectable row stops it. -/
def State.vecDone (s : State) (d : Reg) (t : VT) (borg : BitVec 13) (rs : List LaneRead) (o : VecOut) : Out :=
  match laneHit s.me.marks rs with
  | none => s.vecFinish d t borg o
  | some (i, m) => s.vecStop d t borg o i m

/-! ### Mask destinations (R134, R135) -/

/-- Whether a copy of hart h owns mask register k (R293, R294). -/
def State.maskOwned (s : State) (h : HartId) (k : KReg) : Bool :=
  (s.core (coreOf h)).copies.any (fun c => c.owner == h && !c.retired && c.k == k)

/-- MASK_OWNED for a destination kd and the copy register of a live prefix (R134): the destination is reported first
(log 78). -/
def State.ownedCheck (s : State) (kd : KReg) : Option Word :=
  if s.maskOwned s.cur kd then some (kd.setWidth 64)
  else
    match s.me.copyReg with
    | some d2 => if s.maskOwned s.cur (kOf d2) then some ((kOf d2).setWidth 64) else none
    | none => none

/-- A mask register with bits written. -/
def putBitsK (x : Plane) (ws : List (Nat × Bool)) : Plane := ws.foldl (fun x w => setBit x w.1 w.2) x

/-- An instruction that writes bits of kd and reads `rs` completes, or an uncorrectable row stops it (R140). -/
def State.maskDone (s : State) (kd : KReg) (rs : List LaneRead) (ws : List (Nat × Bool)) (e : Exc) : Out :=
  match laneHit s.me.marks rs with
  | none =>
    s.finish (fun h =>
      { h.setK kd (putBitsK (h.kr kd) ws) with vstart := 0, fflags := fflagsVector h.fflags e })
  | some (i, m) =>
    let g := stopGroup s.tick s.me.vstart.toNat i
    let ws := ws.filter (fun w => decide (w.1 / 1024 < g) || Config.freeBit s.tick w.1)
    let t1 := s.modMe (fun h =>
      { (if untouched h.vstart.toNat g ws then h else h.setK kd (putBitsK (h.kr kd) ws)) with
        vstart := BitVec.ofNat 15 (1024 * g) })
    t1.step1.trap Cause.laneSram (laneVal m)

end Sys2Proof.Machine
end

