-- ==== Sys2Proof/Machine/Branch.lean ====
section
/-! DEFINITION. Branches, jumps and hardware loops (R79 to R84). -/

namespace Sys2Proof.Machine

/-- The target of a branch at the executing pc (R29). -/
def State.target (s : State) (off : BitVec 16) : Word := s.me.pc + 4 * off.signExtend 64

/-- A branch: taken it may leave loops (R84), not taken it continues at pc + 4 (R79, R83). -/
def State.branch (s : State) (taken : Bool) (off : BitVec 16) : Out :=
  if taken then .next (s.modMe (fun h => h.jump (s.target off) true)) else s.done

/-- BEQ. -/
def execBeq (a b : Reg) (off : BitVec 16) (s : State) : Out := s.branch (s.me.xr a == s.me.xr b) off
/-- BNE. -/
def execBne (a b : Reg) (off : BitVec 16) (s : State) : Out := s.branch (s.me.xr a != s.me.xr b) off
/-- BLT. -/
def execBlt (a b : Reg) (off : BitVec 16) (s : State) : Out := s.branch ((s.me.xr a).slt (s.me.xr b)) off
/-- BGE. -/
def execBge (a b : Reg) (off : BitVec 16) (s : State) : Out := s.branch (!(s.me.xr a).slt (s.me.xr b)) off
/-- BLTU. -/
def execBltu (a b : Reg) (off : BitVec 16) (s : State) : Out := s.branch ((s.me.xr a).ult (s.me.xr b)) off
/-- BGEU. -/
def execBgeu (a b : Reg) (off : BitVec 16) (s : State) : Out := s.branch (!(s.me.xr a).ult (s.me.xr b)) off

/-- The bits of a mask register below vl (R80). -/
def Hart.belowVl (h : Hart) (k : KReg) : Nat := (h.kr k).toNat % 2 ^ h.vl.toNat

/-- A branch on the tested bits of mask register k: an uncorrectable word among them is LANE_SRAM_UNCORRECTABLE (R80,
R345). -/
def State.maskBranch (s : State) (k : KReg) (taken : Bool) (off : BitVec 16) : Out :=
  match laneHit s.me.marks (kReads k (fun i => if i < s.me.vl.toNat then some i else none)) with
  | some (_, m) => s.trap Cause.laneSram (laneVal m)
  | none => s.branch taken off

/-- BMNONE: no tested bit is set. -/
def execBmnone (k : KReg) (off : BitVec 16) (s : State) : Out := s.maskBranch k (s.me.belowVl k == 0) off
/-- BMANY: some tested bit is set. -/
def execBmany (k : KReg) (off : BitVec 16) (s : State) : Out := s.maskBranch k (s.me.belowVl k != 0) off
/-- BMALL: every tested bit is set. -/
def execBmall (k : KReg) (off : BitVec 16) (s : State) : Out :=
  s.maskBranch k (s.me.belowVl k == 2 ^ s.me.vl.toNat - 1) off

/-- A jump to `t` that writes the return address; with d = x0 it may leave loops (R81, R84). -/
def State.link (s : State) (d : Reg) (t : Word) : Out :=
  .next (s.modMe (fun h => (h.setX d (h.pc + 4)).jump t (d == 0)))

/-- JAL (R81). -/
def execJal (d : Reg) (off : BitVec 21) (s : State) : Out := s.link d (s.me.pc + 4 * off.signExtend 64)

/-- JALR: a target that is no multiple of 4 is MISALIGNED_PC with tval the target (R26, R81). -/
def execJalr (d a : Reg) (imm : BitVec 16) (s : State) : Out :=
  let t := s.me.xr a + imm.signExtend 64
  if t.toNat % 4 ≠ 0 then s.trap Cause.misalignedPc t else s.link d t

/-- LOOP (R82). -/
def execLoop (a : Reg) (len : BitVec 16) (s : State) : Out :=
  let h := s.me
  let n : BitVec 32 := (h.xr a).setWidth 32
  if 2 ≤ h.ld.toNat then s.trap Cause.loopDepth 0
  else if n = 0 then .next (s.setMe { h.endPfx with pc := h.pc + 4 + 4 * len.setWidth 64 })
  else
    let t : Fin 2 := if h.ld = 0 then 0 else 1
    let h := { h with
      lbeg := h.lbeg.set t.val (h.pc + 4) t.isLt
      lrem := h.lrem.set t.val (n - 1) t.isLt
      llen := h.llen.set t.val len t.isLt
      ld := h.ld + 1 }
    .next (s.setMe h.advance)

end Sys2Proof.Machine
end

