-- ==== Sys2Proof/Machine/Fpu.lean ====
section
/-! DEFINITION. Scalar floating point (R88 to R91). -/

namespace Sys2Proof.Machine

/-- The format of a precision. -/
def precFmt : Prec → Fmt
  | .s => Fmt.fp32 | .d => Fmt.fp64
/-- The other precision. -/
def precOther : Prec → Prec
  | .s => .d | .d => .s
/-- The operand an f register holds: its low half for binary32 (R62). -/
def fpBits (p : Prec) (v : Word) : Nat :=
  match p with
  | .s => v.toNat % 2 ^ 32
  | .d => v.toNat
/-- A result as an f register holds it (R61). -/
def fpBox (p : Prec) (u : Nat) : Word :=
  match p with
  | .s => boxed u
  | .d => BitVec.ofNat 64 u

/-- f[r] as an operand. -/
def Hart.fo (h : Hart) (p : Prec) (r : Reg) : Nat := fpBits p (h.fr r)

/-- A result in f[d] and its exceptions in the scalar group (R70). -/
def State.writeF (s : State) (d : Reg) (v : Word) (e : Exc) : Out :=
  s.finish (fun h => { h.setF d v with fflags := fflagsScalar h.fflags e })
/-- A result in x[d] and its exceptions. -/
def State.writeXe (s : State) (d : Reg) (v : Word) (e : Exc) : Out :=
  s.finish (fun h => { h.setX d v with fflags := fflagsScalar h.fflags e })

/-- An arithmetic FPU operation (R88, R89). -/
def State.fpu (s : State) (op : FOp) (d a b : Reg) (r : Rnd) (p : Prec) : Out :=
  let h := s.me
  let o := fpOp (precFmt p) r op (h.fo p a) (h.fo p b) (h.fo p d)
  s.writeF d (fpBox p o.1) o.2

/-- FADD. -/
def execFadd (d a b : Reg) (r : Rnd) (p : Prec) (s : State) : Out := s.fpu .add d a b r p
/-- FSUB. -/
def execFsub (d a b : Reg) (r : Rnd) (p : Prec) (s : State) : Out := s.fpu .sub d a b r p
/-- FMUL. -/
def execFmul (d a b : Reg) (r : Rnd) (p : Prec) (s : State) : Out := s.fpu .mul d a b r p
/-- FDIV. -/
def execFdiv (d a b : Reg) (r : Rnd) (p : Prec) (s : State) : Out := s.fpu .div d a b r p
/-- FSQRT. -/
def execFsqrt (d a : Reg) (r : Rnd) (p : Prec) (s : State) : Out := s.fpu .sqrt d a 0 r p
/-- FFMA: f[a] × f[b] + f[d], one rounding. -/
def execFfma (d a b : Reg) (r : Rnd) (p : Prec) (s : State) : Out := s.fpu .ffma d a b r p
/-- FMIN. -/
def execFmin (d a b : Reg) (p : Prec) (s : State) : Out := s.fpu .min d a b .rne p
/-- FMAX. -/
def execFmax (d a b : Reg) (p : Prec) (s : State) : Out := s.fpu .max d a b .rne p

/-- A compare of two values: whether it holds and its exceptions. `quiet` compares raise NV only for a signalling NaN
(Table 3.12). -/
def fpCompare (quiet : Bool) (rel : Int → Bool) (x y : Val) : Bool × Exc :=
  if x.isNan || y.isNan then (false, Exc.nvIf (!quiet || x.isSnan || y.isSnan))
  else (rel (cmpVal x y), .none)

/-- A compare into x[d]. -/
def State.fcmp (s : State) (d a b : Reg) (p : Prec) (quiet : Bool) (rel : Int → Bool) : Out :=
  let f := precFmt p
  let o := fpCompare quiet rel (f.decode (s.me.fo p a)) (f.decode (s.me.fo p b))
  s.writeXe d (boolWord o.1) o.2

/-- FEQ. -/
def execFeq (d a b : Reg) (p : Prec) (s : State) : Out := s.fcmp d a b p true (fun c => c == 0)
/-- FLT. -/
def execFlt (d a b : Reg) (p : Prec) (s : State) : Out := s.fcmp d a b p false (fun c => decide (c < 0))
/-- FLE. -/
def execFle (d a b : Reg) (p : Prec) (s : State) : Out := s.fcmp d a b p false (fun c => decide (c ≤ 0))

/-- FCVT between the precisions; `p` is the destination's (Table 3.13). -/
def execFcvtFf (d a : Reg) (r : Rnd) (p : Prec) (s : State) : Out :=
  let q := precOther p
  let o := (precFmt p).fcvt r ((precFmt q).decode (s.me.fo q a))
  s.writeF d (fpBox p o.pat) o.exc

/-- FCVT from an integer. -/
def State.fromInt (s : State) (d : Reg) (r : Rnd) (p : Prec) (x : Int) : Out :=
  let o := (precFmt p).roundVal r (ofInt x)
  s.writeF d (fpBox p o.pat) o.exc

/-- FCVT from signed x[a]. -/
def execFcvtFL (d a : Reg) (r : Rnd) (p : Prec) (s : State) : Out := s.fromInt d r p (s.me.xr a).toInt
/-- FCVT from unsigned x[a]. -/
def execFcvtFLu (d a : Reg) (r : Rnd) (p : Prec) (s : State) : Out := s.fromInt d r p (s.me.xr a).toNat

/-- FCVT to an integer in [lo, hi] (R90). -/
def State.toInt (s : State) (d a : Reg) (r : Rnd) (p : Prec) (lo hi : Int) : Out :=
  let o := toIntScalar r ((precFmt p).decode (s.me.fo p a)) lo hi
  s.writeXe d (BitVec.ofInt 64 o.1) o.2

/-- FCVT to signed x[d]. -/
def execFcvtLF (d a : Reg) (r : Rnd) (p : Prec) (s : State) : Out := s.toInt d a r p (-(2 ^ 63)) (2 ^ 63 - 1)
/-- FCVT to unsigned x[d]. -/
def execFcvtLuF (d a : Reg) (r : Rnd) (p : Prec) (s : State) : Out := s.toInt d a r p 0 (2 ^ 64 - 1)

/-- FMVXF: the bits of f[a]; the low half sign-extended for .s. -/
def execFmvxf (d a : Reg) (p : Prec) (s : State) : Out :=
  s.writeX d (match p with
    | .s => sextBytes 4 (s.me.fr a).toNat
    | .d => s.me.fr a)
/-- FMVFX: the bits of x[a]; boxed for .s. -/
def execFmvfx (d a : Reg) (p : Prec) (s : State) : Out := s.finish (fun h => h.setF d (fpBox p (h.xr a).toNat))
/-- FCLASS (R91). -/
def execFclass (d a : Reg) (p : Prec) (s : State) : Out :=
  s.writeX d (BitVec.ofNat 64 (classOf (precFmt p) (s.me.fo p a)))

end Sys2Proof.Machine
end

