-- ==== Sys2Proof/Machine/Vint.lean ====
section
/-! DEFINITION. The vector configuration and integer vector instructions (R115, R126 to R131, R204). -/

namespace Sys2Proof.Machine

/-! ### VCFG -/

/-- min(n, 32768) as a vl. -/
def vlOf (n : Word) : BitVec 16 := BitVec.ofNat 16 (min n.toNat 32768)

/-- SETVL (Table 4.5). -/
def execSetvl (d a b : Reg) (s : State) : Out :=
  s.finish (fun h =>
    let avl := h.xr a
    { h.setX d ((vlOf avl).setWidth 64) with avl := avl, sidx := h.xr b, vl := vlOf avl, vstart := 0 })

/-- SETTYPE (Table 4.5). -/
def execSettype (d a : Reg) (s : State) : Out :=
  let v := s.me.xr a
  if v.toNat < 2 ^ 20 ∧ vtypeValid (v.setWidth 20) then
    s.finish (fun h => { h.setX d (h.vtype.setWidth 64) with vtype := (0 : BitVec 1) ++ v.setWidth 20 })
  else s.trap Cause.vtypeBad v

/-- SETFMT (R204). -/
def execSetfmt (d a : Reg) (s : State) : Out :=
  let v := s.me.xr a
  if v.toNat < 4 then s.finish (fun h => { h.setX d (h.mfmt.setWidth 64) with mfmt := v.setWidth 2 })
  else s.trap Cause.mfmtBad v

/-- ENDSTRIP (Table 4.5). -/
def execEndstrip (d : Reg) (s : State) : Out :=
  s.finish (fun h =>
    let n := h.vl.setWidth 64
    let avl := h.avl - (if h.avl.toNat < n.toNat then h.avl else n)
    { h.setX d ((vlOf avl).setWidth 64) with sidx := h.sidx + n, avl := avl, vl := vlOf avl, vstart := 0 })

/-! ### The frame of R126 -/

/-- What f of Table 4.9 is given: A and B as values and as patterns of wa and wb bits, D, and the index. -/
structure IntArgs where
  a : Int
  b : Int
  ap : Nat
  bp : Nat
  d : Int
  i : Nat

/-- rne(x / 2^s): the nearest integer, ties to even. -/
def rneShift (x : Int) (s : Nat) : Int :=
  if s = 0 then x
  else
    let q := x / 2 ^ s
    let r := x % 2 ^ s
    let half : Int := 2 ^ (s - 1)
    if r > half ∨ (r = half ∧ q % 2 = 1) then q + 1 else q

/-- The shift amount of R128: sat(t, 0, 64). -/
def Hart.shiftAmount (h : Hart) (t : VT) (b : BSrc) (i : Nat) : Nat :=
  let v : Int := match b with
    | .vec n => h.rd t n i t.wb
    | .scalar r => (h.xr r).toInt
    | .imm v => v.toInt
  (max 0 (min v 64)).toNat

/-- The groups a VINT instruction uses, in the order of R119. -/
def VT.groups (t : VT) (rs : List Reg) : List (Reg × Nat) := rs.map (fun r => (r, t.regs))

/-- A VINT instruction: `srcs` are the vector registers that its checks name beside vd, `rs` what it reads of the lane
SRAM, `f` a result (R119, R126). -/
def State.vframe (s : State) (kindOk : VT → Bool) (d : Reg) (srcs : List Reg) (k : KReg) (all : Bool) (borg : BitVec 13)
    (rs : Hart → VT → List LaneRead) (f : Hart → VT → Nat → Elem) : Out :=
  let h := s.me
  let t := h.vt
  if h.vl = 0 then s.emptyVl
  else
    match h.vcheck (kindOk t) (t.groups (d :: srcs)) (some t.regs) h.startOk with
    | some (c, v) => s.trap c v
    | none => s.vecDone d t borg (rs h t) (h.frame t k all (f h t))

/-- A VINT instruction that reads each of `srcs` whole at its width, in active body elements. -/
def State.vint (s : State) (kindOk : VT → Bool) (d : Reg) (srcs : List (Reg × Nat)) (k : KReg) (borg : BitVec 13)
    (f : Hart → VT → Nat → Elem) : Out :=
  s.vframe kindOk d (srcs.map (fun r => r.1)) k false borg (fun h _ => h.bodyReads k srcs) f

/-- The vector source b, with its width. -/
def State.bSrc (s : State) (b : BSrc) : List (Reg × Nat) := (bVec b).toList.map (fun n => (n, s.me.vt.wb))
/-- Source a and a vector source b, with their widths. -/
def State.abSrcs (s : State) (a : Reg) (b : BSrc) : List (Reg × Nat) := (a, s.me.vt.wa) :: s.bSrc b

/-- The arguments of a binary operation. -/
def Hart.intArgs (h : Hart) (t : VT) (d a : Reg) (b : BSrc) (i : Nat) : IntArgs :=
  let ap := h.pat a i t.wa
  let bp := h.bpat t b i
  { a := extPat t.signed ap t.wa, b := extPat t.signed bp t.wb, ap := ap, bp := bp, d := h.rd t d i t.wd, i := i }

/-- A binary VINT instruction with a clampable result. -/
def State.vbin (s : State) (d a : Reg) (b : BSrc) (k : KReg) (f : VT → IntArgs → Int) : Out :=
  s.vint VT.isInt d (s.abSrcs a b) k 0 (fun h t i => t.wr (f t (h.intArgs t d a b i)) true)

/-- A bitwise VINT instruction: on the patterns mod 2^wd, not clampable. -/
def State.vbits (s : State) (d a : Reg) (b : BSrc) (k : KReg) (f : Nat → Nat → Nat) : Out :=
  s.vint VT.isInt d (s.abSrcs a b) k 0 (fun h t i =>
    let x := h.intArgs t d a b i
    t.put (f (t.trunc x.a) (t.trunc x.b)))

/-- A shift: f of the element read and the amount of R128. -/
def State.vshift (s : State) (d a : Reg) (b : BSrc) (k : KReg) (f : VT → Nat → Nat → Int) : Out :=
  s.vint VT.isInt d (s.abSrcs a b) k 0 (fun h t i =>
    t.wr (f t (h.pat a i t.wa) (h.shiftAmount t b i)) true)

/-- The shift of vmulq (R127): wa + wb − wd, less 1 for SINT. -/
def VT.mulqShift (t : VT) : Int := t.wa + t.wb - t.wd - (if t.signed then 1 else 0)

/-- VADD: A + B (Table 4.9). -/
def execVadd (d a : Reg) (b : BSrc) (m : KReg) (s : State) : Out := s.vbin d a b m (fun _ x => x.a + x.b)
/-- VSUB: A − B (Table 4.9). -/
def execVsub (d a : Reg) (b : BSrc) (m : KReg) (s : State) : Out := s.vbin d a b m (fun _ x => x.a - x.b)
/-- VRSUB: B − A (Table 4.9). -/
def execVrsub (d a : Reg) (b : BSrc) (m : KReg) (s : State) : Out := s.vbin d a b m (fun _ x => x.b - x.a)
/-- VMUL: A × B (Table 4.9). -/
def execVmul (d a : Reg) (b : BSrc) (m : KReg) (s : State) : Out := s.vbin d a b m (fun _ x => x.a * x.b)
/-- VMULH: floor(A × B / 2^wd) (Table 4.9). -/
def execVmulh (d a : Reg) (b : BSrc) (m : KReg) (s : State) : Out := s.vbin d a b m (fun t x => x.a * x.b / 2 ^ t.wd)
/-- VMAC: D + A × B; vd is a source too. -/
def execVmac (d a : Reg) (b : BSrc) (m : KReg) (s : State) : Out :=
  s.vint VT.isInt d (s.abSrcs a b ++ [(d, s.me.vt.wd)]) m 0 (fun h t i =>
    let x := h.intArgs t d a b i
    t.wr (x.d + x.a * x.b) true)
/-- VMIN: signed minimum (Table 4.9). -/
def execVmin (d a : Reg) (b : BSrc) (m : KReg) (s : State) : Out := s.vbin d a b m (fun t x => min (extPat true x.ap t.wa) (extPat true x.bp t.wb))
/-- VMAX: signed maximum (Table 4.9). -/
def execVmax (d a : Reg) (b : BSrc) (m : KReg) (s : State) : Out := s.vbin d a b m (fun t x => max (extPat true x.ap t.wa) (extPat true x.bp t.wb))
/-- VMINU: unsigned minimum (Table 4.9). -/
def execVminu (d a : Reg) (b : BSrc) (m : KReg) (s : State) : Out := s.vbin d a b m (fun _ x => ((min x.ap x.bp : Nat) : Int))
/-- VMAXU: unsigned maximum (Table 4.9). -/
def execVmaxu (d a : Reg) (b : BSrc) (m : KReg) (s : State) : Out := s.vbin d a b m (fun _ x => ((max x.ap x.bp : Nat) : Int))
/-- VMULQ: R127 (Table 4.9). -/
def execVmulq (d a : Reg) (b : BSrc) (m : KReg) (s : State) : Out := s.vbin d a b m (fun t x => if 0 < t.mulqShift then rneShift (x.a * x.b) t.mulqShift.toNat else x.a * x.b * 2 ^ (-t.mulqShift).toNat)
/-- VAND. -/
def execVand (d a : Reg) (b : BSrc) (m : KReg) (s : State) : Out := s.vbits d a b m (fun x y => x &&& y)
/-- VOR. -/
def execVor (d a : Reg) (b : BSrc) (m : KReg) (s : State) : Out := s.vbits d a b m (fun x y => x ||| y)
/-- VXOR. -/
def execVxor (d a : Reg) (b : BSrc) (m : KReg) (s : State) : Out := s.vbits d a b m (fun x y => x ^^^ y)
/-- VSLL: A × 2^s (R128). -/
def execVsll (d a : Reg) (b : BSrc) (m : KReg) (s : State) : Out := s.vshift d a b m (fun t u n => extPat t.signed u t.wa * 2 ^ n)
/-- VSRL: a read unsigned (R128). -/
def execVsrl (d a : Reg) (b : BSrc) (m : KReg) (s : State) : Out := s.vshift d a b m (fun _ u n => ((u / 2 ^ n : Nat) : Int))
/-- VSRA: a read signed (R128). -/
def execVsra (d a : Reg) (b : BSrc) (m : KReg) (s : State) : Out := s.vshift d a b m (fun t u n => extPat true u t.wa / 2 ^ n)
/-- VRSH: rne(A / 2^s) (R128). -/
def execVrsh (d a : Reg) (b : BSrc) (m : KReg) (s : State) : Out := s.vshift d a b m (fun t u n => rneShift (extPat t.signed u t.wa) n)
/-- VSAT: clamps and counts whatever SAT says (R113). -/
def execVsat (d a : Reg) (m : KReg) (s : State) : Out :=
  s.vint VT.isInt d [(a, s.me.vt.wa)] m 0 (fun h t i => { t with sat := true }.wr (h.rd t a i t.wa) true)
/-- VABS. -/
def execVabs (d a : Reg) (m : KReg) (s : State) : Out :=
  s.vint VT.isInt d [(a, s.me.vt.wa)] m 0 (fun h t i => t.wr (h.rd t a i t.wa).natAbs true)
/-- VMERGE: every body element; B where the mask bit is 1, A elsewhere; BORG from va, in a group from its first register
(R129, log 76). Of each body element it reads the source that the mask bit selects, and only that one (R131, log 89). -/
def execVmerge (d a : Reg) (b : BSrc) (m : KReg) (s : State) : Out :=
  s.vframe (fun _ => true) d (a :: (bVec b).toList) m true (s.me.vr a).desc.borg
    (fun h t =>
      groupReads a t.wa (fun i => if (h.kr m).getLsbD i then none else h.inBody i) ++
        (bVec b).toList.flatMap (fun n => groupReads n t.wb (h.inActive m)) ++ kReads m h.inBody)
    (fun h t i => t.wr (if (h.kr m).getLsbD i then h.bval t b i else h.rd t a i t.wa) false)
/-- VMV: B; BORG from a vector vb, in a group from its first register (R129, log 76). -/
def execVmv (d : Reg) (b : BSrc) (m : KReg) (s : State) : Out :=
  s.vint (fun _ => true) d (s.bSrc b) m (match bVec b with
    | some n => (s.me.vr n).desc.borg
    | none => 0) (fun h t i => t.wr (h.bval t b i) false)
/-- VID: the index. -/
def execVid (d : Reg) (m : KReg) (s : State) : Out :=
  s.vint VT.isInt d [] m 0 (fun _ t i => t.wr i true)

end Sys2Proof.Machine
end

