-- ==== Sys2Proof/Machine/Vfp.lean ====
section
/-! DEFINITION. Floating vector instructions (R174 to R177). -/

namespace Sys2Proof.Machine

/-- The format of vtype.KIND; binary32 where the kind is no floating kind, which the checks exclude. -/
def VT.fmt (t : VT) : Fmt := (fmtOfKind t.kind).getD .fp32

/-- The scalar source f[r] as a pattern of the kind, with the exceptions of its conversion (R174). -/
def Hart.fscalar (h : Hart) (t : VT) (r : Reg) : Nat × Exc :=
  if t.kind = 5 then ((h.fr r).toNat, .none)
  else
    let u := (h.fr r).toNat % 2 ^ 32
    if t.kind = 4 then (u, .none)
    else
      let o := t.fmt.convert (Fmt.fp32.decode u)
      (o.pat, o.exc)

/-- A VFP instruction: `f` gives the pattern and exceptions of element i (R175); `e0` is recorded once (R174). -/
def State.vfp (s : State) (d : Reg) (srcs : List (Reg × Nat)) (k : KReg) (e0 : Exc) (f : Hart → VT → Nat → Nat × Exc) : Out :=
  let h := s.me
  let t := h.vt
  if h.vl = 0 then s.emptyVl
  else
    match h.vcheck t.isFp (t.groups (d :: srcs.map (fun r => r.1))) (some t.regs) h.startOk with
    | some (c, v) => s.trap c v
    | none =>
      let o := h.frame t k false (fun i => let r := f h t i; { t.put r.1 with exc := r.2 })
      s.vecDone d t 0 (h.bodyReads k srcs) { o with exc := e0.or o.exc }

/-- A binary VFP operation. -/
def State.vfbin (s : State) (op : FOp) (d a : Reg) (b : VsSrc) (k : KReg) (readD : Bool) : Out :=
  let sc := match b with
    | .scalar r => s.me.fscalar s.me.vt r
    | .vec _ => (0, .none)
  let t := s.me.vt
  let srcs := (a, t.wa) :: ((vsVec b).toList.map (fun n => (n, t.wb)) ++ if readD then [(d, t.wd)] else [])
  s.vfp d srcs k sc.2 (fun h t i =>
    fpOp t.fmt .rne op (h.pat a i t.wa) (match b with
      | .vec n => h.pat n i t.wb
      | .scalar _ => sc.1) (if readD then h.pat d i t.wd else 0))

/-- A unary VFP operation. -/
def State.vfun (s : State) (op : FOp) (d a : Reg) (k : KReg) : Out :=
  s.vfp d [(a, s.me.vt.wa)] k .none (fun h t i => fpOp t.fmt .rne op (h.pat a i t.wa) 0 0)

/-- VFADD (Table 6.6). -/
def execVfadd (d a : Reg) (b : VsSrc) (m : KReg) (s : State) : Out := s.vfbin .add d a b m false
/-- VFSUB (Table 6.6). -/
def execVfsub (d a : Reg) (b : VsSrc) (m : KReg) (s : State) : Out := s.vfbin .sub d a b m false
/-- VFMUL (Table 6.6). -/
def execVfmul (d a : Reg) (b : VsSrc) (m : KReg) (s : State) : Out := s.vfbin .mul d a b m false
/-- VFDIV (Table 6.6). -/
def execVfdiv (d a : Reg) (b : VsSrc) (m : KReg) (s : State) : Out := s.vfbin .div d a b m false
/-- VFFMA (Table 6.6). -/
def execVffma (d a : Reg) (b : VsSrc) (m : KReg) (s : State) : Out := s.vfbin .ffma d a b m true
/-- VFMIN (Table 6.6). -/
def execVfmin (d a : Reg) (b : VsSrc) (m : KReg) (s : State) : Out := s.vfbin .min d a b m false
/-- VFMAX (Table 6.6). -/
def execVfmax (d a : Reg) (b : VsSrc) (m : KReg) (s : State) : Out := s.vfbin .max d a b m false
/-- VFSQRT (Table 6.6). -/
def execVfsqrt (d a : Reg) (m : KReg) (s : State) : Out := s.vfun .sqrt d a m
/-- VFEXP2 (Table 6.6). -/
def execVfexp2 (d a : Reg) (m : KReg) (s : State) : Out := s.vfun .exp2 d a m
/-- VFRCP (Table 6.6). -/
def execVfrcp (d a : Reg) (m : KReg) (s : State) : Out := s.vfun .rcp d a m
/-- VFABS: the sign bit cleared (R176). -/
def execVfabs (d a : Reg) (m : KReg) (s : State) : Out :=
  s.vfp d [(a, s.me.vt.wa)] m .none (fun h t i => (h.pat a i t.wa % 2 ^ (t.wa - 1), .none))
/-- VFNEG: the sign bit inverted (R176). -/
def execVfneg (d a : Reg) (m : KReg) (s : State) : Out :=
  s.vfp d [(a, s.me.vt.wa)] m .none (fun h t i => (h.pat a i t.wa ^^^ 2 ^ (t.wa - 1), .none))

end Sys2Proof.Machine
end

