-- ==== Sys2Proof/Machine/Mask.lean ====
section
/-! DEFINITION. Compares and mask operations (R138 to R142). -/

namespace Sys2Proof.Machine

/-- A compare into kd: `f` answers the bit and the exceptions of element i (R135, R138, R140). -/
def State.vcmp (s : State) (kindOk : VT → Bool) (kd : KReg) (srcs : List (Reg × Nat)) (k : KReg)
    (f : Hart → VT → Nat → Bool × Exc) : Out :=
  let h := s.me
  let t := h.vt
  if h.vl = 0 then s.emptyVl
  else
    match h.vcheck (kindOk t) (t.groups (srcs.map (fun r => r.1))) none h.startOk with
    | some (c, v) => s.trap c v
    | none =>
      match s.ownedCheck kd with
      | some v => s.trap Cause.maskOwned v
      | none =>
        let rs := h.body.filterMap (fun i =>
          if h.active k i then some (i, f h t i) else if t.mz then some (i, (false, Exc.none)) else none)
        s.maskDone kd (h.bodyReads k srcs)
          (rs.map (fun x => (x.1, x.2.1))) (rs.foldl (fun e x => e.or x.2.2) .none)

/-- An integer compare by the patterns and values of Table 5.1. -/
def State.vicmp (s : State) (kd : KReg) (a : Reg) (b : BSrc) (k : KReg) (f : VT → IntArgs → Bool) : Out :=
  s.vcmp VT.isInt kd (s.abSrcs a b) k (fun h t i => (f t (h.intArgs t a a b i), .none))

/-- VCMPEQ (Table 5.1). -/
def execVcmpeq (d : KReg) (a : Reg) (b : BSrc) (m : KReg) (s : State) : Out := s.vicmp d a b m (fun _ x => x.a == x.b)
/-- VCMPNE (Table 5.1). -/
def execVcmpne (d : KReg) (a : Reg) (b : BSrc) (m : KReg) (s : State) : Out := s.vicmp d a b m (fun _ x => x.a != x.b)
/-- VCMPLT (Table 5.1). -/
def execVcmplt (d : KReg) (a : Reg) (b : BSrc) (m : KReg) (s : State) : Out := s.vicmp d a b m (fun t x => decide (extPat true x.ap t.wa < extPat true x.bp t.wb))
/-- VCMPLE (Table 5.1). -/
def execVcmple (d : KReg) (a : Reg) (b : BSrc) (m : KReg) (s : State) : Out := s.vicmp d a b m (fun t x => decide (extPat true x.ap t.wa ≤ extPat true x.bp t.wb))
/-- VCMPLTU (Table 5.1). -/
def execVcmpltu (d : KReg) (a : Reg) (b : BSrc) (m : KReg) (s : State) : Out := s.vicmp d a b m (fun _ x => decide (x.ap < x.bp))
/-- VCMPLEU (Table 5.1). -/
def execVcmpleu (d : KReg) (a : Reg) (b : BSrc) (m : KReg) (s : State) : Out := s.vicmp d a b m (fun _ x => decide (x.ap ≤ x.bp))

/-- Kinds of the floating compares (Table 5.1). -/
def VT.cmpKind (t : VT) : Bool := 2 ≤ t.kind.toNat && t.kind.toNat ≤ 10

/-- A floating compare; a scalar b is x[vb] mod 2^wb as a pattern (R139). -/
def State.vfcmp (s : State) (kd : KReg) (a : Reg) (b : VsSrc) (k : KReg) (f : Val → Val → Bool × Exc) : Out :=
  s.vcmp VT.cmpKind kd ((a, s.me.vt.wa) :: (vsVec b).toList.map (fun n => (n, s.me.vt.wb))) k (fun h t i =>
    f (t.fmt.decode (h.pat a i t.wa)) (t.fmt.decode (match b with
      | .vec n => h.pat n i t.wb
      | .scalar r => lowBits (h.xr r) t.wb)))

/-- VFCMPEQ. -/
def execVfcmpeq (d : KReg) (a : Reg) (b : VsSrc) (m : KReg) (s : State) : Out :=
  s.vfcmp d a b m (fpCompare true (fun c => c == 0))
/-- VFCMPLT. -/
def execVfcmplt (d : KReg) (a : Reg) (b : VsSrc) (m : KReg) (s : State) : Out :=
  s.vfcmp d a b m (fpCompare false (fun c => decide (c < 0)))
/-- VFCMPLE. -/
def execVfcmple (d : KReg) (a : Reg) (b : VsSrc) (m : KReg) (s : State) : Out :=
  s.vfcmp d a b m (fpCompare false (fun c => decide (c ≤ 0)))
/-- VFCMPUO: either operand is a NaN. -/
def execVfcmpuo (d : KReg) (a : Reg) (b : VsSrc) (m : KReg) (s : State) : Out :=
  s.vfcmp d a b m (fun x y => (x.isNan || y.isNan, Exc.nvIf (x.isSnan || y.isSnan)))

/-! ### Mask operations (Table 5.2) -/

/-- A mask operation on body bits, from source masks `srcs` (R142). -/
def State.kop (s : State) (d : KReg) (srcs : List KReg) (f : Hart → Nat → Bool) : Out :=
  let h := s.me
  if h.vl = 0 then s.emptyVl
  else
    match h.vcheck true [] none h.startOk with
    | some (c, v) => s.trap c v
    | none =>
      match s.ownedCheck d with
      | some v => s.trap Cause.maskOwned v
      | none =>
        s.maskDone d (srcs.flatMap (fun k => kReads k h.inBody))
          (h.body.map (fun i => (i, f h i))) .none

/-- Bit i of a mask register. -/
def Hart.kbit (h : Hart) (k : KReg) (i : Nat) : Bool := (h.kr k).getLsbD i

/-- KAND. -/
def execKand (d a b : KReg) (s : State) : Out := s.kop d [a, b] (fun h i => h.kbit a i && h.kbit b i)
/-- KOR. -/
def execKor (d a b : KReg) (s : State) : Out := s.kop d [a, b] (fun h i => h.kbit a i || h.kbit b i)
/-- KXOR. -/
def execKxor (d a b : KReg) (s : State) : Out := s.kop d [a, b] (fun h i => h.kbit a i != h.kbit b i)
/-- KANDN. -/
def execKandn (d a b : KReg) (s : State) : Out := s.kop d [a, b] (fun h i => h.kbit a i && !h.kbit b i)
/-- KNOT. -/
def execKnot (d a : KReg) (s : State) : Out := s.kop d [a] (fun h i => !h.kbit a i)
/-- KMOV. -/
def execKmov (d a : KReg) (s : State) : Out := s.kop d [a] (fun h i => h.kbit a i)
/-- KSET: bits below x[a]. -/
def execKset (d : KReg) (a : Reg) (s : State) : Out := s.kop d [] (fun h i => decide (i < (h.xr a).toNat))

/-- A result for x[d] from mask ka under km: `empty` with vl = 0 (R142). -/
def State.kscalar (s : State) (d : Reg) (a m : KReg) (empty : Word) (f : List Nat → Word) : Out :=
  let h := s.me
  if h.vl = 0 then s.finish (fun h => { h.setX d empty with vstart := 0 })
  else
    match h.vcheck true [] none (h.vstart = 0) with
    | some (c, v) => s.trap c v
    | none =>
      let hi := h.vl.toNat
      match laneHit h.marks (kReads a (h.inActive m) ++ maskReads m h.inBody) with
      | some (_, x) => s.trap Cause.laneSram (laneVal x)
      | none =>
        let v := f ((List.range hi).filter (fun i => h.kbit a i && h.active m i))
        s.finish (fun h => { h.setX d v with vstart := 0 })

/-- KPOPC. -/
def execKpopc (d : Reg) (a m : KReg) (s : State) : Out :=
  s.kscalar d a m 0 (fun l => BitVec.ofNat 64 l.length)
/-- KFIRST. -/
def execKfirst (d : Reg) (a m : KReg) (s : State) : Out :=
  s.kscalar d a m (BitVec.allOnes 64) (fun l => match l.head? with
    | some i => BitVec.ofNat 64 i
    | none => BitVec.allOnes 64)

end Sys2Proof.Machine
end

