-- ==== Sys2Proof/Machine/Vperm.lean ====
section
/-! DEFINITION. Permutations (R143 to R146). -/

namespace Sys2Proof.Machine

/-- A[j]: element j of va for any j below 32,768, else 0 (R143, Table 5.3). -/
def Hart.elemOr0 (h : Hart) (t : VT) (a : Reg) (j : Nat) : Int := if j < VLMAX then h.rd t a j t.wa else 0

/-- put of R143 of a value. -/
def VT.move (t : VT) (y : Int) : Elem := t.wr y false

/-- A permutation that writes group d: its checks (R146), then `f` gives the elements written. One that is `idle`, for no
element of the body is its own to write, leaves the descriptors too (R107). -/
def State.vpermute (s : State) (kindOk : VT → Bool) (d : Reg) (vecs : List Reg) (idle : Hart → VT → Bool)
    (rs : Hart → VT → List LaneRead) (f : Hart → VT → List (Nat × Elem)) : Out :=
  let h := s.me
  let t := h.vt
  if h.vl = 0 then s.emptyVl
  else
    match h.vcheck (kindOk t) (t.groups (d :: vecs)) (some t.regs) (h.vstart = 0) with
    | some (c, v) => s.trap c v
    | none =>
      match idle h t, laneHit h.marks (rs h t) with
      | true, none => s.emptyVl
      | _, _ => s.vecDone d t 0 (rs h t) (collect (f h t))

/-- A permutation that writes its elements one by one. -/
def never (_ : Hart) (_ : VT) : Bool := false

/-- The per-element rule of Table 5.3 over the elements that `keep` admits. -/
def Hart.perElement (h : Hart) (t : VT) (k : KReg) (keep : Nat → Bool) (f : Nat → Elem) : List (Nat × Elem) :=
  (h.body.filter keep).filterMap (fun i =>
    if h.active k i then some (i, f i) else if t.mz then some (i, { pat := 0 }) else none)

/-- The lane reads of a permutation of va under field k, whose element j is needed by element `user j`. -/
def permReads (h : Hart) (t : VT) (a : Reg) (k : KReg) (user : Nat → Option Nat) : List LaneRead :=
  groupReads a t.wa user ++ maskReads k h.inBody

/-- The body elements whose bit in k is set. -/
def Hart.chosen (h : Hart) (k : KReg) : List Nat := h.body.filter (fun i => h.kbit k i)

/-- VCOMPRESS (R144): element c needs the c-th chosen element, and the mask up to it. -/
def execVcompress (d a : Reg) (m : KReg) (s : State) : Out :=
  s.vpermute (fun _ => true) d [a] (fun h t => (h.chosen m).isEmpty && !t.mz) (fun h t =>
    groupReads a t.wa (fun j => (h.chosen m).idxOf? j) ++
      kReads m (fun j => (h.inBody j).map (fun _ => ((h.chosen m).filter (fun i => decide (i < j))).length))) (fun h t =>
    let on := h.chosen m
    let n := on.length
    (on.zipIdx.map (fun x => (x.2, t.move (h.rd t a x.1 t.wa)))) ++
      (if t.mz then (List.range' n (h.vl.toNat - n)).map (fun i => (i, ({ pat := 0 } : Elem))) else []))

/-- VEXPAND (R144): the c-th active element receives A[c]. -/
def execVexpand (d a : Reg) (m : KReg) (s : State) : Out :=
  s.vpermute (fun _ => true) d [a] never (fun h t => permReads h t a m (fun j => (h.chosen m)[j]?)) (fun h t =>
    let on := h.chosen m
    (on.zipIdx.map (fun x => (x.1, t.move (h.rd t a x.2 t.wa)))) ++
      (if t.mz then (h.body.filter (fun i => !h.kbit m i)).map (fun i => (i, ({ pat := 0 } : Elem))) else []))

/-- The slide amount: sat(t, 0, 32768) of the unsigned x[vb] or of sext(vb, 5). -/
def Hart.slide (h : Hart) (b : SiSrc) : Nat :=
  match b with
  | .scalar r => min (h.xr r).toNat VLMAX
  | .imm v => (max 0 (min v.toInt VLMAX)).toNat

/-- VSLIDEUP: elements below s are not written. -/
def execVslideup (d a : Reg) (b : SiSrc) (m : KReg) (s : State) : Out :=
  s.vpermute (fun _ => true) d [a] (fun h _ => decide (h.vl.toNat ≤ h.slide b)) (fun h t =>
    groupReads a t.wa (fun j => h.inActive m (j + h.slide b)) ++
      maskReads m (fun i => if h.slide b ≤ i then h.inBody i else none)) (fun h t =>
    let n := h.slide b
    h.perElement t m (fun i => decide (n ≤ i)) (fun i => t.move (h.rd t a (i - n) t.wa)))
/-- VSLIDEDN. -/
def execVslidedn (d a : Reg) (b : SiSrc) (m : KReg) (s : State) : Out :=
  s.vpermute (fun _ => true) d [a] never (fun h t =>
    permReads h t a m (fun j => if h.slide b ≤ j then h.inActive m (j - h.slide b) else none)) (fun h t =>
    let n := h.slide b
    h.perElement t m (fun _ => true) (fun i => t.move (h.elemOr0 t a (i + n))))
/-- VPERM: indices are planes wb − 1 … 0 of vb read unsigned. -/
def execVperm (d a b : Reg) (m : KReg) (s : State) : Out :=
  s.vpermute (fun _ => true) d [a, b] never (fun h t =>
    permReads h t a m (fun j => h.body.find? (fun i => h.active m i && h.pat b i t.wb == j)) ++
      groupReads b t.wb (h.inActive m)) (fun h t =>
    h.perElement t m (fun _ => true) (fun i => t.move (h.elemOr0 t a (h.pat b i t.wb))))
/-- VBCAST: element x[b]. -/
def execVbcast (d a b : Reg) (m : KReg) (s : State) : Out :=
  s.vpermute (fun _ => true) d [a] never (fun h t =>
    permReads h t a m (fun j => if j = (h.xr b).toNat then h.body.find? (fun i => h.active m i) else none)) (fun h t =>
    h.perElement t m (fun _ => true) (fun _ => t.move (h.elemOr0 t a (h.xr b).toNat)))
/-- VPREFPOP: the set bits of ka below each element, clampable. -/
def execVprefpop (d : Reg) (a : KReg) (m : KReg) (s : State) : Out :=
  s.vpermute VT.isInt d [] never (fun h _ =>
    kReads a (fun j => h.body.find? (fun i => decide (j < i) && h.active m i)) ++ maskReads m h.inBody) (fun h t =>
    h.perElement t m (fun _ => true) (fun i => t.wr (countOnes (h.kr a).toNat i) true))

/-- The latest j below i that is active and whose wa-bit pattern equals element i's (R144). -/
def Hart.lastEqual (h : Hart) (t : VT) (a : Reg) (m : KReg) (u : Nat) : Nat → Option Nat
  | 0 => none
  | j + 1 => if h.vstart.toNat ≤ j && h.active m j && h.pat a j t.wa == u then some j else h.lastEqual t a m u j

/-- VCONFLICT (R144). -/
def execVconflict (d a : Reg) (m : KReg) (s : State) : Out :=
  s.vpermute (fun _ => true) d [a] never (fun h t => permReads h t a m (h.inActive m)) (fun h t =>
    h.perElement t m (fun _ => true) (fun i =>
      t.put ((h.lastEqual t a m (h.pat a i t.wa) i).getD (2 ^ t.wd - 1))))

/-- VEXT: element x[b] of va, extended by kind, at every vl (R145); with vl = 0, which makes no check, the width fields
stand as they are and register numbers wrap (log 77). -/
def execVext (d a b : Reg) (s : State) : Out :=
  let h := s.me
  let t := h.vt
  let j := (h.xr b).toNat
  let bad := if h.vl = 0 then none else h.vcheck true (t.groups [a]) none (h.vstart = 0)
  match bad with
  | some (c, v) => s.trap c v
  | none =>
    match laneHit h.marks (groupReads a t.wa (fun i => if i = j then some j else none)) with
    | some (_, x) => s.trap Cause.laneSram (laneVal x)
    | none =>
      let v := BitVec.ofInt 64 (h.elemOr0 t a j)
      s.finish (fun h => { h.setX d v with vstart := 0 })

/-- VINS: element x[b] of vd from x[a] (R145). -/
def execVins (d a b : Reg) (m : KReg) (s : State) : Out :=
  let h := s.me
  let t := h.vt
  let j := (h.xr b).toNat
  if h.vl = 0 then s.emptyVl
  else
    match h.vcheck true (t.groups [d]) (some t.regs) (h.vstart = 0) with
    | some (c, v) => s.trap c v
    | none =>
      if h.vl.toNat ≤ j then s.emptyVl
      else
        s.vecDone d t 0 (maskReads m (fun i => if i = j then some j else none)) (collect (
          if h.active m j then [(j, t.put (h.xr a).toNat)] else if t.mz then [(j, { pat := 0 })] else []))

end Sys2Proof.Machine
end

