-- ==== Sys2Proof/Machine/Vred.lean ====
section
/-! DEFINITION. Reductions and scans with their fixed trees and the reduction shadow (R147 to R157). -/

namespace Sys2Proof.Machine

/-! ### The fixed trees (R147, R148) -/

/-- One level of the tree: neighbours combine, the lower-indexed on the left; an odd last partial passes up (R147). -/
def treeLevel {α : Type} (op : α → α → α) : List α → List α
  | a :: b :: rest => op a b :: treeLevel op rest
  | l => l

/-- n levels of the tree. -/
def treeLevels {α : Type} (op : α → α → α) : Nat → List α → List α
  | 0, l => l
  | n + 1, l => treeLevels op n (treeLevel op l)

/-- ceil(log2 n): the levels of a reduction or the steps of a scan (R147, R148). -/
def levelsOf (n : Nat) : Nat := if n ≤ 1 then 0 else Nat.log2 (n - 1) + 1

/-- One step of the scan network at distance d, on partials with their head flags (R148). -/
def scanStep {α : Type} (op : α → α → α) (d : Nat) (l : List (α × Bool)) : List (α × Bool) :=
  l.take d ++ List.zipWith (fun p c => (if c.2 then c.1 else op p.1 c.1, c.2 || p.2)) l (l.drop d)

/-- n steps of the network from step s. -/
def scanSteps {α : Type} (op : α → α → α) : Nat → Nat → List (α × Bool) → List (α × Bool)
  | 0, _, l => l
  | n + 1, s, l => scanSteps op n (s + 1) (scanStep op (2 ^ s) l)

/-! ### Integer reductions (R150, Table 5.5) -/

/-- The instruction answers x[b] unchanged when vl = 0 (R152); the shadow keeps its VALID (R156, log 79). -/
def State.redEmpty (s : State) (d b : Reg) : Out := s.finish (fun h => { h.setX d (h.xr b) with vstart := 0 })

/-- What a reduction of va reads of the lane SRAM. -/
def redReads (h : Hart) (t : VT) (a : Reg) (m : KReg) : List LaneRead := h.bodyReads m [(a, t.wa)]

/-- An integer reduction: `leaf` reads an element, `ident` stands for a masked-off one (R147, R149, R150). -/
def State.vred (s : State) (d a b : Reg) (m : KReg) (ident : Word) (leaf : Hart → VT → Nat → Int)
    (op : Word → Word → Word) : Out :=
  let h := s.me
  let t := h.vt
  if h.vl = 0 then s.redEmpty d b
  else
    match h.vcheck t.isInt (t.groups [a]) none (h.vstart = 0) with
    | some (c, v) => s.trap c v
    | none =>
      match laneHit h.marks (redReads h t a m) with
      | some (_, x) => (s.modMe (fun h => { h with shadow := Shadow.zero })).trap Cause.laneSram (laneVal x)
      | none =>
        let n := h.vl.toNat
        let leaves := (List.range n).map (fun i => if h.active m i then BitVec.ofInt 64 (leaf h t i) else ident)
        let r := op (h.xr b) ((treeLevels op (levelsOf n) leaves).headD ident)
        s.finish (fun h => { h.setX d r with vstart := 0 })

/-- A leaf ext(A) (R111). -/
def leafExt (a : Reg) (h : Hart) (t : VT) (i : Nat) : Int := h.rd t a i t.wa
/-- A leaf sext(A mod 2^wa, wa). -/
def leafS (a : Reg) (h : Hart) (t : VT) (i : Nat) : Int := extPat true (h.pat a i t.wa) t.wa
/-- A leaf A mod 2^wa. -/
def leafU (a : Reg) (h : Hart) (t : VT) (i : Nat) : Int := h.pat a i t.wa

/-- VREDSUM. -/
def execVredsum (d a b : Reg) (m : KReg) (s : State) : Out := s.vred d a b m 0 (leafExt a) (fun x y => x + y)
/-- VREDMAX. -/
def execVredmax (d a b : Reg) (m : KReg) (s : State) : Out :=
  s.vred d a b m (BitVec.intMin 64) (leafS a) (fun x y => if x.toInt < y.toInt then y else x)
/-- VREDMIN. -/
def execVredmin (d a b : Reg) (m : KReg) (s : State) : Out :=
  s.vred d a b m (BitVec.intMax 64) (leafS a) (fun x y => if x.toInt < y.toInt then x else y)
/-- VREDMAXU. -/
def execVredmaxu (d a b : Reg) (m : KReg) (s : State) : Out :=
  s.vred d a b m 0 (leafU a) (fun x y => if x.toNat < y.toNat then y else x)
/-- VREDMINU. -/
def execVredminu (d a b : Reg) (m : KReg) (s : State) : Out :=
  s.vred d a b m (BitVec.allOnes 64) (leafU a) (fun x y => if x.toNat < y.toNat then x else y)
/-- VREDAND. -/
def execVredand (d a b : Reg) (m : KReg) (s : State) : Out :=
  s.vred d a b m (BitVec.allOnes 64) (leafExt a) (fun x y => x &&& y)
/-- VREDOR. -/
def execVredor (d a b : Reg) (m : KReg) (s : State) : Out :=
  s.vred d a b m 0 (leafExt a) (fun x y => x ||| y)

/-! ### Floating reductions and their checkpoints (R151, R155, R156) -/

/-- The accumulation format (R151). -/
def VT.acc (t : VT) : Fmt := if t.kind = 5 then .fp64 else .fp32

/-- A leaf in the accumulation format (R151). -/
def VT.leafPat (t : VT) (u : Nat) : Nat := if t.kind = 2 ∨ t.kind = 3 then widen16 t.fmt u else u

/-- The identity of a floating reduction (Table 5.4). -/
def redIdent (op : FOp) (acc : Fmt) : Nat :=
  match op with
  | .min | .max => acc.nanPat
  | _ => acc.signed true 0

/-- A node: the operation rounded to nearest-even, with the exceptions of both partials and its own (R150). -/
def fpNode (op : FOp) (acc : Fmt) (x y : Nat × Exc) : Nat × Exc :=
  let r := fpOp acc .rne op x.1 y.1 0
  (r.1, (x.2.or y.2).or r.2)

/-- The exceptions of partials. -/
def excOf (l : List (Nat × Exc)) : Exc := l.foldl (fun e x => e.or x.2) .none

/-- Levels at which a floating reduction over n elements may stop (R155). -/
def redPoint (n l : Nat) : Bool :=
  (l == 0 && decide (n ≤ 32)) || (decide (1 ≤ l) && decide (l < levelsOf n) && decide ((n + 2 ^ l - 1) / 2 ^ l ≤ 32))

/-- Steps after which a vfscan over n elements may stop (R155). -/
def scanPoint (n k : Nat) : Bool := decide (1 ≤ k) && decide (k < levelsOf n)

/-- Where an instruction that starts at `start` and is asked to stop after `slice` − 1 more levels stops: the first
point from there, none when it completes first or is not asked to stop (R155). -/
def stopPoint (point : Nat → Bool) (start slice : Nat) : Option Nat :=
  if slice = 0 then none else (List.range' (start + slice - 1) 16).find? point

/-- The level or step the shadow lets an instruction at pc with word w and vl resume from (R156). -/
def Hart.resumeAt (h : Hart) (word : BitVec 32) (point : Nat → Bool) : Option Nat :=
  let r := h.shadow
  if r.valid ∧ r.pc = h.pc ∧ r.word = word ∧ r.vl = h.vl ∧ point r.order.toNat then some r.order.toNat else none

/-- The shadow with VALID cleared. -/
def Hart.clearShadow (h : Hart) : Hart := { h with shadow := { h.shadow with valid := false } }

/-- The shadow of a checkpoint at the executing instruction (R155). -/
def Hart.checkpoint (h : Hart) (word : BitVec 32) (order : Nat) (partials : List Nat) : Hart :=
  { h with shadow :=
      { word := word, valid := true, order := BitVec.ofNat 4 order, vl := h.vl, pc := h.pc,
        slots := Vector.ofFn (fun i : Fin 32 => BitVec.ofNat 64 (partials.getD i.val 0)) } }

/-- The initial value in the accumulation format (R151). -/
def Hart.initPat (h : Hart) (t : VT) (b : Reg) : Nat := lowBits (h.xr b) t.acc.width

/-- A trap of a floating reduction or vfscan of its own: VALID is cleared (R156). -/
def State.shadowTrap (s : State) (c : BitVec 7) (v : Word) : Out := (s.modMe Hart.clearShadow).trap c v

/-- The first n slots of the reduction shadow, as lane SRAM. -/
def shadowReads (n : Nat) : List LaneRead := [unitReads 4 0 (fun i => if i < n then some i else none)]

/-- What a floating reduction over n elements reads: the slots that hold the partials of the level it resumes from, or its
source and mask (R156). -/
def fredReads (h : Hart) (t : VT) (a : Reg) (m : KReg) (n : Nat) (from_ : Option Nat) : List LaneRead :=
  match from_ with
  | some l => shadowReads ((n + 2 ^ l - 1) / 2 ^ l)
  | none => redReads h t a m

/-- A floating reduction (R150 to R152, R155, R156). -/
def State.vfred (s : State) (op : FOp) (word : BitVec 32) (d a b : Reg) (m : KReg) : Out :=
  let h := s.me
  let t := h.vt
  if h.vl = 0 then s.redEmpty d b
  else
    match h.vcheck t.isFp (t.groups [a]) none (h.vstart = 0) with
    | some (c, v) => s.shadowTrap c v
    | none =>
      let n := h.vl.toNat
      let acc := t.acc
      let from_ := h.resumeAt word (redPoint n)
      match laneHit h.marks (fredReads h t a m n from_) with
      | some (_, x) => (s.modMe (fun h => { h with shadow := Shadow.zero })).trap Cause.laneSram (laneVal x)
      | none =>
        let start := from_.getD 0
        let leaves : List (Nat × Exc) := match from_ with
          | some l => (List.range ((n + 2 ^ l - 1) / 2 ^ l)).map (fun i => ((h.shadow.slots.get (Fin.ofNat 32 i)).toNat, .none))
          | none => (List.range n).map (fun i =>
              (if h.active m i then t.leafPat (h.pat a i t.wa) else redIdent op acc, .none))
        match stopPoint (redPoint n) start s.slice with
        | some l =>
          let p := treeLevels (fpNode op acc) (l - start) leaves
          .next (s.modMe (fun h =>
            { h.checkpoint word l (p.map (fun x => x.1)) with fflags := fflagsVector h.fflags (excOf p) }))
        | none =>
          let root := (treeLevels (fpNode op acc) (levelsOf n - start) leaves).headD (0, .none)
          let r := fpNode op acc (h.initPat t b, .none) root
          s.finish (fun h =>
            { (h.setX d (BitVec.ofNat 64 r.1)).clearShadow with vstart := 0, fflags := fflagsVector h.fflags r.2 })

/-- VFREDSUM. -/
def execVfredsum (d a b : Reg) (m : KReg) (s : State) : Out := s.vfred .add (packV 0x28 d a b m 1 0x07) d a b m
/-- VFREDMAX. -/
def execVfredmax (d a b : Reg) (m : KReg) (s : State) : Out := s.vfred .max (packV 0x28 d a b m 1 0x08) d a b m
/-- VFREDMIN. -/
def execVfredmin (d a b : Reg) (m : KReg) (s : State) : Out := s.vfred .min (packV 0x28 d a b m 1 0x09) d a b m

/-! ### Scans (R153) -/

/-- The partials with `init` folded into the first, in the unsegmented form (R148). -/
def withInit {α : Type} (op : α → α → α) (init : Option α) (l : List (α × Bool)) : List (α × Bool) :=
  match init, l with
  | some x, (y, f) :: rest => (op x y, f) :: rest
  | _, l => l

/-- Segment heads of elements 0 to n − 1, as they stood at issue (R133, R148). -/
def Hart.heads (h : Hart) (kh : Option KReg) (n : Nat) : List Bool :=
  (List.range n).map (fun i => match kh with
    | some k => (h.sampled k).getLsbD i
    | none => false)

/-- VSCAN in both forms: `b` names the initial value of the unsegmented form, `kh` the heads of the other. -/
def State.vscan (s : State) (d a : Reg) (b : Option Reg) (kh : Option KReg) (m : KReg) : Out :=
  let h := s.me
  let t := h.vt
  if h.vl = 0 then s.emptyVl
  else
    match h.vcheck t.isInt (t.groups [d, a]) (some t.regs) (h.vstart = 0) with
    | some (c, v) => s.trap c v
    | none =>
      let n := h.vl.toNat
      let leaves := (List.range n).map (fun i => if h.active m i then h.rd t a i t.wa else 0)
      let init := b.map (fun r => extPat t.signed (h.xr r).toNat 64)
      let sums := scanSteps (fun x y : Int => x + y) (levelsOf n) 0
        (withInit (fun x y => x + y) init (leaves.zip (h.heads kh n)))
      let out := (Array.mk (sums.map (fun x => x.1)))
      s.vecDone d t 0 (h.bodyReads m [(a, t.wa)] ++ kh.toList.flatMap (fun k => kReads k h.inBody))
        (h.frame t m false (fun i => t.wr (out.getD i 0) true))

/-- VSCAN. -/
def execVscan (d a b : Reg) (m : KReg) (s : State) : Out := s.vscan d a (some b) none m
/-- VSCAN_SEG. -/
def execVscanSeg (d a : Reg) (h m : KReg) (s : State) : Out := s.vscan d a none (some h) m

/-- Segment flags of element i after k steps: whether a head lies among the 2^k elements that end at i (R148). -/
def flagsAfter (heads : List Bool) (k : Nat) : List Bool :=
  (List.range heads.length).map (fun i => (List.range (min (i + 1) (2 ^ k))).any (fun j => heads.getD (i - j) false))

/-- VFSCAN in both forms; a checkpoint leaves its partials in vd with PROG 0 (R153, R155, R156). -/
def State.vfscan (s : State) (word : BitVec 32) (d a : Reg) (b : Option Reg) (kh : Option KReg) : Out :=
  let h := s.me
  let t := h.vt
  if h.vl = 0 then s.emptyVl
  else
    match h.vcheck (t.kind = 4 || t.kind = 5) (t.groups [d, a]) (some t.regs) (h.vstart = 0) with
    | some (c, v) => s.shadowTrap c v
    | none =>
      let n := h.vl.toNat
      let op := fpNode .add t.acc
      let from_ := h.resumeAt word (scanPoint n)
      let start := from_.getD 0
      let src := if from_.isSome then d else a
      let heads := h.heads kh n
      let leaves : List (Nat × Exc) := (List.range n).map (fun i => (h.pat src i t.wa, .none))
      let first := match from_ with
        | some k => leaves.zip (flagsAfter heads k)
        | none => withInit op (b.map (fun r => (h.initPat t r, Exc.none))) (leaves.zip heads)
      let reads := groupReads src t.wa h.inBody ++ kh.toList.flatMap (fun k => kReads k h.inBody)
      match stopPoint (scanPoint n) start s.slice with
      | some k =>
        match laneHit h.marks reads with
        | some (_, x) => s.shadowTrap Cause.laneSram (laneVal x)
        | none =>
          let p := (scanSteps op (k - start) start first).map (fun x => x.1)
          .next (s.modMe (fun h =>
            let g := (h.sample.writePart d t 0 0 ((p.map (fun x => t.spread x.1)).zipIdx.map (fun x => (x.2, x.1)))).checkpoint
              word k []
            { g with fflags := fflagsVector h.fflags (excOf p) }))
      | none =>
        let p := (scanSteps op (levelsOf n - start) start first).map (fun x => x.1)
        (s.modMe Hart.clearShadow).vecDone d t 0 reads
          { writes := p.zipIdx.map (fun x => (x.2, t.spread x.1.1)), count := 0, exc := excOf p }

/-- VFSCAN. -/
def execVfscan (d a b : Reg) (s : State) : Out := s.vfscan (packV 0x28 d a b 0 1 0x0B) d a (some b) none
/-- VFSCAN_SEG. -/
def execVfscanSeg (d a : Reg) (h : KReg) (s : State) : Out :=
  s.vfscan (packV 0x28 d a (kField h) 0 0 0x0B) d a none (some h)

end Sys2Proof.Machine
end

