-- ==== Sys2Proof/Machine/Vcvt.lean ====
section
/-! DEFINITION. Conversions, MX blocks and scale registers (R165, R169 to R171, R178 to R186). -/

namespace Sys2Proof.Machine

/-! ### Kinds as sources and destinations -/

/-- The value of a w-bit pattern of a kind (R160, R162, R164). -/
def kindVal (kind : BitVec 4) (w u : Nat) : Val :=
  match fmtOfKind kind with
  | some f => f.decode u
  | none => if kind.toNat < 2 then ofInt (extPat (kind == 0) u w) else ofMxint8 u

/-- A value converted into the kind of vtype (Table 6.3). -/
def VT.ofVal (t : VT) (v : Val) : Elem :=
  match fmtOfKind t.kind with
  | some f =>
    let r := f.convert v
    { t.put r.pat with count := if r.counted then 1 else 0, exc := r.exc }
  | none =>
    if t.isInt then
      let (x, e, c) := toIntSat v t.lo t.hi
      { t.put (t.trunc x) with count := if c then 1 else 0, exc := e }
    else
      let r := toMxint8 v
      { t.put r.pat with count := if r.counted then 1 else 0, exc := r.exc }

/-- The source that a conversion word names (Table 6.7): kind, width and registers of a group. -/
structure ConvSrc where
  kind : BitVec 4
  width : Nat
  regs : Nat
  deriving DecidableEq, Repr

/-- A conversion word, when it keeps Table 6.7. -/
def convOf (v : Word) : Option ConvSrc :=
  let n := v.toNat
  let sk := n % 16
  let sw := n / 16 % 16
  let sg := n / 256 % 4
  if 2 ^ 10 ≤ n ∨ 11 < sk then none
  else if sk < 2 then
    if sg = 3 then none else some { kind := BitVec.ofNat 4 sk, width := (sw + 1) * 2 ^ sg, regs := 2 ^ sg }
  else if sw ≠ 0 ∨ sg ≠ 0 then none
  else some { kind := BitVec.ofNat 4 sk, width := ((fmtOfKind (BitVec.ofNat 4 sk)).map Fmt.width).getD 8,
              regs := if sk = 4 then 2 else if sk = 5 then 4 else 1 }

/-- A kind among BF16, FP16, FP32 and FP64. -/
def isFpKind (k : BitVec 4) : Bool := 2 ≤ k.toNat && k.toNat ≤ 5

/-- The checks of R180 up to VTYPE_BAD's third stage, with the source the conversion word names. -/
def Hart.convCheck (h : Hart) (destOk srcOk : BitVec 4 → Bool) (conv : Word) : Except (BitVec 7 × Word) ConvSrc :=
  let t := h.vt
  if t.ill || !destOk t.kind then .error (Cause.vtypeBad, h.vtype.setWidth 64)
  else
    match convOf conv with
    | none => .error (Cause.vtypeBad, conv)
    | some c => if srcOk c.kind then .ok c else .error (Cause.vtypeBad, conv)

/-- The checks of R171 on the pair (vn, qn) for a panel of `len` elements. -/
def Hart.skewLen (h : Hart) (n : Reg) (len : Nat) : Option (BitVec 7 × Word) :=
  let q := h.qr n
  let borg := (h.vr n).desc.borg
  if q.nblk.toNat < (len + 31) / 32 then some (Cause.mxShape, q.nblk.setWidth 64)
  else if borg ≠ q.org then
    some (Cause.scaleSkew, BitVec.ofNat 64 (n.toNat * 2 ^ 32 + borg.toNat * 2 ^ 16 + q.org.toNat))
  else none

/-- The checks of R171 on the pair (vn, qn). -/
def Hart.skewCheck (h : Hart) (n : Reg) : Option (BitVec 7 × Word) := h.skewLen n h.vl.toNat

/-- The check of R170: sidx is a multiple of 32. -/
def Hart.mxCheck (h : Hart) : Option (BitVec 7 × Word) :=
  if h.sidx.toNat % 32 ≠ 0 then some (Cause.mxShape, h.sidx) else none

/-- The block origin stamped at issue (R170). -/
def Hart.origin (h : Hart) : BitVec 13 := BitVec.ofNat 13 (h.sidx.toNat / 32)

/-- The scales of qn, each read for the element that `user` names. -/
def scaleReads (n : Reg) (user : Nat → Option Nat) : List LaneRead := [unitReads 2 n.toNat user]

/-- The first active body element of MX block j (R180: an element takes the scale of its block). -/
def Hart.blockUser (h : Hart) (k : KReg) (j : Nat) : Option Nat := (List.range' (32 * j) 32).findSome? (h.inActive k)

/-! ### VCVT and VDEQ -/

/-- VCVT's result for element i of va: an integer into an integer kind by wr, every other conversion by Table 6.3
(R181). -/
def cvtElem (h : Hart) (t : VT) (c : ConvSrc) (a : Reg) (i : Nat) : Elem :=
  let u := h.pat a i c.width
  if c.kind.toNat < 2 ∧ t.isInt then t.wr (extPat (c.kind == 0) u c.width) true
  else t.ofVal (kindVal c.kind c.width u)

/-- VCVT (R181). -/
def execVcvt (d a b : Reg) (m : KReg) (s : State) : Out :=
  let h := s.me
  let t := h.vt
  if h.vl = 0 then s.emptyVl
  else
    match h.convCheck (fun k => decide (k.toNat ≤ 11)) (fun _ => true) (h.xr b) with
    | .error (c, v) => s.trap c v
    | .ok c =>
      match h.vcheck true [(d, t.regs), (a, c.regs)] (some t.regs) h.startOk with
      | some (x, v) => s.trap x v
      | none =>
        s.vecDone d t 0 (h.bodyReads m [(a, c.width)]) (h.frame t m false (cvtElem h t c a))

/-- VDEQ's result for element i of va with its scale (R183). -/
def deqElem (h : Hart) (t : VT) (c : ConvSrc) (a : Reg) (i : Nat) : Elem :=
  let code := ((h.qr a).scales.getD (i / 32) 0).toNat
  let e := kindVal c.kind c.width (h.pat a i c.width)
  if code = 0xFF ∨ e.isNan then { t.put t.fmt.nanPat with exc := Exc.nvIf e.isSnan }
  else if e.isZero then t.put (t.fmt.signed e.neg 0)
  else
    match e with
    | .num n m x => t.ofVal (.num n m (x + code - 127))
    | v => t.ofVal v

/-- VDEQ (R183). -/
def execVdeq (d a b : Reg) (m : KReg) (s : State) : Out :=
  let h := s.me
  let t := h.vt
  if h.vl = 0 then s.emptyVl
  else
    match h.convCheck isFpKind isMxKind (h.xr b) with
    | .error (c, v) => s.trap c v
    | .ok c =>
      match (h.vcheck true [(d, t.regs), (a, c.regs)] (some t.regs) h.startOk).orElse (fun _ => h.skewCheck a) with
      | some (x, v) => s.trap x v
      | none =>
        s.vecDone d t 0 (h.bodyReads m [(a, c.width)] ++ scaleReads a (h.blockUser m))
          (h.frame t m false (deqElem h t c a))

/-! ### VQUANT (R182) -/

/-- The emax of an MX element kind (Table 6.1; MXINT8 has 0). -/
def mxEmax (k : BitVec 4) : Int :=
  match k.toNat with
  | 6 => 8
  | 7 => 15
  | 8 => 2
  | 9 => 4
  | 10 => 2
  | _ => 0

/-- A block formed by VQUANT: its scale code, its elements and the exceptions that belong to the block. -/
structure MxBlock where
  code : Nat
  elems : List Elem
  exc : Exc
  deriving DecidableEq, Repr

/-- floor(log2 m) of the largest magnitude among finite values. -/
def topExp (vs : List Val) : Int :=
  (vs.filterMap (fun v => match v with
    | .num _ m e => if m = 0 then none else some (expOf m e)
    | _ => none)).foldl (fun a x => max a x) (-100000)

/-- value / 2^x. -/
def Val.scaleDown (v : Val) (x : Int) : Val :=
  match v with
  | .num n m e => .num n m (e - x)
  | v => v

/-- One block of R182. -/
def quantBlock (t : VT) (vs : List Val) : MxBlock :=
  if vs.any Val.isNan then
    { code := 0xFF, elems := vs.map (fun _ => { pat := 0 }), exc := Exc.nvIf (vs.any Val.isSnan) }
  else if vs.all Val.isZero then { code := 0x7F, elems := vs.map (fun _ => { pat := 0 }), exc := .none }
  else
    let infinite := vs.any (fun v => match v with
      | .inf _ => true
      | _ => false)
    let code : Nat := if infinite then 254 else (max 0 (min (topExp vs - mxEmax t.kind + 127) 254)).toNat
    let x : Int := code - 127
    { code := code,
      elems := vs.map (fun v =>
        let e := t.ofVal (v.scaleDown x)
        let zero := (kindVal t.kind t.wd (e.pat % 2 ^ t.wd)).isZero
        if code = 0 ∧ !v.isZero ∧ zero then { e with count := e.count + 1 } else e),
      exc := .none }

/-- A scale register with the codes of a list in scales 0, 1, …. -/
def QReg.putScales (q : QReg) (cs : List Byte) : QReg :=
  { q with scales := Vector.ofFn (fun i : Fin 1024 => cs.getD i.val (q.scales.get i)) }

/-- VQUANT (R182). -/
def execVquant (d a b : Reg) (s : State) : Out :=
  let h := s.me
  let t := h.vt
  if h.vl = 0 then s.emptyVl
  else
    match h.convCheck isMxKind isFpKind (h.xr b) with
    | .error (c, v) => s.trap c v
    | .ok c =>
      match (h.vcheck true [(d, t.regs), (a, c.regs)] (some t.regs) (h.vstart = 0)).orElse (fun _ => h.mxCheck) with
      | some (x, v) => s.trap x v
      | none =>
        let n := h.vl.toNat
        let nb := (n + 31) / 32
        let blocks := (List.range nb).map (fun k =>
          quantBlock t ((List.range (min 32 (n - 32 * k))).map (fun j =>
            kindVal c.kind c.width (h.pat a (32 * k + j) c.width))))
        let elems := blocks.flatMap (fun x => x.elems)
        let o := collect (elems.zipIdx.map (fun x => (x.2, x.1)))
        let exc := blocks.foldl (fun e x => e.or x.exc) o.exc
        let rs := groupReads a c.width h.inBody
        let codes := blocks.map (fun x => BitVec.ofNat 8 x.code)
        match laneHit h.marks rs with
        | none =>
          let q := { (h.qr d).putScales codes with fmt := t.kind, org := h.origin, nblk := BitVec.ofNat 11 nb }
          (s.setMe (h.putQ d q)).vecDone d t h.origin rs { o with exc := exc }
        | some _ =>
          let mixed := codes.zipIdx.map (fun x =>
            if Config.freeBit s.tick (VLMAX + x.2) then x.1 else (h.qr d).scales.getD x.2 0)
          (s.setMe (h.putQ d ((h.qr d).putScales mixed))).vecDone d t h.origin rs o

/-! ### VPLANES, VSETQ and VQMV -/

/-- VPLANES (R184): the truncated or centred reconstruction of R161 from the top p planes. -/
def execVplanes (d a : Reg) (u : BitVec 1) (p : BitVec 4) (m : KReg) (s : State) : Out :=
  let lost (t : VT) : Nat := t.wa - (p.toNat + 1)
  s.vframe VT.isInt d [a] m false 0
    (fun h t => rowReads a (lost t) t.wa (h.inActive m) ++ maskReads m h.inBody) (fun h t i =>
    let x := h.rd t a i t.wa
    let n := lost t
    t.wr (x / 2 ^ n * 2 ^ n + (if u = 1 ∧ 1 ≤ n then 2 ^ (n - 1) else 0)) true)

/-- VSETQ (R185). -/
def execVsetq (q b : Reg) (s : State) : Out :=
  let h := s.me
  let t := h.vt
  if h.vl = 0 then s.emptyVl
  else
    match h.vcheck (isMxKind t.kind) [] none (h.vstart = 0) with
    | some (c, v) => s.trap c v
    | none =>
      let nb := (h.vl.toNat + 31) / 32
      let v := h.xr b
      let r := { (h.qr q).putScales (List.replicate nb (v.setWidth 8)) with
        org := v.extractLsb' 16 13, fmt := t.kind, nblk := BitVec.ofNat 11 nb }
      s.finish (fun h => { h.putQ q r with vstart := 0 })

/-- VQMV from a scale register to a vector register (R186). -/
def execVqmvQv (d a : Reg) (s : State) : Out :=
  let h := s.me
  let t := h.vt
  if h.vl = 0 then s.emptyVl
  else
    match h.vcheck t.isInt (t.groups [d]) (some t.regs) (h.vstart = 0) with
    | some (c, v) => s.trap c v
    | none =>
      s.vecDone d t 0 (scaleReads a h.inBody)
        (collect (h.body.map (fun i => (i, t.put (if i < 1024 then ((h.qr a).scales.getD i 0).toNat else 0)))))

/-- VQMV from a vector register to a scale register (R186). -/
def execVqmvVq (d a : Reg) (s : State) : Out :=
  let h := s.me
  let t := h.vt
  if h.vl = 0 then s.emptyVl
  else
    match h.vcheck true (t.groups [a]) none (h.vstart = 0) with
    | some (c, v) => s.trap c v
    | none =>
      let n := min h.vl.toNat 1024
      let codes := (List.range n).map (fun j => BitVec.ofNat 8 (h.pat a j 8))
      match laneHit h.marks (groupReads a 8 (fun i => if i < n then some i else none)) with
      | none => s.finish (fun h => { h.putQ d { (h.qr d).putScales codes with nblk := BitVec.ofNat 11 n } with vstart := 0 })
      | some (_, x) =>
        let mixed := codes.zipIdx.map (fun y =>
          if Config.freeBit s.tick (VLMAX + y.2) then y.1 else (h.qr d).scales.getD y.2 0)
        (s.modMe (fun h => h.putQ d ((h.qr d).putScales mixed))).step1.trap Cause.laneSram (laneVal x)

end Sys2Proof.Machine
end

