-- ==== Sys2Proof/Machine/Vmem.lean ====
section
/-! DEFINITION. Vector loads and stores (R205 to R222), the mask, scale and shadow accesses of a run of bytes (R136,
R137, R158, R187), and what they share: the probe, the parts in which a store performs and the outcome of uncorrectable
data. -/

namespace Sys2Proof.Machine

/-! ### The probe (R211, R244) -/

/-- The probe of one byte: the checks of R211 in order, then what R244 and R323 forbid. -/
def State.probeByte (s : State) (a : Acc) (word : BitVec 32) (va : Word) : Except Stop Place :=
  match s.locate (s.ctx s.cur) a .never va with
  | .error e => .error e
  | .ok p =>
    match s.belayCheck s.cur a word [p] with
    | some e => .error e
    | none => .ok p

/-- The probe of bytes in the order given: the first that fails stops. -/
def State.probeBytes (s : State) (a : Acc) (word : BitVec 32) (vas : List Word) : Except Stop (List Place) :=
  eachOk (s.probeByte a word) vas

/-! ### Memory encodings (R205, R206, R208) -/

/-- The bit offset in its first byte and the bytes of array element n at width w (R205). -/
def wordBytes (ea : Word) (w : Nat) (n : Int) : Nat × List Word :=
  let b := n * w
  let shift := (b % 8).toNat
  (shift, (List.range ((shift + w + 7) / 8)).map (fun j : Nat => ea + BitVec.ofInt 64 (b / 8 + j)))

/-- The w bits at a bit offset of bytes. -/
def bitsOf (bs : List Byte) (shift w : Nat) : Nat := leNat bs / 2 ^ shift % 2 ^ w

/-- The address of PLANE group g of stored width w (R206). -/
def planeBase (ea : Word) (w g : Nat) : Word := ea + BitVec.ofNat 64 (g * (16 + 128 * w))

/-- The n addresses from a base up. -/
def addrsFrom (base : Word) (n : Nat) : List Word := (List.range n).map (fun j => base + BitVec.ofNat 64 j)

/-- The 128 bytes of plane p's row of PLANE group g. -/
def rowAddrs (ea : Word) (w g p : Nat) : List Word :=
  addrsFrom (planeBase ea w g + BitVec.ofNat 64 (16 + 128 * (w - 1 - p))) 128

/-! ### Loads -/

/-- An element a load has probed: its places, the places whose bytes hold its value and how they hold it, and
uncorrectable data that the probe met. -/
structure LoadElem where
  idx : Nat
  places : List Place
  data : List Place
  val : List Byte → Nat
  bad : Option Stop

/-- How a load probes element i: the failing check, or the element; the reader holds what the probe read. -/
abbrev Fetch := Nat → Reader → Except Stop LoadElem × Reader

/-- An element in WORD or MX encoding: array element n (R205, R207). -/
def State.fetchWord (s : State) (word : BitVec 32) (ea : Word) (w : Nat) (n : Nat → Int) : Fetch := fun i r =>
  let (shift, vas) := wordBytes ea w (n i)
  match s.probeBytes .read word vas with
  | .error e => (.error e, r)
  | .ok ps => (.ok { idx := i, places := ps, data := ps, val := fun bs => bitsOf bs shift w, bad := none }, r)

/-- An element whose probe waits for bytes of other modules, or has met uncorrectable data. -/
def LoadElem.early (i : Nat) (ps : List Place) (bad : Option Stop) : LoadElem :=
  { idx := i, places := ps, data := [], val := fun _ => 0, bad := bad }

/-- An element in PLANE encoding of stored width w: its header and the rows of planes lo and up that PMASK names (R206,
R211, R213, R215). -/
def State.fetchPlane (s : State) (word : BitVec 32) (ea : Word) (w lo : Nat) : Fetch := fun i r =>
  match s.probeBytes .read word (addrsFrom (planeBase ea w (i / 1024)) 16) with
  | .error e => (.error e, r)
  | .ok hdr =>
    match r.bytes s (hdr.take 2) with
    | (none, r) => (.ok (LoadElem.early i hdr none), r)
    | (some mask, r) =>
      match s.readError s.cur hdr with
      | some e => (.ok (LoadElem.early i hdr (some e)), r)
      | none =>
        let rows := ((List.range' lo (w - lo)).filter (fun p => (leNat mask).testBit p)).reverse
        match s.probeBytes .read word (rows.flatMap (rowAddrs ea w (i / 1024))) with
        | .error e => (.error e, r)
        | .ok ps =>
          let data := (List.range rows.length).filterMap (fun n => ps[128 * n + i % 1024 / 8]?)
          (.ok { idx := i, places := hdr ++ ps, data := data,
                 val := fun bs => ((rows.zip bs).map (fun x => if x.2.getLsbD (i % 8) then 2 ^ (x.1 - lo) else 0)).sum,
                 bad := none }, r)

/-- An element in BCF encoding with the chunk table at `tab` (R208, R211, R217). -/
def State.fetchBcf (s : State) (word : BitVec 32) (ea tab : Word) (w : Nat) : Fetch := fun i r =>
  let c := i / 128
  match s.probeBytes .read word (addrsFrom (tab + BitVec.ofNat 64 (4 * c)) 4) with
  | .error e => (.error e, r)
  | .ok pt =>
    match r.bytes s pt, s.readError s.cur pt with
    | (_, r), some e => (.ok (LoadElem.early i pt (some e)), r)
    | (none, r), none => (.ok (LoadElem.early i pt none), r)
    | (some bt, r), none =>
      let off := leNat bt
      if 2 ^ 31 ≤ off ∨ off % 16 ≠ 0 then (.error (.trap Cause.bcfCorrupt (BitVec.ofNat 64 c)), r)
      else
        let base := ea + BitVec.ofNat 64 off
        match s.probeBytes .read word (addrsFrom base 16) with
        | .error e => (.error e, r)
        | .ok pm =>
          match r.bytes s pm, s.readError s.cur pm with
          | (_, r), some e => (.ok (LoadElem.early i (pt ++ pm) (some e)), r)
          | (none, r), none => (.ok (LoadElem.early i (pt ++ pm) none), r)
          | (some bm, r), none =>
            let bits := leNat bm
            if bits.testBit (i % 128) then
              let (shift, vas) := wordBytes (base + 16) w (countOnes bits (i % 128))
              match s.probeBytes .read word vas with
              | .error e => (.error e, r)
              | .ok ps =>
                (.ok { idx := i, places := pt ++ pm ++ ps, data := ps, val := fun bs => bitsOf bs shift w, bad := none }, r)
            else (.ok (LoadElem.early i (pt ++ pm) none), r)

/-- The probe of elements in ascending order: those that pass, and the first that fails (R211). -/
def probeLoad (f : Fetch) : List Nat → Reader → List LoadElem × Option (Nat × Stop) × Reader
  | [], r => ([], none, r)
  | i :: rest, r =>
    match f i r with
    | (.error e, r) => ([], some (i, e), r)
    | (.ok x, r) =>
      let (xs, e, r) := probeLoad f rest r
      (x :: xs, e, r)

/-- The values of probed elements, or what must still be read at other modules for them. -/
def State.readElems (s : State) : List LoadElem → Reader → List (Nat × Nat) × Reader
  | [], r => ([], r)
  | x :: rest, r =>
    let (bs, r) := r.bytes s x.data
    let (vs, r) := s.readElems rest r
    ((x.idx, x.val (bs.getD [])) :: vs, r)

/-- The lesser of two failing elements, the first on a tie. -/
def lesser (a b : Option (Nat × Stop)) : Option (Nat × Stop) :=
  match a, b with
  | some (i, e), some (j, f) => if i ≤ j then some (i, e) else some (j, f)
  | some x, none => some x
  | none, y => y

/-- LANE_SRAM_UNCORRECTABLE for the least element that meets a mark. -/
def laneStop (marks : List LaneMark) (rs : List LaneRead) : Option (Nat × Stop) :=
  (laneHit marks rs).map (fun x => (x.1, .trap Cause.laneSram (laneVal x.2)))

/-- The least element whose data failed, in a mask or index register or in memory (R219). -/
def State.firstBad (s : State) (rs : List LaneRead) (xs : List LoadElem) : Option (Nat × Stop) :=
  lesser (laneStop s.me.marks rs)
    (xs.findSome? (fun x => (x.bad.orElse (fun _ => s.readError s.cur x.places)).map (fun e => (x.idx, e))))

/-- How a load resolves a failing element (R212, R214, R216): an uncorrectable error is trimmed by no load, met in its page
tables either (R345). -/
def loadTrims (ff : Bool) (first j : Nat) (e : Stop) : Bool :=
  match e with
  | .trap c _ => decide (first < j) && (c == Cause.spadRange || (ff && c != Cause.bcfCorrupt && !uncorrectable c))
  | _ => false

/-- What a read needs of the elements below n alone. -/
def LaneRead.below (n : Nat) (r : LaneRead) : LaneRead :=
  { r with user := fun p => (r.user p).filter (fun i => decide (i < n)) }

/-- The trap of a failing element (R212). -/
def probeStop (j : Nat) (e : Stop) : Stop :=
  match e with
  | .trap c v => .trap c (if c = Cause.spadRange then BitVec.ofNat 64 j else v)
  | e => e

/-- The state that keeps what a probe of reads has translated, while its instruction waits (R201). -/
def State.keepProbe (s : State) (places : List Place) (failed : Option (Nat × Stop)) : State :=
  let x := s.ctx s.cur
  s.keepPins (s.pinsOf x .read places ++ (failed.map (fun f => failPin x .read f.2)).getD [])

/-- A vector load into group d (R211 to R217, R219): `rs` is what it reads of the lane SRAM, `widen` turns a fetched
pattern into the element's planes. What the probe needs of other modules is read first; then come the findings, the pages,
and the bytes of the elements. A trimmed load reads nothing for elements at or above the new vl. -/
def State.vload (s : State) (d : Reg) (k : KReg) (borg : BitVec 13) (ff : Bool) (rs : List LaneRead)
    (widen : VT → Nat → Nat) (f : Fetch) : Out :=
  let h := s.me
  let t := h.vt
  let on := h.body.filter (fun i => h.active k i)
  let (xs, failed, r) := probeLoad f on h.reader
  let places := xs.flatMap (fun x => x.places)
  match s.lockWait s.cur (linesOf r.seen) with
  | some e => e.out s
  | none =>
    if !r.need.isEmpty then (s.keepProbe places failed).askReads r
    else
      match (match failed with
          | some (j, e) => if loadTrims ff (on.headD 0) j e then none else some (probeStop j e)
          | none => none) with
      | some e => e.out s
      | none =>
        let vl : BitVec 16 := match failed with
          | some (j, _) => BitVec.ofNat 16 j
          | none => h.vl
        match s.lockCheck s.cur places with
        | some e => e.out s
        | none =>
          let s1 := ((s.keepProbe places failed).usePages (coreOf s.cur) places).usedPins
          let (vals, r) := s1.readElems xs r
          if !r.need.isEmpty then s1.askReads r
          else
            let ws := vals.map (fun x => (x.1, widen t x.2))
            let off := if t.mz then ({ h with vl := vl }.body.filter (fun i => !h.active k i)).map (fun i => (i, 0)) else []
            match s.firstBad ((rs ++ maskReads k h.inBody).map (LaneRead.below vl.toNat)) xs with
            | none =>
              s1.endRemote.finish (fun h => { { h with vl := vl }.writeGroup d t borg (ws ++ off) with vstart := 0 })
            | some (n, e) =>
              let ws := (ws ++ off).filter (fun w => decide (w.1 < n) || Config.freeBit s.tick w.1)
              e.out (s1.endRemote.step1.modMe (fun h =>
                { h.stopWrite d t borg (n / 1024) ws with vstart := BitVec.ofNat 15 n }))

/-! ### Stores -/

/-- An element a store has probed: the places it touches, whose pages it uses (R198, R211), those of the header of its PLANE
group, those of the bytes it writes, and the bits it writes. -/
structure StoreElem where
  idx : Nat
  touched : List Place
  hdr : List Place
  places : List Place
  ws : List ByteWrite

/-- Masked writes of the w-bit pattern u at a bit offset of places. -/
def bitWrites (ps : List Place) (shift w u : Nat) : List ByteWrite :=
  (ps.zip ((leBytes ps.length (u % 2 ^ w * 2 ^ shift)).zip (leBytes ps.length ((2 ^ w - 1) * 2 ^ shift)))).map
    (fun x => { pa := x.1.pa, val := x.2.1, mask := x.2.2 })

/-- Element i of a store in WORD or MX encoding. -/
def State.putWord (s : State) (word : BitVec 32) (ea : Word) (w : Nat) (n : Nat → Int) (data : Nat → Nat) (i : Nat) :
    Except Stop StoreElem :=
  let (shift, vas) := wordBytes ea w (n i)
  match s.probeBytes .write word vas with
  | .error e => .error e
  | .ok ps => .ok { idx := i, touched := ps, hdr := [], places := ps, ws := bitWrites ps shift w (data i) }

/-- Element i of a store in PLANE encoding: its header and every row are probed, its bit of every row is written (R206,
R211). -/
def State.putPlane (s : State) (word : BitVec 32) (ea : Word) (w : Nat) (data : Nat → Nat) (i : Nat) :
    Except Stop StoreElem :=
  let rows := (List.range w).reverse
  match s.probeBytes .write word
      (addrsFrom (planeBase ea w (i / 1024)) 16 ++ rows.flatMap (rowAddrs ea w (i / 1024))) with
  | .error e => .error e
  | .ok ps =>
    let bits := rows.zipIdx.filterMap (fun x => (ps[16 + 128 * x.2 + i % 1024 / 8]?).map (fun p => (x.1, p)))
    .ok { idx := i, touched := ps, hdr := ps.take 16, places := bits.map (fun x => x.2),
          ws := bits.map (fun x =>
            { pa := x.2.pa, val := if (data i).testBit x.1 then BitVec.twoPow 8 (i % 8) else 0,
              mask := BitVec.twoPow 8 (i % 8) }) }

/-- The header update of a PLANE group: the planes that are 1 in the elements written are set in PMASK, WM1 becomes
w − 1 and the bits above become 0 (R206). -/
def headerWrites (w planes : Nat) (hdr : List Place) : List ByteWrite :=
  (hdr.zip (List.range 16)).map (fun x =>
    if x.2 < 2 then
      let b := BitVec.ofNat 8 (planes / 256 ^ x.2)
      { pa := x.1.pa, val := b, mask := b }
    else { pa := x.1.pa, val := if x.2 = 2 then BitVec.ofNat 8 (w - 1) else 0, mask := 0xFF })

/-- The writes of PLANE elements, one by one, each group's header before its first element. -/
def planeParts (w : Nat) (data : Nat → Nat) (all : List StoreElem) : Option Nat → List StoreElem → List (List ByteWrite)
  | _, [] => []
  | last, x :: rest =>
    let g := x.idx / 1024
    let hdr := if last = some g then [] else
      [headerWrites w ((all.filter (fun y => y.idx / 1024 == g)).foldl (fun m y => m ||| data y.idx % 2 ^ w) 0) x.hdr]
    hdr ++ x.ws :: planeParts w data all (some g) rest

/-- The writes of elements in WORD or MX encoding, one by one. -/
def wordParts (xs : List StoreElem) : List (List ByteWrite) := xs.map (fun x => x.ws)

/-- Writes with the bits removed that a later one of the same instruction overwrites (R11, R237). -/
def settle : List ByteWrite → List ByteWrite
  | [] => []
  | w :: rest =>
    let mask := w.mask &&& ~~~maskOf w.pa rest
    if mask = 0 then settle rest else { w with mask := mask } :: settle rest

/-- Writes of one part with neighbours of one byte joined. -/
def joinRun : List ByteWrite → List ByteWrite
  | [] => []
  | w :: rest =>
    match joinRun rest with
    | [] => [w]
    | x :: more =>
      if x.pa = w.pa then { pa := w.pa, val := mixByte w.val x.val x.mask, mask := w.mask ||| x.mask } :: more
      else w :: x :: more

/-- The writes that become visible as one: the bits that count (R237). -/
def asOne (ws : List ByteWrite) : List ByteWrite := joinRun (settle ws)

/-- Whether two lists of writes write a common bit. -/
def sharesBit (a b : List ByteWrite) : Bool := a.any (fun x => b.any (fun y => x.pa == y.pa && x.mask &&& y.mask != 0))

/-- How many of the parts after `p` reach to the last that `shares` something with it. -/
def reach (shares : List ByteWrite → List ByteWrite → Bool) (p : List ByteWrite) (rest : List (List ByteWrite)) : Nat :=
  (rest.zipIdx.filter (fun q => shares p q.1)).foldl (fun m q => max m (q.2 + 1)) 0

/-- Parts joined so that no two that share something stand apart, nor any part between them. -/
def joinParts (shares : List ByteWrite → List ByteWrite → Bool) : List (List ByteWrite) → List (List ByteWrite)
  | [] => []
  | p :: rest =>
    let more := joinParts shares rest
    let n := reach shares p more
    (p ++ (more.take n).flatten) :: more.drop n

/-- The parts of an ordered store, elements that must become visible together joined: a bit that a later element
overwrites shows the winner's value alone, and only with every element below the winner (R236, R237). -/
def bindParts (ps : List (List ByteWrite)) : List (List ByteWrite) := joinParts sharesBit ps

/-- Two parts write bytes of one line or local word that holds uncorrectable data. -/
def State.sharesBad (s : State) (p q : List ByteWrite) : Bool :=
  p.any (fun x => q.any (fun y =>
    (x.pa / 128 == y.pa / 128 && (s.badLineOf x.pa).isSome) || (x.pa / 8 == y.pa / 8 && (s.markAt x.pa).isSome)))

/-- The parts of a store, those joined that write one line or local word with uncorrectable data: its one write of the
line mends it when it covers it (R228, R346). -/
def State.mendParts (s : State) (ps : List (List ByteWrite)) : List (List ByteWrite) :=
  if s.clean then ps else joinParts s.sharesBad ps

/-- The lines of a part. -/
def partLines (p : List ByteWrite) : List Nat := linesOf (p.map (fun w => w.pa))

/-- A part that lies on one module. -/
def oneModule (p : List ByteWrite) : Bool := p.all (fun w => w.pa / 2 ^ 44 == ((p.map (fun x => x.pa)).headD 0) / 2 ^ 44)

/-- Neighbouring parts joined while they stay on the line where the first ends (R228: one entry for each line). A part with
bytes on two modules stays by itself, for the bytes of one perform before those of the other (R218, R236). -/
def packLines : List (List ByteWrite) → List (List ByteWrite)
  | [] => []
  | p :: rest =>
    match packLines rest with
    | [] => [p]
    | q :: more =>
      if (partLines q = [(partLines p).getLastD 0] ∨ partLines q = partLines p) ∧ oneModule p = true ∧ oneModule q = true then
        (p ++ q) :: more
      else p :: q :: more

/-- The parts in which an ordered store performs its elements, in order. -/
def orderedParts (ps : List (List ByteWrite)) : List (List ByteWrite) :=
  (packLines ((bindParts ps).filter (fun p => !p.isEmpty))).map asOne

/-- Parts without the bits that a later part overwrites (R11, R237). -/
def settleParts : List (List ByteWrite) → List (List ByteWrite)
  | [] => []
  | p :: rest =>
    (p.filterMap (fun w =>
      let mask := w.mask &&& ~~~maskOf w.pa rest.flatten
      if mask = 0 then none else some { w with mask := mask })) :: settleParts rest

/-- The parts in which an unordered store performs its elements, each element whole (R218, R228, R254). -/
def unorderedParts (ps : List (List ByteWrite)) : List (List ByteWrite) :=
  (packLines ((settleParts ps).filter (fun p => !p.isEmpty))).map asOne

/-- Writes as one entry for each line (R228). -/
def lineParts (ps : List (List ByteWrite)) : List (List ByteWrite) :=
  let ws := settle ps.flatten
  (linesOf (ws.map (fun w => w.pa))).map (fun l => joinRun (ws.filter (fun w => w.pa / 128 == l)))

/-- The probe of a store's elements: those that pass before the first that fails; with `on`, those that pass after it
too. -/
def probeStore (f : Nat → Except Stop StoreElem) (on : Bool) : List Nat → List StoreElem × Option (Nat × Stop)
  | [] => ([], none)
  | i :: rest =>
    match f i with
    | .error e =>
      (if on then (probeStore f on rest).1 else [], some (i, e))
    | .ok x =>
      let (xs, e) := probeStore f on rest
      (x :: xs, e)

/-- Every place that an element writes. -/
def StoreElem.all (x : StoreElem) : List Place := x.hdr ++ x.places

/-- The lines that the executing hart's open strip has staged, when what it writes is staged (R323). -/
def State.stagedLines (s : State) : Option (List Nat) :=
  if s.inBelay s.cur then (s.openStrip s.cur).map OpenStrip.lines else none

/-- The elements that stage no line past the strip's capacity, given the lines staged before; and the first that would,
with its first byte there (R323). With `on`, elements after that one are taken too. -/
def State.fitStage (s : State) (on : Bool) : List Nat → List StoreElem → List StoreElem × Option (Nat × Stop)
  | _, [] => ([], none)
  | seen, x :: rest =>
    let glob := x.all.filter (fun p => s.isGlobal p.pa)
    match firstFull seen (glob.map (fun p => p.pa)) with
    | some pa =>
      (if on then (s.fitStage on seen rest).1 else [],
        some (x.idx, .trap Cause.belayFull (((glob.find? (fun p => p.pa == pa)).map (fun p => p.va)).getD 0)))
    | none =>
      let (xs, e) := s.fitStage on (seen ++ (linesOf (glob.map (fun p => p.pa))).filter (fun l => !seen.contains l)) rest
      (x :: xs, e)

/-- Elements and the first past the strip's capacity: all of them where nothing is staged. -/
def State.fits (s : State) (on : Bool) (xs : List StoreElem) : List StoreElem × Option (Nat × Stop) :=
  match s.stagedLines with
  | none => (xs, none)
  | some seen => s.fitStage on seen xs

/-- Uncorrectable data that element x would merge with when the writes `ws` perform with it. -/
def State.elemMerge (s : State) (ws : List ByteWrite) (x : StoreElem) : Option Stop :=
  x.all.findSome? (fun p => s.mergesBad s.cur ws p.pa)

/-- Elements from which those are dropped that would merge with uncorrectable data, until none is left that would: an
ordered store keeps the elements below the first of them. `lay` gives the writes of elements. -/
def State.soundElems (s : State) (ordered : Bool) (lay : List StoreElem → List (List ByteWrite)) :
    Nat → List StoreElem → List StoreElem × Option (Nat × Stop)
  | 0, xs => (xs, none)
  | n + 1, xs =>
    let ws := (lay xs).flatten
    match xs.findSome? (fun x => (s.elemMerge ws x).map (fun e => (x.idx, e))) with
    | none => (xs, none)
    | some (k, e) =>
      let kept := if ordered then xs.filter (fun x => decide (x.idx < k)) else xs.filter (fun x => x.idx != k)
      let (ys, f) := s.soundElems ordered lay n kept
      (ys, lesser f (some (k, e)))

/-- The cause and tval of a trap. -/
def Stop.cause : Stop → BitVec 7 × Word
  | .trap c v => (c, v)
  | _ => (0, 0)

/-- The elements of a vector store that perform, and the element at which it traps: those below the least element that
fails a check of its own, and in an unordered store a free choice of the others that fail none (R212, R218). -/
def State.storeResult (s : State) (rs : List LaneRead) (ordered : Bool) (lay : List StoreElem → List (List ByteWrite))
    (xs : List StoreElem) (failed : Option (Nat × Stop)) : List StoreElem × Option (Nat × Stop) :=
  let readable := xs.filter (fun x => !s.me.marks.any (fun m => rs.any (fun r => r.meets m == some x.idx)))
  let below (e : Option (Nat × Stop)) (l : List StoreElem) : List StoreElem :=
    match e with
    | some (k, _) => l.filter (fun x => decide (x.idx < k))
    | none => l
  let e1 := lesser (laneStop s.me.marks rs) (failed.map (fun f => (f.1, probeStop f.1 f.2)))
  let (fit, e2) := s.fits false (below e1 readable)
  let (low, e3) := s.soundElems true lay fit.length fit
  let stop := lesser (lesser e2 e3) e1
  match stop, ordered with
  | some (k, _), false =>
    let extra := readable.filter (fun x => decide (k < x.idx) && Config.freeBit s.tick x.idx)
    ((s.soundElems false lay readable.length (s.fits true (low ++ extra)).1).1, stop)
  | _, _ => (low, stop)

/-- How a store ends once its parts have performed (R218). -/
def State.endStore (s : State) (stop : Option (Nat × BitVec 7 × Word)) : Out :=
  match stop with
  | none => s.finish (fun h => { h with vstart := 0 })
  | some (k, c, v) => (s.step1.modMe (fun h => { h with vstart := BitVec.ofNat 15 k })).trap c v

/-- A vector store (R211, R212, R218): `lay` gives the writes of elements one by one. -/
def State.vstore (s : State) (rs : List LaneRead) (k : KReg) (ordered : Bool) (f : Nat → Except Stop StoreElem)
    (lay : List StoreElem → List (List ByteWrite)) : Out :=
  match s.me.remote with
  | .storing r => s.goOn r State.endStore
  | _ =>
    let h := s.me
    let (xs, failed) := probeStore f (!ordered) (h.body.filter (fun i => h.active k i))
    match (match failed with
        | some (j, .trap c v) => if c = Cause.spadRange then none else some (probeStop j (.trap c v))
        | some (_, e) => some e
        | none => none) with
    | some e => e.out s
    | none =>
      let (done, stop) := s.storeResult (rs ++ maskReads k h.inBody) ordered lay xs failed
      s.startStore (done.flatMap (fun x => x.touched)) ordered
        ((if ordered then orderedParts else unorderedParts) (s.mendParts (lay done)))
        (stop.map (fun x => (x.1, x.2.cause))) State.endStore

/-! ### The forms (Table 7.8) -/

/-- The encodings of mfmt (Table 7.6). -/
inductive Enc where
  | word | plane | mx | bcf
  deriving DecidableEq, Repr

/-- The encoding mfmt selects. -/
def Hart.enc (h : Hart) : Enc :=
  match h.mfmt.toNat with
  | 0 => .word
  | 1 => .plane
  | 2 => .mx
  | _ => .bcf

/-- Whether a form that accepts the encodings `ok` may run under mfmt and vtype (R209). -/
def Hart.encOk (h : Hart) (ok : List Enc) : Bool :=
  ok.contains h.enc && (h.enc != .plane || h.vt.ig == 0) && (h.enc != .mx || isMxKind h.vt.kind)

/-- The address that is misaligned for the encoding, when one is (R210, check 6). -/
def Hart.memAlign (h : Hart) (ea : Word) (tab : Option Word) : Option Word :=
  let w := h.vt.wd
  match h.enc with
  | .word | .mx => if [8, 16, 32, 64].contains w && ea.toNat % (w / 8) != 0 then some ea else none
  | .plane => if ea.toNat % 16 ≠ 0 then some ea else none
  | .bcf =>
    if ea.toNat % 16 ≠ 0 then some ea
    else match tab with
      | some t => if t.toNat % 4 ≠ 0 then some t else none
      | none => none

/-- The checks of R210 in order. -/
def Hart.memCheck (h : Hart) (typeOk : Bool) (ok : List Enc) (groups : List (Reg × Nat)) (dest : Option Nat) (ea : Word)
    (tab : Option Word) : Option (BitVec 7 × Word) :=
  if h.vt.ill || !typeOk then some (Cause.vtypeBad, h.vtype.setWidth 64)
  else if !h.encOk ok then some (Cause.mfmtBad, h.mfmt.setWidth 64)
  else
    match h.misaligned groups dest with
    | some r => some (Cause.vgroupAlign, regVal r)
    | none =>
      if !h.startOk then some (Cause.vstartRange, h.vstart.setWidth 64)
      else
        match (if h.enc = .mx then h.mxCheck else none) with
        | some x => some x
        | none => (h.memAlign ea tab).map (fun a => (Cause.misalignedData, a))

/-- A load form in WORD, MX or PLANE encoding whose element i is array element n(i). -/
def State.loadForm (s : State) (word : BitVec 32) (ok : List Enc) (v a : Reg) (index : Option Reg) (k : KReg) (ff : Bool)
    (n : Nat → Int) : Out :=
  let h := s.me
  let t := h.vt
  let ea := h.xr a
  if h.vl = 0 then s.emptyVl
  else
    match h.memCheck true ok (t.groups (v :: index.toList)) (some t.regs) ea none with
    | some (c, x) => s.trap c x
    | none =>
      let idx := (index.toList).flatMap (fun r => groupReads r t.wb (h.inActive k))
      let borg := if h.enc = .mx then h.origin else 0
      if h.enc = .plane then s.vload v k borg ff idx (fun t u => t.spread u) (s.fetchPlane word ea t.wd 0)
      else s.vload v k borg ff idx (fun t u => t.spread u) (s.fetchWord word ea t.wd n)

/-- A store form in WORD, MX or PLANE encoding whose element i is array element n(i). -/
def State.storeForm (s : State) (word : BitVec 32) (ok : List Enc) (v a : Reg) (index : Option Reg) (k : KReg)
    (ordered : Bool) (n : Nat → Int) : Out :=
  let h := s.me
  let t := h.vt
  let ea := h.xr a
  if h.vl = 0 then s.emptyVl
  else
    match h.memCheck true ok (t.groups (v :: index.toList)) none ea none with
    | some (c, x) => s.trap c x
    | none =>
      let src := groupReads v t.wd (h.inActive k) ++ (index.toList).flatMap (fun r => groupReads r t.wb (h.inActive k))
      let data := fun i => h.pat v i t.wd
      if h.enc = .plane then
        s.vstore src k true (s.putPlane word ea t.wd data) (fun xs => planeParts t.wd data xs none xs)
      else s.vstore src k ordered (s.putWord word ea t.wd n data) wordParts

/-- Element i is array element i. -/
def unitIdx (i : Nat) : Int := i
/-- Element i is array element i × sext(x[s], 64). -/
def Hart.strideIdx (h : Hart) (x : Reg) (i : Nat) : Int := i * (h.xr x).toInt
/-- Element i is the array element that the index group names. -/
def Hart.gatherIdx (h : Hart) (x : Reg) (i : Nat) : Int := h.pat x i h.vt.wb

/-- VLD. -/
def execVld (v a : Reg) (m : KReg) (s : State) : Out :=
  s.loadForm (packVM 0x2A v a 0 m 0x0 0) [.word, .plane, .mx] v a none m false unitIdx
/-- VLDS. -/
def execVlds (v a x : Reg) (m : KReg) (s : State) : Out :=
  s.loadForm (packVM 0x2A v a x m 0x4 0) [.word] v a none m false (s.me.strideIdx x)
/-- VLDX. -/
def execVldx (v a x : Reg) (m : KReg) (s : State) : Out :=
  s.loadForm (packVM 0x2A v a x m 0x8 0) [.word] v a (some x) m false (s.me.gatherIdx x)
/-- VLDFF. -/
def execVldff (v a : Reg) (m : KReg) (s : State) : Out :=
  s.loadForm (packVM 0x2A v a 0 m 0x1 0) [.word, .mx] v a none m true unitIdx

/-- VLDC. -/
def execVldc (v a x : Reg) (m : KReg) (s : State) : Out :=
  let h := s.me
  let t := h.vt
  let ea := h.xr a
  let tab := h.xr x
  if h.vl = 0 then s.emptyVl
  else
    match h.memCheck true [.bcf] (t.groups [v]) (some t.regs) ea (some tab) with
    | some (c, y) => s.trap c y
    | none =>
      s.vload v m 0 false [] (fun t u => t.spread u) (s.fetchBcf (packVM 0x2A v a x m 0x2 0) ea tab t.wd)

/-- VLDP (R215): p is the planes field plus 1; the p-bit truncation is extended from its own top bit for SINT. -/
def execVldp (v a : Reg) (m : KReg) (p : BitVec 4) (s : State) : Out :=
  let h := s.me
  let t := h.vt
  let ea := h.xr a
  let n := p.toNat + 1
  let sw := h.vtype.toNat / 16 % 16 + 1
  let dw := h.vtype.toNat % 16 + 1
  if h.vl = 0 then s.emptyVl
  else
    match h.memCheck (n ≤ sw && n ≤ dw) [.plane] (t.groups [v]) (some t.regs) ea none with
    | some (c, y) => s.trap c y
    | none =>
      s.vload v m 0 false [] (fun t u => t.spread (t.trunc (extPat t.signed u n)))
        (s.fetchPlane (packVM 0x2A v a 0 m 0x3 p) ea sw (sw - n))

/-- VST. -/
def execVst (v a : Reg) (m : KReg) (s : State) : Out :=
  s.storeForm (packVM 0x2B v a 0 m 0x0 0) [.word, .plane, .mx] v a none m true unitIdx
/-- VSTS. -/
def execVsts (v a x : Reg) (m : KReg) (s : State) : Out :=
  s.storeForm (packVM 0x2B v a x m 0x4 0) [.word] v a none m true (s.me.strideIdx x)
/-- VSTX. -/
def execVstx (v a x : Reg) (m : KReg) (s : State) : Out :=
  s.storeForm (packVM 0x2B v a x m 0x8 0) [.word] v a (some x) m true (s.me.gatherIdx x)
/-- VSTXU. -/
def execVstxu (v a x : Reg) (m : KReg) (s : State) : Out :=
  s.storeForm (packVM 0x2B v a x m 0xC 0) [.word] v a (some x) m false (s.me.gatherIdx x)

/-! ### Runs of bytes: KLD, KST, QLD, QST, RSHSAVE, RSHLOAD (R136, R137, R158, R187) -/

/-- The bytes at places that the executing instruction has located are read, the pages used, and the bytes handed to
`k`; bytes of other modules stay read while the instruction goes on. -/
def State.readPlaces (s : State) (ps : List Place) (k : State → List Byte → Out) : Out :=
  match s.lockCheck s.cur ps with
  | some e => e.out s
  | none =>
    match s.readError s.cur ps with
    | some e => e.out s
    | none =>
      let s1 := ((s.keepProbe ps none).usePages (coreOf s.cur) ps).usedPins
      match s.me.reader.bytes s1 ps with
      | (some bs, _) => k s1 bs
      | (none, r) => s1.askReads r

/-- A run of n bytes at ea is read whole: the probe, the pages, then the bytes handed to `k`; an uncorrectable error
changes nothing (R137, R187). -/
def State.readRun (s : State) (word : BitVec 32) (ea : Word) (n : Nat) (k : State → List Byte → Out) : Out :=
  match s.probeBytes .read word (addrsFrom ea n) with
  | .error e => e.out s
  | .ok ps => s.readPlaces ps (fun t bs => k t.endRemote bs)

/-- A run of bytes is written at ea as an ordered store, each byte an element; a stop leaves the bytes below the failing
one performed or staged (R137, R158, R187, R237, R323). `lane` is the first byte whose source register is bad. -/
def State.writeRun (s : State) (word : BitVec 32) (ea : Word) (bs : List Byte) (lane : Option (Nat × Stop))
    (k : State → Out) : Out :=
  let ends (t : State) (stop : Option (Nat × BitVec 7 × Word)) : Out :=
    match stop with
    | none => k t
    | some (_, c, v) => t.trap c v
  match s.me.remote with
  | .storing r => s.goOn r ends
  | _ =>
    match s.probeBytes .write word (addrsFrom ea bs.length) with
    | .error e => e.out s
    | .ok ps =>
      let xs : List StoreElem := (ps.zip bs).zipIdx.map (fun x =>
        { idx := x.2, touched := [x.1.1], hdr := [], places := [x.1.1], ws := [{ pa := x.1.1.pa, val := x.1.2, mask := 0xFF }] })
      let ys := match lane with
        | some (n, _) => xs.filter (fun x => decide (x.idx < n))
        | none => xs
      let (fit, full) := s.fits false ys
      let (done, bad) := s.soundElems true wordParts fit.length fit
      let stop := lesser (lesser full bad) lane
      s.startStore (done.flatMap (fun x => x.places)) true (orderedParts (wordParts done))
        (stop.map (fun x => (x.1, x.2.cause))) ends

/-- The effective address of a MEM-format vector word. -/
def Hart.eaOf (h : Hart) (a : Reg) (imm : BitVec 13) : Word := h.xr a + imm.signExtend 64

/-- The checks of KLD and KST before the probe (R136). -/
def State.kmemCheck (s : State) (ea : Word) (own : Option KReg) : Option (BitVec 7 × Word) :=
  let h := s.me
  match h.vcheck true [] none h.startOk with
  | some x => some x
  | none =>
    if ea.toNat % 8 ≠ 0 then some (Cause.misalignedData, ea)
    else
      match own.bind (fun k => s.ownedCheck k) with
      | some v => some (Cause.maskOwned, v)
      | none => none

/-- KLD (R136). -/
def execKld (k : KReg) (a : Reg) (imm : BitVec 13) (s : State) : Out :=
  let h := s.me
  let ea := h.eaOf a imm
  if h.vl = 0 then s.emptyVl
  else
    match s.kmemCheck ea (some k) with
    | some (c, v) => s.trap c v
    | none =>
      let lo := h.vstart.toNat / 8
      let n := (h.vl.toNat - 1) / 8 + 1 - lo
      s.readRun (packM13 0x2D (kField k) a 2 imm) (ea + BitVec.ofNat 64 lo) n (fun t bs =>
        let u := leNat bs
        t.finish (fun h =>
          { h.setK k (putBitsK (h.kr k) (h.body.map (fun i => (i, u.testBit (i - 8 * lo))))) with vstart := 0 }))

/-- KST (R136). -/
def execKst (k : KReg) (a : Reg) (imm : BitVec 13) (s : State) : Out :=
  let h := s.me
  let ea := h.eaOf a imm
  if h.vl = 0 then s.emptyVl
  else
    match s.kmemCheck ea none with
    | some (c, v) => s.trap c v
    | none =>
      let lo := h.vstart.toNat / 8
      let n := (h.vl.toNat - 1) / 8 + 1 - lo
      let u := (h.sampled k).toNat % 2 ^ h.vl.toNat / 2 ^ (8 * lo)
      let lane := laneStop h.marks (kReads k (fun i => if 8 * lo ≤ i ∧ i < h.vl.toNat then some (i / 8 - lo) else none))
      s.writeRun (packM13 0x2D (kField k) a 3 imm) (ea + BitVec.ofNat 64 lo) (leBytes n u) lane (fun t =>
        t.finish (fun h => { h with vstart := 0 }))

/-- QLD (R187). -/
def execQld (q a : Reg) (imm : BitVec 13) (s : State) : Out :=
  let h := s.me
  let t := h.vt
  if h.vl = 0 then s.emptyVl
  else
    match (h.vcheck (isMxKind t.kind) [] none (h.vstart = 0)).orElse (fun _ => h.mxCheck) with
    | some (c, v) => s.trap c v
    | none =>
      let n := (h.vl.toNat + 31) / 32
      s.readRun (packM13 0x2D q a 0 imm) (h.eaOf a imm) n (fun t bs =>
        t.finish (fun h =>
          { h.putQ q { (h.qr q).putScales bs with org := h.origin, fmt := h.vt.kind, nblk := BitVec.ofNat 11 n }
            with vstart := 0 }))

/-- QST (R187). -/
def execQst (q a : Reg) (imm : BitVec 13) (s : State) : Out :=
  let h := s.me
  if h.vl = 0 then s.emptyVl
  else
    match h.vcheck true [] none (h.vstart = 0) with
    | some (c, v) => s.trap c v
    | none =>
      let n := (h.vl.toNat + 31) / 32
      let lane := laneStop h.marks (scaleReads q (fun j => if j < n then some j else none))
      s.writeRun (packM13 0x2D q a 1 imm) (h.eaOf a imm) ((h.qr q).scales.toList.take n) lane (fun t =>
        t.finish (fun h => { h with vstart := 0 }))

/-- The shadow's header doubleword (Table 5.6). -/
def Shadow.header (r : Shadow) : Word :=
  r.word ++ boolBit r.valid ++ (0 : BitVec 11) ++ r.order ++ r.vl

/-- The 272-byte image of the shadow. -/
def Shadow.image (r : Shadow) : List Byte :=
  (r.header :: r.pc :: r.slots.toList).flatMap (fun w => leBytes 8 w.toNat)

/-- Doubleword n of an image. -/
def dwordAt (bs : List Byte) (n : Nat) : Word := BitVec.ofNat 64 (leNat ((bs.drop (8 * n)).take 8))

/-- The shadow of an image: reserved header bits are ignored (R158). -/
def Shadow.ofImage (bs : List Byte) : Shadow :=
  let w := dwordAt bs 0
  { word := w.extractLsb' 32 32, valid := w.getLsbD 31, order := w.extractLsb' 16 4, vl := w.setWidth 16,
    pc := dwordAt bs 1, slots := Vector.ofFn (fun i : Fin 32 => dwordAt bs (2 + i.val)) }

/-- RSHSAVE (R158). -/
def execRshsave (a : Reg) (s : State) : Out :=
  let h := s.me
  let ea := h.xr a
  if ea.toNat % 8 ≠ 0 then s.trap Cause.misalignedData ea
  else
    let lane := (laneStop h.marks (shadowReads 32)).map (fun x => (16 + 8 * x.1, x.2))
    s.writeRun (packV 0x28 0 a 0 0 0 0x0C) ea h.shadow.image lane (fun t => t.done)

/-- RSHLOAD (R158). -/
def execRshload (a : Reg) (s : State) : Out :=
  let ea := s.me.xr a
  if ea.toNat % 8 ≠ 0 then s.trap Cause.misalignedData ea
  else
    s.readRun (packV 0x28 0 a 0 0 0 0x0D) ea 272 (fun t bs =>
      t.finish (fun h => { h with shadow := Shadow.ofImage bs }))

end Sys2Proof.Machine
end

