-- ==== Sys2Proof/Machine/Vamo.lean ====
section
/-! DEFINITION. Vector atomics with their line locks and reservations (R249 to R253). -/

namespace Sys2Proof.Machine

/-- What a VAMO operation makes of memory m and data d of width w, by operation number, with its exceptions
(Table 8.3). -/
def vamoCombine (op : Nat) (kind : BitVec 4) (w m d : Nat) : Nat × Exc :=
  match op with
  | 0 =>
    match isFpKind kind, fmtOfKind kind with
    | true, some f => fpOp f .rne .add m d 0
    | _, _ => ((m + d) % 2 ^ w, .none)
  | 1 =>
    match isFpKind kind, fmtOfKind kind with
    | true, some f => fpOp f .rne .min m d 0
    | _, _ => ((if extPat (kind == 0) m w < extPat (kind == 0) d w then m else d), .none)
  | 2 =>
    match isFpKind kind, fmtOfKind kind with
    | true, some f => fpOp f .rne .max m d 0
    | _, _ => ((if extPat (kind == 0) m w < extPat (kind == 0) d w then d else m), .none)
  | 3 => (m &&& d, .none)
  | 4 => (m ||| d, .none)
  | 5 => (m ^^^ d, .none)
  | _ => (d, .none)

/-- An element of a VAMO: its index, the physical address of its first byte and its data. -/
structure AmoElem where
  idx : Nat
  pa : Nat
  data : Nat
  deriving DecidableEq, Repr

/-- Elements combined in ascending order on a memory: what they write, the old values, the exceptions (R251: elements of
one address merge in ascending element order). -/
def vamoRun (op : Nat) (kind : BitVec 4) (w : Nat) : Memory → List AmoElem → List ByteWrite × List (Nat × Nat) × Exc
  | _, [] => ([], [], .none)
  | m, x :: rest =>
    let old := leNat ((List.range (w / 8)).map (fun i => memGet m (x.pa + i)))
    let (new, e) := vamoCombine op kind w old x.data
    let ws := writesAt x.pa (leBytes (w / 8) new)
    let (more, olds, e') := vamoRun op kind w (memPuts m ws) rest
    (ws ++ more, (x.idx, old) :: olds, e.or e')

/-- The probe of a VAMO's elements, each as a write: all of them with their places, or the first that fails (R250). -/
def State.vamoProbe (s : State) (word : BitVec 32) (nb : Nat) (addr : Nat → Word) (on : List Nat) :
    Except (Nat × Stop) (List (Nat × List Place)) :=
  eachOk (fun i =>
    match s.probeBytes .write word (addrsFrom (addr i) nb) with
    | .error e => .error (i, e)
    | .ok ps => .ok (i, ps)) on

/-! ### Reservations (R252) -/

/-- The slice, of 64, in which a line stays that a leaf of region `home` placed (R202). -/
def sliceOf (home line : Nat) : Nat := 8 * (home % 8) + (line % 8 ^^^ line / 8 % 8)

/-- Lines a slice can hold locked (R252). -/
def sliceRoom : Nat := 65536

/-- The lines that other modules hold locked in a slice. -/
def State.heldIn (s : State) (slice : Nat) : Nat :=
  (s.locks.filter (fun l => l.slice == slice && match l.holder with
    | some (.module _) => true
    | _ => false)).length

/-- The lines for which granted reservations keep room in a slice: a VAMO of this module keeps its own until it ends. -/
def State.grantedIn (s : State) (slice : Nat) : Nat :=
  ((s.reservations.filter (fun r => r.slice == slice && r.granted)).map (fun r => r.lines)).sum

/-- A slice has room for n lines more, and no reservation waits for room in it. -/
def State.roomIn (s : State) (slice n : Nat) : Bool :=
  decide (s.heldIn slice + s.grantedIn slice + n ≤ sliceRoom) &&
    !s.reservations.any (fun r => r.slice == slice && !r.granted)

/-- The slice of a line, by the region HOME of the leaf that placed it: a line of a local memory has none (R252). -/
def lineSlice (p : Part) (home line : Nat) : Nat :=
  if regionOf p (line * 128 % 2 ^ 44) = .global then sliceOf home line else noSlice

/-- The lines of places, each once, with their slices. -/
def slicedLines (p : Part) (ps : List Place) : List (Nat × Nat) :=
  (linesOf (ps.map (fun p => p.pa))).map (fun l =>
    (l, lineSlice p (((ps.find? (fun p => p.pa / 128 == l)).map (fun p => p.home)).getD 0) l))

/-- The slices in which lines lie, each once. -/
def slicesOf (lines : List (Nat × Nat)) : List Nat := ((lines.map (fun l => l.2)).eraseDups).filter (fun k => k != noSlice)

/-- The lines of a list that lie in a slice. -/
def inSlice (lines : List (Nat × Nat)) (k : Nat) : Nat := (lines.filter (fun l => l.2 == k)).length

/-- Hart h reserves room for lines in each of their slices: a reservation that does not fit waits (R252). -/
def State.reserve (s : State) (h : HartId) (lines : List (Nat × Nat)) : State :=
  let new := (slicesOf lines).filter (fun k => !s.reservations.any (fun r => r.hart == h && r.slice == k))
  { s with reservations := s.reservations ++ new.map (fun k =>
      { slice := k, hart := h, lines := inSlice lines k, granted := s.roomIn k (inSlice lines k) }) }

/-- Every reservation of hart h for lines is granted. -/
def State.admitted (s : State) (h : HartId) (lines : List (Nat × Nat)) : Bool :=
  (slicesOf lines).all (fun k => s.reservations.any (fun r => r.hart == h && r.slice == k && r.granted))

/-- The global key of a line: the fabric number of its module, then its address (R252). -/
def State.lockKey (s : State) (line : Nat) : Nat := (s.moduleOf (line * 128)).toNat * 2 ^ 37 + line % 2 ^ 37

/-- A line inserted among lines of rising key. -/
def State.insertLine (s : State) (x : Nat × Nat) : List (Nat × Nat) → List (Nat × Nat)
  | [] => [x]
  | y :: rest => if s.lockKey x.1 < s.lockKey y.1 then x :: y :: rest else y :: s.insertLine x rest

/-- What a VAMO does before its elements at places perform: it reserves room module by module, in ascending module number,
and then locks its lines in ascending key (R252). -/
def State.vamoSteps (s : State) (ps : List Place) : List VamoStep :=
  let lines := (slicedLines s.part ps).foldr s.insertLine []
  ((lines.map (fun l => l.1 / 2 ^ 37)).eraseDups.filterMap (fun f =>
    let mine := lines.filter (fun l => l.1 / 2 ^ 37 == f && l.2 != noSlice)
    if mine.isEmpty then none else some (.reserve f mine))) ++ lines.map (fun l => .lock l.1 l.2)

/-! ### VAMO -/

/-- The kinds an operation accepts (Table 8.3). -/
def vamoKind (op : Nat) (t : VT) : Bool :=
  (if op < 3 then decide (t.kind.toNat ≤ 5) else decide (t.kind.toNat ≤ 11)) && [8, 16, 32, 64].contains t.wd

/-- The checks of R250 in order, but for BELAY_FORBIDDEN and the probe. -/
def Hart.vamoCheck (h : Hart) (op : Nat) (v x : Reg) (dest : Option Nat) (ea : Word) : Option (BitVec 7 × Word) :=
  let t := h.vt
  if t.ill || !vamoKind op t then some (Cause.vtypeBad, h.vtype.setWidth 64)
  else if h.enc ≠ .word then some (Cause.mfmtBad, h.mfmt.setWidth 64)
  else
    match h.misaligned (t.groups [v, x]) dest with
    | some r => some (Cause.vgroupAlign, regVal r)
    | none =>
      if h.vstart ≠ 0 then some (Cause.vstartRange, h.vstart.setWidth 64)
      else if ea.toNat % (t.wd / 8) ≠ 0 then some (Cause.misalignedData, ea)
      else none

/-- The remote elements of a VAMO, one message for each module in ascending order (R252). -/
def vamoMsgs (op : Nat) (kind : BitVec 4) (w : Nat) (xs : List AmoElem) : List FabricMsg :=
  (List.range 256).filterMap (fun m =>
    let mine := xs.filter (fun x => x.pa / 2 ^ 44 == m)
    if mine.isEmpty then none
    else some (.vamo m op kind w (mine.map (fun x => (x.pa, BitVec.ofNat 64 x.data)))))

/-- The elements of a flight. -/
def VamoFlight.all (f : VamoFlight) : List AmoElem := f.elems.map (fun e => { idx := e.1, pa := e.2.1, data := e.2.2 })
/-- Its elements on this module. -/
def VamoFlight.near (f : VamoFlight) : List AmoElem := f.all.filter (fun x => !isRemote x.pa)
/-- Its elements on other modules. -/
def VamoFlight.far (f : VamoFlight) : List AmoElem := f.all.filter (fun x => isRemote x.pa)

/-- The flight of hart h. -/
def State.flightOf (s : State) (h : HartId) : Option VamoFlight := s.vamos.find? (fun f => f.owner == h)

/-- The flight of its hart replaced. -/
def State.setFlight (s : State) (f : VamoFlight) : State :=
  { s with vamos := s.vamos.filter (fun g => g.owner != f.owner) ++ [f] }

/-- The lines of a flight on other modules, when it has asked for one. -/
def VamoFlight.farLines (f : VamoFlight) : List Nat := linesOf (f.far.map (fun x => x.pa))

/-- A flight is over: its lines are free here, and those on other modules are released (R252). -/
def State.closeFlight (s : State) (f : VamoFlight) : State :=
  let t := { s with vamos := s.vamos.filter (fun g => g.owner != f.owner) }.freeLocks (.hart f.owner)
  if f.farLines.isEmpty then t else t.post [.unlock (f.farLines.map (fun l => l * 128))]

/-- The elements of a flight on this module perform: the lines were read when they were locked, so an error that has struck
one since then stops none of them (R253, log 92). -/
def State.performNear (s : State) (f : VamoFlight) : State :=
  { s with mem := memPuts s.mem (vamoRun f.op f.kind f.width s.mem f.near).1 }

/-- The old values of a flight's elements, in element order: those on other modules from their answer, and those of this
module. -/
def State.flightOlds (s : State) (f : VamoFlight) (reply : List Byte) : List (Nat × Nat) :=
  let n := f.width / 8
  let here := (vamoRun f.op f.kind f.width s.mem f.near).2.1
  let away := f.far.zipIdx.map (fun x => (x.1.idx, leNat ((reply.drop (n * x.2)).take n)))
  f.all.map (fun x => (x.idx, (((here ++ away).find? (fun o => o.1 == x.idx)).map (fun o => o.2)).getD 0))

/-- The request of hart h is answered. With the answer for its elements on other modules, a VAMO's elements on this module
perform too, and its locks end; what it reserved or locked elsewhere lets it go on. -/
def State.answer (s : State) (h : HartId) (reply : List Byte) : State :=
  match s.flightOf h with
  | some f =>
    if f.sent then
      (((s.performNear f).closeFlight f).setFlight { f with olds := some (s.flightOlds f reply) }).modHart h (fun x =>
        { x with remote := .answered [] })
    else s.modHart h (fun x => { x with remote := .answered reply })
  | none => s.modHart h (fun x => { x with remote := .answered reply })

/-- A VAMO of hart h goes no further: once its elements on other modules have been sent there, `performs` says whether those
on this module perform; before, none does (R253, R254). -/
def State.dropFlight (s : State) (h : HartId) (performs : Bool) : State :=
  match s.flightOf h with
  | some f => (if performs && f.sent && f.olds.isNone then s.performNear f else s).closeFlight f
  | none => s

/-- The exceptions of combines, from the old values. -/
def flightExc (f : VamoFlight) (olds : List (Nat × Nat)) : Exc :=
  (f.all.zip olds).foldl (fun e x => e.or (vamoCombine f.op f.kind f.width x.2.2 x.1.data).2) .none

/-- A VAMO has performed: without .nr the old values go to v (R251). -/
def State.vamoFinish (s : State) (v : Reg) (k : KReg) (nr : Bool) (olds : List (Nat × Nat)) (e : Exc) : Out :=
  let h := s.me
  let t := h.vt
  let off := if t.mz then (h.body.filter (fun i => !h.active k i)).map (fun i => (i, 0)) else []
  s.finish (fun h =>
    let h := if nr then h else h.writeGroup v t 0 (olds.map (fun x => (x.1, t.spread x.2)) ++ off)
    { h with vstart := 0, fflags := fflagsVector h.fflags e })

/-- The elements of a VAMO that all lie on this module perform in one step (R251): global elements of a VAMO.nr inside a
belayed strip are staged (R243), the others combine at their homes. -/
def State.vamoPerform (s : State) (op : Nat) (v : Reg) (k : KReg) (nr : Bool) (elems : List AmoElem) (places : List Place) :
    Out :=
  let t := s.me.vt
  let staged := fun x : AmoElem => s.inBelay s.cur && s.isGlobal x.pa
  let u := s.usePages (coreOf s.cur) places
  let (ws, olds, e) := vamoRun op t.kind t.wd u.mem (elems.filter (fun x => !staged x))
  let stage := (elems.filter staged).map (fun x => Staged.vamo op t.kind t.wd x.pa (BitVec.ofNat 64 x.data))
  let u := if stage.isEmpty then u else u.modStrip s.cur (fun o => { o with staged := o.staged ++ stage })
  (u.home ws).vamoFinish v k nr olds e

/-- An element inserted among elements of rising address. -/
def insertElem (x : AmoElem) : List AmoElem → List AmoElem
  | [] => [x]
  | y :: rest => if x.pa ≤ y.pa then x :: y :: rest else y :: insertElem x rest

/-- The executing hart has sent a request about an address and waits for its answer. -/
def State.sentTo (s : State) (pa : Nat) : State :=
  s.modMe (fun h => { h.hold with remote := .sent pa, sentAt := s.baseClock })

/-- Steps of a VAMO of the executing hart, as far as they can be made now: the state, the steps left, and whether none is
(R252). A step on another module is asked for there, and its answer awaited. -/
def State.vamoAdvance (s : State) : List VamoStep → State × List VamoStep × Bool
  | [] => (s, [], true)
  | .reserve f lines :: rest =>
    if f ≠ 0 then ((s.post [.reserve f lines]).sentTo ((lines.map (fun l => l.1 * 128)).headD 0), rest, false)
    else
      let t := s.reserve s.cur lines
      if t.admitted s.cur lines then t.vamoAdvance rest else (t.holding, .reserve f lines :: rest, false)
  | .lock l k :: rest =>
    if isRemote (l * 128) then ((s.post [.lock (l * 128) k]).sentTo (l * 128), rest, false)
    else if s.lockedFor s.cur l then (s.joinLock s.cur l, .lock l k :: rest, false)
    else (s.takeLocks s.cur [(l, k)]).vamoAdvance rest

/-- Uncorrectable data in the lines that a VAMO reads on this module: those of staged elements are not read (R243, R253). -/
def State.vamoError (s : State) (w : Nat) (elems : List AmoElem) : Option Stop :=
  if s.clean then none
  else (elems.filter (fun x => !(s.inBelay s.cur && s.isGlobal x.pa))).findSome? (fun x =>
    (List.range (w / 8)).findSome? (fun i => s.spoiled [] (x.pa + i)))

/-- The VAMO in flight of the executing hart goes on: its next steps, then the read of its lines, then its elements, those
of other modules first (R251 to R253). -/
def State.vamoGo (s : State) (f : VamoFlight) (v : Reg) (k : KReg) (nr : Bool) : Out :=
  match f.olds with
  | some olds =>
    { s with vamos := s.vamos.filter (fun g => g.owner != f.owner) }.endRemote.vamoFinish v k nr olds (flightExc f olds)
  | none =>
    match (s.modMe (fun h => { h with remote := .idle })).vamoAdvance f.steps with
    | (t, rest, false) => .next (t.setFlight { f with steps := rest })
    | (t, _, true) =>
      match t.vamoError f.width f.near with
      | some e => e.out ((t.closeFlight f).modMe (fun h => { h with vstart := 0 }))
      | none =>
        if f.far.isEmpty then (t.closeFlight f).endRemote.vamoPerform f.op v k nr f.near []
        else
          .next (((t.setFlight { f with steps := [], sent := true }).post (vamoMsgs f.op f.kind f.width f.far)).sentTo
            ((f.far.map (fun x => x.pa)).headD 0))

/-- Another VAMO of the core is in progress: its VLSU runs one at a time (R252). -/
def State.vamoBusy (s : State) : Bool :=
  s.vamos.any (fun f => f.owner != s.cur && coreOf f.owner == coreOf s.cur)

/-- The lines that a VAMO locks: those of elements that are not staged. -/
def State.lockPlaces (s : State) (ps : List Place) : List Place := ps.filter (fun p => !(s.inBelay s.cur && s.isGlobal p.pa))

/-- Every line of places is free for the executing hart, and every slice has room for those in it. -/
def State.lockedAtOnce (s : State) (ps : List Place) : Bool :=
  let lines := slicedLines s.part ps
  !lines.any (fun l => s.lockedFor s.cur l.1) && (slicesOf lines).all (fun k => s.roomIn k (inSlice lines k))

/-- A VAMO whose probe is done begins: when every line is on this module and can be locked at once it performs in one step,
and otherwise it is in flight from now on, its elements, masks and translations those of its issue (R133, R201, R251). -/
def State.vamoStart (s : State) (op : Nat) (v : Reg) (k : KReg) (nr : Bool) (elems : List AmoElem) (places : List Place) : Out :=
  let t := s.me.vt
  if elems.all (fun x => !isRemote x.pa) && s.lockedAtOnce (s.lockPlaces places) then
    match s.vamoError t.wd elems with
    | some e => e.out (s.modMe (fun h => { h with vstart := 0 }))
    | none => s.vamoPerform op v k nr elems places
  else
    let f : VamoFlight :=
      { owner := s.cur, op := op, kind := t.kind, width := t.wd, elems := elems.map (fun x => (x.idx, x.pa, x.data)),
        steps := s.vamoSteps (s.lockPlaces places), sent := false, olds := none }
    (((s.keepPins (s.pinsOf (s.ctx s.cur) .write places)).usePages (coreOf s.cur) places).setFlight f).vamoGo f v k nr

/-- The first element, by address, at which a VAMO would stage a line past the strip's capacity (R323). -/
def State.vamoFull (s : State) (elems : List AmoElem) : Option AmoElem :=
  if s.inBelay s.cur then
    match s.openStrip s.cur with
    | some o =>
      let sorted : List AmoElem := (elems.filter (fun y : AmoElem => s.isGlobal y.pa)).foldr insertElem []
      (firstFull o.lines (sorted.map (fun y : AmoElem => y.pa))).bind (fun pa =>
        sorted.find? (fun y : AmoElem => y.pa == pa))
    | none => none
  else none

/-- A VAMO (R249 to R253). -/
def State.vamo (s : State) (op : Nat) (v a x : Reg) (k : KReg) (nr : Bool) : Out :=
  let h := s.me
  let t := h.vt
  let word := packVM 0x2C v a x k (BitVec.ofNat 4 op) (boolBit nr ++ (0 : BitVec 3))
  let ea := h.xr a
  let on := h.body.filter (fun i => h.active k i)
  match s.flightOf s.cur with
  | some f => s.vamoGo f v k nr
  | none =>
    if h.vl = 0 then s.emptyVl
    else if s.inBelay s.cur && (!nr || op == 6) then s.trap Cause.belayForbidden (wordVal word)
    else
      match h.vamoCheck op v x (if nr then none else some t.regs) ea with
      | some (c, y) => s.trap c y
      | none =>
        let nb := t.wd / 8
        let addr := fun i => ea + BitVec.ofNat 64 (nb * h.pat x i t.wb)
        match s.vamoProbe word nb addr on with
        | .error (j, e) => (probeStop j e).out s
        | .ok xs =>
          let elems : List AmoElem := xs.map (fun y =>
            ({ idx := y.1, pa := (y.2.map (fun p => p.pa)).headD 0, data := h.pat v y.1 t.wd } : AmoElem))
          let places : List Place := xs.flatMap (fun y => y.2)
          let pas : List Nat := places.map (fun p : Place => p.pa)
          match s.vamoFull elems with
          | some y => s.trap Cause.belayFull (addr y.idx)
          | none =>
            if s.vamoBusy then s.stall
            else if s.queuedAt pas || s.fencePending then s.waitQuiet
            else
              match (laneStop h.marks (h.bodyReads k [(v, t.wd), (x, t.wb)])).map (fun m => m.2) with
              | some e => e.out (s.modMe (fun h => { h with vstart := 0 }))
              | none => s.vamoStart op v k nr elems places

/-- VAMOADD. -/
def execVamoadd (v a x : Reg) (m : KReg) (nr : Bool) (s : State) : Out := s.vamo 0 v a x m nr
/-- VAMOMIN. -/
def execVamomin (v a x : Reg) (m : KReg) (nr : Bool) (s : State) : Out := s.vamo 1 v a x m nr
/-- VAMOMAX. -/
def execVamomax (v a x : Reg) (m : KReg) (nr : Bool) (s : State) : Out := s.vamo 2 v a x m nr
/-- VAMOAND. -/
def execVamoand (v a x : Reg) (m : KReg) (nr : Bool) (s : State) : Out := s.vamo 3 v a x m nr
/-- VAMOOR. -/
def execVamoor (v a x : Reg) (m : KReg) (nr : Bool) (s : State) : Out := s.vamo 4 v a x m nr
/-- VAMOXOR. -/
def execVamoxor (v a x : Reg) (m : KReg) (nr : Bool) (s : State) : Out := s.vamo 5 v a x m nr
/-- VAMOSWAP. -/
def execVamoswap (v a x : Reg) (m : KReg) (nr : Bool) (s : State) : Out := s.vamo 6 v a x m nr

end Sys2Proof.Machine
end

