-- ==== Sys2Proof/Machine/Tile.lean ====
section
/-! DEFINITION. The tile unit: ownership, shape and configuration, the outer product and slice moves (R257 to R278). -/

namespace Sys2Proof.Machine

/-! ### Cells (R263) -/

/-- The image of a cell: a cell that is not listed is 0. -/
def tileGet : Tile → Nat → BitVec 64
  | [], _ => 0
  | (b, v) :: rest, a => if a = b then v else if a < b then 0 else tileGet rest a

/-- A tile with one cell written, in canonical form. -/
def tileSet : Tile → Nat → BitVec 64 → Tile
  | [], a, v => if v = 0 then [] else [(a, v)]
  | (b, u) :: rest, a, v =>
    if a < b then (if v = 0 then (b, u) :: rest else (a, v) :: (b, u) :: rest)
    else if a = b then (if v = 0 then rest else (a, v) :: rest)
    else (b, u) :: tileSet rest a v

/-- The canonical form of a tile: keys rise and no listed image is 0. -/
def tileWfFrom : Nat → Tile → Bool
  | _, [] => true
  | lo, (a, v) :: rest => decide (lo ≤ a) && v != 0 && tileWfFrom (a + 1) rest

/-- The key of cell (i, j). -/
def cellKey (i j : Nat) : Nat := 256 * i + j

/-- V of an INT48 image, as the 56-bit two's-complement sum. -/
def cellV (c : BitVec 64) : Int := (c.extractLsb' 0 56 : BitVec 56).toInt
/-- Ov of an INT48 image. -/
def cellOv (c : BitVec 64) : Bool := c.getLsbD 56
/-- NaN of an INT48 image. -/
def cellNan (c : BitVec 64) : Bool := c.getLsbD 57
/-- An INT48 image. -/
def cell48 (nan ov : Bool) (v : Int) : BitVec 64 := (0 : BitVec 6) ++ boolBit nan ++ boolBit ov ++ BitVec.ofInt 56 v

/-- The term of R264 for a product that is no NaN, with whether it leaves the 48-bit range. -/
def term48 (l : Int) (p : Val) : Int × Bool :=
  match p with
  | .nan _ => (0, false)
  | .inf n => (if n then -(2 ^ 47) else 2 ^ 47 - 1, true)
  | .num n m e =>
    let t := (roundToInt .rne n m (e - l)).1
    if t < -(2 ^ 47) then (-(2 ^ 47), true) else if t > 2 ^ 47 - 1 then (2 ^ 47 - 1, true) else (t, false)

/-- accumulate48 of R264. -/
def acc48 (l : Int) (c : BitVec 64) (p : Val) : BitVec 64 :=
  if p.isNan then cell48 true (cellOv c) (cellV c)
  else if p.isZero then c
  else
    let (t, ov) := term48 l p
    cell48 (cellNan c) (cellOv c || ov) (cellV c + t)

/-- The FP32 addition of R265. -/
def acc32 (c : BitVec 64) (p : Val) : BitVec 64 :=
  BitVec.ofNat 64 (Fmt.fp32.roundVal .rne (addVal .rne (Fmt.fp32.decode (c.toNat % 2 ^ 32)) p).1).pat

/-! ### zcfg and tshape (R261, R262) -/

/-- One half of zcfg. -/
structure ZCfg where
  fp32 : Bool
  mxs : Bool
  wrap : Bool
  l : Int
  deriving DecidableEq, Repr

/-- The half of zcfg for accumulator z (Table 9.3). -/
def Hart.zhalf (h : Hart) (z : BitVec 1) : ZCfg :=
  let w : BitVec 16 := if z = 0 then h.zcfg.extractLsb' 0 16 else h.zcfg.extractLsb' 16 16
  { fp32 := w.getLsbD 15, mxs := w.getLsbD 14, wrap := w.getLsbD 13, l := (w.extractLsb' 0 10 : BitVec 10).toInt }

/-- M′ of tshape. -/
def Hart.tileM (h : Hart) : Nat := (h.tshape.extractLsb' 0 10 : BitVec 10).toNat
/-- N′ of tshape. -/
def Hart.tileN (h : Hart) : Nat := (h.tshape.extractLsb' 16 9 : BitVec 9).toNat
/-- K′ of tshape. -/
def Hart.tileK (h : Hart) : Nat := (h.tshape.extractLsb' 32 16 : BitVec 16).toNat

/-- The index of an accumulator. -/
def zIdx (z : BitVec 1) : Fin 2 := if z = 0 then 0 else 1

/-- Whether the executing hart owns its core's tile unit (R257). -/
def State.ownsTile (s : State) : Bool := s.myCore.tileOwner == some s.cur

/-- The accumulator of the executing hart's core. -/
def State.tile (s : State) (z : BitVec 1) : Tile := s.myCore.z.get (zIdx z)
/-- The state with that accumulator replaced. -/
def State.putTile (s : State) (z : BitVec 1) (x : Tile) : State :=
  s.modMyCore (fun c => { c with z := c.z.set (zIdx z).val x (zIdx z).isLt })

/-! ### Ownership and configuration (Tables 9.1 and 9.5) -/

/-- The cells of accumulator z that `p` selects are written anew: an error in one is gone (log 35). -/
def Hart.freshCells (h : Hart) (z : BitVec 1) (p : Nat → Bool) : Hart :=
  { h with marks := h.marks.filter (fun m => !(m.unit == 3 && m.reg == z.toNat && p m.pos)) }

/-- Every cell of accumulator z is 0, and none of them is bad. -/
def State.zeroTile (s : State) (z : BitVec 1) : State := (s.putTile z []).modMe (fun h => h.freshCells z (fun _ => true))

/-- MTON: refused in PROVISIONAL service (R395). -/
def execMton (s : State) : Out :=
  if (s.chiplet (chipletOf (coreOf s.cur))).st = .provisional then s.trap Cause.tileBusyOwned (BitVec.allOnes 64)
  else
    match s.myCore.tileOwner with
    | none => (((s.modMyCore (fun c => { c with tileOwner := some s.cur })).zeroTile 0).zeroTile 1).done
    | some g => if g = s.cur then s.done else s.trap Cause.tileBusyOwned (BitVec.ofNat 64 g.val)

/-- MTOFF. -/
def execMtoff (s : State) : Out :=
  if s.ownsTile then (s.modMyCore (fun c => { c with tileOwner := none, z := Vector.replicate 2 [] })).done else s.done

/-- MZERO. -/
def execMzero (z : BitVec 1) (s : State) : Out :=
  if s.ownsTile then (s.zeroTile z).done else s.trap Cause.tileOff 0

/-- The bits of zcfg that exist (Table 9.3). -/
def zcfgMask : BitVec 32 := 0xE3FFE3FF

/-- MCFG: an accumulator whose MODE changes is cleared (R267). -/
def execMcfg (a : Reg) (s : State) : Out :=
  if s.ownsTile then
    let old := s.me.zcfg
    let new : BitVec 32 := (s.me.xr a).setWidth 32 &&& zcfgMask
    let s := if old.getLsbD 15 = new.getLsbD 15 then s else s.zeroTile 0
    let s := if old.getLsbD 31 = new.getLsbD 31 then s else s.zeroTile 1
    s.finish (fun h => { h with zcfg := new })
  else s.trap Cause.tileOff 0

/-- The shape granted for a request (R268). -/
def grantShape (kind : BitVec 4) (r : Word) : Word :=
  let m := (r.extractLsb' 0 10 : BitVec 10).toNat
  let n := (r.extractLsb' 16 9 : BitVec 9).toNat
  let k := (r.extractLsb' 32 16 : BitVec 16).toNat
  let m' := if m = 0 then 512 else min m 512
  let n' := if n = 0 then 256 else min n 256
  let kmax := 32768 / max m' n'
  let k' := if k = 0 then kmax else min k kmax
  let k'' := if isMxKind kind then 32 * max 1 (k' / 32) else k'
  BitVec.ofNat 64 (k'' * 2 ^ 32 + n' * 2 ^ 16 + m')

/-- TSHAPE (R268). -/
def execTshape (d b : Reg) (s : State) : Out :=
  s.finish (fun h =>
    let g := grantShape h.vt.kind (h.xr b)
    { h.setX d g with tshape := g })

/-! ### The outer product (R269 to R274) -/

/-- The kinds MOPA accepts in a mode (Table 9.6). -/
def mopaKind (fp32 : Bool) (k : BitVec 4) : Bool :=
  if fp32 then decide (k.toNat = 2) || decide (k.toNat = 3) || isMxKind k
  else decide (k.toNat ≤ 3) || isMxKind k

/-- The product p of R271 of two element values with scale codes. -/
def tileProduct (a b : Val) (sa sb : Nat) : Val :=
  if sa = 0xFF ∨ sb = 0xFF then .nan false
  else
    match (mulVal a b).1 with
    | .num n m e => if m = 0 then .num n 0 0 else .num n m (e + (sa - 127) + (sb - 127))
    | v => v

/-- The scale code of panel element e of register n, 0x7F where no scales apply. -/
def Hart.panelScale (h : Hart) (scaled : Bool) (n : Reg) (e : Nat) : Nat :=
  if scaled then ((h.qr n).scales.getD (e / 32) 0).toNat else 0x7F

/-- The product of cell (i, j) in step k (R269, R271). -/
def Hart.panelProduct (h : Hart) (t : VT) (scaled : Bool) (a b : Reg) (i j k : Nat) : Val :=
  let ea := i * h.tileK + k
  let eb := j * h.tileK + k
  tileProduct (kindVal t.kind t.wa (h.pat a ea t.wa)) (kindVal t.kind t.wb (h.pat b eb t.wb))
    (h.panelScale scaled a ea) (h.panelScale scaled b eb)

/-- The cells that take part, in row order (R269). -/
def Hart.tileCells (h : Hart) (r c : KReg) : List (Nat × Nat) :=
  ((List.range h.tileM).filter (fun i => h.active r i)).flatMap (fun i =>
    ((List.range h.tileN).filter (fun j => h.active c j)).map (fun j => (i, j)))

/-- Step k applied to the cells of a list. -/
def Hart.mopaStep (h : Hart) (a b : Reg) (cfg : ZCfg) (scaled : Bool) (cells : List (Nat × Nat)) (x : Tile) (k : Nat) :
    Tile :=
  cells.foldl (fun x c =>
    let key := cellKey c.1 c.2
    let p := h.panelProduct h.vt scaled a b c.1 c.2 k
    tileSet x key (if cfg.fp32 then acc32 (tileGet x key) p else acc48 cfg.l (tileGet x key) p)) x

/-- The first step, from vstart on, that reads one of the `per` panel elements at position n of a panel of `len` rows or
columns, of which `on` take part (R269, R274). -/
def Hart.panelStep (h : Hart) (len : Nat) (on : Nat → Bool) (per n : Nat) : Option Nat :=
  let kk := h.tileK
  (List.range per).findSome? (fun j =>
    let e := n * per + j
    if e < len * kk ∧ h.vstart.toNat ≤ e % kk ∧ on (e / kk) then some (e % kk) else none)

/-- What MOPA reads of the lane SRAM, each word for the step that finds it: a panel element or scale of a row or column
that takes part in the step that multiplies it, a cell that takes part and a mask in the first step (R269, R274). -/
def Hart.mopaReads (h : Hart) (z : BitVec 1) (a b : Reg) (r c : KReg) (scaled : Bool) : List LaneRead :=
  let lo := h.vstart.toNat
  let row (i : Nat) : Bool := decide (i < h.tileM) && h.active r i
  let col (j : Nat) : Bool := decide (j < h.tileN) && h.active c j
  let within (n : Nat) (i : Nat) : Option Nat := if i < n then some lo else none
  let panels : List LaneRead :=
    groupReads a h.vt.wa (h.panelStep h.tileM row 1) ++ groupReads b h.vt.wb (h.panelStep h.tileN col 1) ++
      (if scaled then [unitReads 2 a.toNat (h.panelStep h.tileM row 32), unitReads 2 b.toNat (h.panelStep h.tileN col 32)]
       else [])
  let cells : LaneRead := unitReads 3 z.toNat (fun p => if row (p / 256) && col (p % 256) then some lo else none)
  maskReads r (within h.tileM) ++ maskReads c (within h.tileN) ++
    (if (h.tileCells r c).isEmpty then [] else cells :: panels)

/-- The checks of R272 after TILE_OFF, in order. -/
def Hart.mopaCheck (h : Hart) (cfg : ZCfg) (scaled : Bool) (a b : Reg) : Option (BitVec 7 × Word) :=
  let t := h.vt
  if t.ill || t.ig != 0 || !mopaKind cfg.fp32 t.kind then some (Cause.vtypeBad, h.vtype.setWidth 64)
  else if h.tileM = 0 then some (Cause.tileShape, h.tshape)
  else if scaled && h.tileK % 32 != 0 then some (Cause.mxShape, h.tshape)
  else if h.tileK ≤ h.vstart.toNat then some (Cause.vstartRange, h.vstart.setWidth 64)
  else if scaled then (h.skewLen a (h.tileM * h.tileK)).orElse (fun _ => h.skewLen b (h.tileN * h.tileK))
  else none

/-- MOPA (R272 to R274): one that a turn stops between steps goes on with the masks of its issue (R133, log 43). -/
def execMopa (z : BitVec 1) (a b : Reg) (r c : KReg) (s : State) : Out :=
  let h := s.me
  let cfg := h.zhalf z
  let scaled := cfg.mxs && isMxKind h.vt.kind
  if h.vl = 0 then s.emptyVl
  else if !s.ownsTile then s.trap Cause.tileOff 0
  else
    match h.mopaCheck cfg scaled a b with
    | some (x, v) => s.trap x v
    | none =>
      let lo := h.vstart.toNat
      let kk := h.tileK
      let cells := h.tileCells r c
      let run := fun (x : Tile) (n : Nat) => (List.range' lo n).foldl (h.mopaStep a b cfg scaled cells) x
      let stop := lo + s.slice
      match laneHit h.marks (h.mopaReads z a b r c scaled) with
      | some (k, m) =>
        if s.slice ≠ 0 ∧ stop ≤ k then
          .next ((s.putTile z (run (s.tile z) s.slice)).modMe (fun h => { h.sample with vstart := BitVec.ofNat 15 stop }))
        else
          let x := run (s.tile z) (k - lo)
          let some_ := cells.filter (fun c => Config.freeBit s.tick (cellKey c.1 c.2))
          ((s.putTile z (h.mopaStep a b cfg scaled some_ x k)).modMe
            (fun h => { h with vstart := BitVec.ofNat 15 k })).step1.trap Cause.laneSram (laneVal m)
      | none =>
        if s.slice ≠ 0 ∧ stop < kk then
          .next ((s.putTile z (run (s.tile z) s.slice)).modMe (fun h => { h.sample with vstart := BitVec.ofNat 15 stop }))
        else (s.putTile z (run (s.tile z) (kk - lo))).finish (fun h => { h with vstart := 0 })

/-! ### Slice moves (R275 to R278) -/

/-- The cell of element e for slice word w (R275). -/
def Hart.sliceCell (h : Hart) (col : Bool) (w : Word) (e : Nat) : Nat × Nat :=
  let idx := w.toNat % 512
  if col then (e % h.tileM, idx + e / h.tileM) else (idx + e / h.tileN, e % h.tileN)

/-- The checks of R276 after TILE_OFF, in order. -/
def Hart.sliceCheck (h : Hart) (v : Reg) (dest : Option Nat) (col : Bool) (w : Word) : Option (BitVec 7 × Word) :=
  match h.vcheck true (h.vt.groups [v]) dest h.startOk with
  | some x => some x
  | none =>
    let c := h.sliceCell col w (h.vl.toNat - 1)
    if h.tileM = 0 ∨ h.tileM ≤ c.1 ∨ h.tileN ≤ c.2 then some (Cause.tileShape, w) else none

/-- One element of MRD: its result, and the cell after it (R277); an infinity times MUL = 0 is a quiet NaN and raises no NV
(log 90). -/
def mrdElem (t : VT) (cfg : ZCfg) (w : Word) (c : BitVec 64) : Elem × BitVec 64 :=
  let mul : Int := (w.extractLsb' 32 32 : BitVec 32).toInt
  let sh : Nat := w.toNat / 2 ^ 16 % 64
  let clampInt (y : Int) (counted : Bool) : Elem :=
    if cfg.wrap then { t.put (t.trunc y) with count := if counted then 1 else 0 }
    else if y < t.lo ∨ y > t.hi then { t.put (t.trunc (if y < t.lo then t.lo else t.hi)) with count := 1 }
    else { t.put (t.trunc y) with count := if counted then 1 else 0 }
  if cfg.fp32 then
    let x : Val := match Fmt.fp32.decode (c.toNat % 2 ^ 32) with
      | .nan s => .nan s
      | .inf n => if mul = 0 then .nan false else .inf n
      | .num n m e => .num (n != decide (mul < 0)) (m * mul.natAbs) (e - sh)
    (t.ofVal x, c)
  else if cellNan c then ({ t.ofVal (.nan false) with exc := .invalid }, c)
  else
    let v := cellV c
    let sat := cellOv c || decide (v < -(2 ^ 47)) || decide (v > 2 ^ 47 - 1)
    let v := if sat then (if v < 0 then -(2 ^ 47) else 2 ^ 47 - 1) else v
    let c' := if sat then cell48 false true (cellV c) else c
    if t.isInt then (clampInt (rneShift (v * mul) sh) sat, c')
    else
      let x : Int := v * mul
      let e := t.ofVal (.num (decide (x < 0)) x.natAbs (cfg.l - sh))
      ({ e with count := if sat then 1 else e.count }, c')

/-- MRD (R277). -/
def execMrd (z : BitVec 1) (v x : Reg) (m : KReg) (c : BitVec 1) (s : State) : Out :=
  let h := s.me
  let t := h.vt
  let w := h.xr x
  let col := c == 1
  if h.vl = 0 then s.emptyVl
  else if !s.ownsTile then s.trap Cause.tileOff 0
  else
    match h.sliceCheck v (some t.regs) col w with
    | some (y, u) => s.trap y u
    | none =>
      let cfg := h.zhalf z
      let tile := s.tile z
      let keyOf := fun e => let p := h.sliceCell col w e; cellKey p.1 p.2
      let on := h.body.filter (fun i => h.active m i)
      let o := h.frame t m false (fun e => (mrdElem t cfg w (tileGet tile (keyOf e))).1)
      let after (ks : List Nat) : Tile :=
        ks.foldl (fun y e => tileSet y (keyOf e) (mrdElem t cfg w (tileGet y (keyOf e))).2) tile
      match laneHit h.marks (maskReads m h.inBody ++ [unitReads 3 z.toNat (fun p => on.find? (fun e => keyOf e == p))]) with
      | none => (s.putTile z (after on)).vecFinish v t 0 o
      | some (pos, k) =>
        let g := stopGroup s.tick h.vstart.toNat pos
        (s.putTile z (after (on.filter (fun e => decide (e / 1024 < g) || Config.freeBit s.tick e)))).vecStop v t 0 o pos k

/-- One element of MWR: the cell, with its count and exceptions (R278). -/
def mwrElem (t : VT) (cfg : ZCfg) (u : Nat) : Elem :=
  let x := kindVal t.kind t.wa u
  if cfg.fp32 then
    let r := Fmt.fp32.convert x
    { pat := r.pat, count := if r.counted then 1 else 0, exc := r.exc }
  else if t.isInt then
    let y := extPat t.signed u t.wa
    let out := decide (y < -(2 ^ 47)) || decide (y > 2 ^ 47 - 1)
    let y := if out then (if y < 0 then -(2 ^ 47) else 2 ^ 47 - 1) else y
    { pat := (cell48 false out y).toNat, count := if out then 1 else 0 }
  else if x.isNan then { pat := (cell48 true false 0).toNat }
  else
    let (y, ov) := term48 cfg.l x
    let finite := match x with
      | .num _ _ _ => true
      | _ => false
    { pat := (cell48 false ov y).toNat, count := if ov && finite then 1 else 0 }

/-- MWR (R278). -/
def execMwr (z : BitVec 1) (v x : Reg) (m : KReg) (c : BitVec 1) (s : State) : Out :=
  let h := s.me
  let t := h.vt
  let w := h.xr x
  let col := c == 1
  if h.vl = 0 then s.emptyVl
  else if !s.ownsTile then s.trap Cause.tileOff 0
  else
    match h.sliceCheck v none col w with
    | some (y, u) => s.trap y u
    | none =>
      let cfg := h.zhalf z
      let keyOf := fun e => let p := h.sliceCell col w e; cellKey p.1 p.2
      let o := collect ((h.body.filter (fun i => h.active m i)).map (fun e => (e, mwrElem t cfg (h.pat v e t.wa))))
      let put (ws : List (Nat × Nat)) : Tile :=
        ws.foldl (fun y e => tileSet y (keyOf e.1) (BitVec.ofNat 64 e.2)) (s.tile z)
      let fresh (ws : List (Nat × Nat)) (p : Nat) : Bool := ws.any (fun e => keyOf e.1 == p)
      match laneHit h.marks (h.bodyReads m [(v, t.wa)]) with
      | none =>
        (s.putTile z (put o.writes)).finish (fun h =>
          { (h.freshCells z (fresh o.writes)).countSat o.count with vstart := 0, fflags := fflagsVector h.fflags o.exc })
      | some (i, k) =>
        let g := stopGroup s.tick h.vstart.toNat i
        ((s.putTile z (put (mixWrites s.tick g o.writes))).modMe
          (fun h => { h.freshCells z (fresh (mixWrites s.tick g o.writes)) with vstart := BitVec.ofNat 15 (1024 * g) })).step1.trap
            Cause.laneSram (laneVal k)

end Sys2Proof.Machine
end

