-- ==== Sys2Proof/Machine/Copy.lean ====
section
/-! DEFINITION. Transposer copies (R284 to R300): the descriptor, its checks and probe, the landing of chunks, their
errors, and WAITM. -/

namespace Sys2Proof.Machine

/-! ### The descriptor (Table 11.1) -/

/-- The fields of a copy descriptor. `form` is fn[3:0]: 0 cpy, 1 cpyq, 2 cpyx, 3 cpyw. -/
structure CopyDesc where
  form : Nat
  src : Word
  dst : Word
  d3 : Word
  d4 : Word
  nrow : Nat
  rlen : Nat
  rpc : Nat
  dring : Nat
  sring : Nat
  wm1 : Nat
  dir : Bool
  deriving DecidableEq, Repr

/-- The descriptor in six registers. -/
def copyDesc (form : Nat) (d : Vector Word 6) : CopyDesc :=
  { form := form, src := d[0], dst := d[1], d3 := d[3], d4 := d[4], nrow := d[2].toNat / 2 ^ 32 % 2 ^ 24,
    rlen := d[2].toNat % 2 ^ 32, rpc := d[5].toNat / 2 ^ 32 % 256, dring := d[5].toNat / 2 ^ 20 % 64,
    sring := d[5].toNat / 2 ^ 14 % 64, wm1 := d[5].toNat / 256 % 16, dir := d[5].getLsbD 7 }

/-- A copy by elements: cpyq or cpyw, whose D2 gives n. -/
def CopyDesc.byElem (c : CopyDesc) : Bool := c.form == 1 || c.form == 3
/-- The element width of a cpyq or cpyw. -/
def CopyDesc.width (c : CopyDesc) : Nat := c.wm1 + 1
/-- The chunk count nch (R288). -/
def CopyDesc.chunks (c : CopyDesc) : Nat :=
  if c.byElem then (c.rlen + 1023) / 1024 else if c.rlen = 0 then 0 else (c.nrow + c.rpc) / (c.rpc + 1)
/-- A ring field is no ring or a window of 2^12 to 2^40 bytes (R287). -/
def ringOk (g : Nat) : Bool := g == 0 || (12 ≤ g && g ≤ 40)

/-- addr(P, g, o) (R287). -/
def ringAddr (p : Word) (g : Nat) (o : Int) : Word :=
  if g = 0 then BitVec.ofInt 64 (p.toNat + o)
  else BitVec.ofInt 64 ((p.toNat / 2 ^ g * 2 ^ g : Nat) + ((p.toNat % 2 ^ g : Nat) + o) % (2 ^ g : Int))

/-- The lowest descriptor register with a field that fails the checks of R286 to R288. -/
def copyFault (form : Nat) (d : Vector Word 6) : Option Nat :=
  let c := copyDesc form d
  let d2 := d[2].toNat / 2 ^ 56 != 0 || (c.byElem && c.nrow != 0) || decide (32768 < c.chunks) ||
    (form == 1 && c.rlen % 32 != 0)
  let d5 := d[5] &&& 0xFFFFFF00FC00307F != 0 || (c.byElem && c.rpc != 0) || !ringOk c.dring || !ringOk c.sring ||
    (!c.byElem && c.wm1 != 0) || (form == 1 && !([3, 5, 7].contains c.wm1)) || (form != 3 && c.dir)
  if d2 then some 2
  else if form = 3 ∧ c.d3 ≠ 0 then some 3
  else if form = 3 ∧ c.d4 ≠ 0 then some 4
  else if d5 then some 5
  else none

/-! ### Overlap and order (R290) -/

/-- A simple cpy: no ring, one stride, and rows that do not overlap within a side. -/
def CopyDesc.simple (c : CopyDesc) : Bool :=
  c.form == 0 && c.dring == 0 && c.sring == 0 && c.d3 == c.d4 && decide ((c.rlen : Int) ≤ c.d3.toInt)
/-- The copy is processed in descending order. -/
def CopyDesc.descending (c : CopyDesc) : Bool := c.simple && decide (c.src.toNat < c.dst.toNat)

/-- The bytes of n elements of w bits in WORD layout. -/
def wordSpan (n w : Nat) : Nat := (n * w + 7) / 8
/-- The bytes of a PLANE group of stored width w (R206). -/
def groupBytes (w : Nat) : Nat := 16 + 128 * w

/-- The bounding range [lo, hi) of the n addresses addr(p, 0, o) up (R287): all addresses where they wrap. -/
def runRange (p : Word) (o : Int) (n : Nat) : Nat × Nat :=
  let a := (ringAddr p 0 o).toNat
  if a + n ≤ 2 ^ 64 then (a, a + n) else (0, 2 ^ 64)

/-- The byte ranges [lo, hi) of a side from its base, its ring, and runs (offset, length). -/
def sideRanges (p : Word) (g : Nat) (runs : List (Int × Nat)) : List (Nat × Nat) :=
  if g = 0 then (runs.filter (fun r => r.2 != 0)).map (fun r => runRange p r.1 r.2)
  else [(p.toNat / 2 ^ g * 2 ^ g, p.toNat / 2 ^ g * 2 ^ g + 2 ^ g)]

/-- The bounding range of ranges. -/
def hull : List (Nat × Nat) → Option (Nat × Nat)
  | [] => none
  | r :: rest =>
    match hull rest with
    | none => some r
    | some q => some (if r.1 < q.1 then r.1 else q.1, if r.2 < q.2 then q.2 else r.2)

/-- The bounding range of the source side. `index` is a cpyx's list. -/
def CopyDesc.srcRange (c : CopyDesc) (index : List Nat) : Option (Nat × Nat) :=
  hull (match c.form with
    | 0 => sideRanges c.src c.sring ((List.range c.nrow).map (fun i : Nat => ((i : Int) * c.d3.toInt, c.rlen)))
    | 1 => sideRanges c.src c.sring [(0, wordSpan c.rlen c.width)] ++ sideRanges c.d3 0 [(0, c.rlen / 32)]
    | 2 => sideRanges c.src c.sring (index.map (fun i : Nat => ((i : Int) * c.d3.toInt, c.rlen)))
    | _ => sideRanges c.src c.sring
        [(0, if c.dir then c.chunks * groupBytes c.width else wordSpan c.rlen c.width)])

/-- The bounding range of the destination side. -/
def CopyDesc.dstRange (c : CopyDesc) : Option (Nat × Nat) :=
  hull (match c.form with
    | 0 => sideRanges c.dst c.dring ((List.range c.nrow).map (fun i : Nat => ((i : Int) * c.d4.toInt, c.rlen)))
    | 1 => sideRanges c.dst c.dring [(0, wordSpan c.rlen c.width)] ++ sideRanges c.d4 0 [(0, c.rlen / 32)]
    | 2 => sideRanges c.dst c.dring [(0, c.nrow * c.rlen)]
    | _ => sideRanges c.dst c.dring
        [(0, if c.dir then wordSpan c.rlen c.width else c.chunks * groupBytes c.width)])

/-- The two sides share a byte where the form forbids it (R290). -/
def CopyDesc.overlap (c : CopyDesc) (index : List Nat) : Bool :=
  !c.simple &&
    match c.srcRange index, c.dstRange with
    | some a, some b => decide (a.1 < b.2) && decide (b.1 < a.2)
    | _, _ => false

/-! ### The bytes of a chunk (R288, R289) -/

/-- The bytes of row i of a side. -/
def rowBytes (p : Word) (g : Nat) (start : Int) (n : Nat) : List Word :=
  (List.range n).map (fun b : Nat => ringAddr p g (start + b))

/-- The rows of chunk ch of a cpy or cpyx. -/
def CopyDesc.rows (c : CopyDesc) (ch : Nat) : List Nat :=
  (List.range' (ch * (c.rpc + 1)) (c.rpc + 1)).filter (fun i => i < c.nrow)

/-- The elements of chunk ch of a cpyq or cpyw. -/
def CopyDesc.elems (c : CopyDesc) (ch : Nat) : Nat := min 1024 (c.rlen - 1024 * ch)

/-- The bytes of chunk ch in WORD layout: 128·w bytes for a whole one. -/
def CopyDesc.wordBytes (c : CopyDesc) (p : Word) (g ch : Nat) : List Word :=
  rowBytes p g (128 * c.width * ch : Nat) (wordSpan (c.elems ch) c.width)

/-- The scale bytes of chunk ch of a cpyq. -/
def CopyDesc.scaleBytes (c : CopyDesc) (p : Word) (ch : Nat) : List Word := rowBytes p 0 (32 * ch : Nat) (c.elems ch / 32)

/-- The header bytes of PLANE group ch. -/
def CopyDesc.header (c : CopyDesc) (p : Word) (g ch : Nat) : List Word := rowBytes p g (groupBytes c.width * ch : Nat) 16

/-- The row of plane q of PLANE group ch. -/
def CopyDesc.planeRow (c : CopyDesc) (p : Word) (g ch q : Nat) : List Word :=
  rowBytes p g (groupBytes c.width * ch + 16 + 128 * (c.width - 1 - q) : Nat) 128

/-- Planes of a width, most significant first. -/
def planesDown (w : Nat) : List Nat := (List.range w).reverse

/-- The planes that a header's PMASK names below the width. -/
def namedPlanes (w : Nat) (hdr : List Byte) : List Nat := (planesDown w).filter (fun q => (leNat (hdr.take 2)).testBit q)

/-- The source bytes of chunk ch in logical order; for a cpyw from PLANE layout its header alone. -/
def CopyDesc.srcBytes (c : CopyDesc) (index : List Nat) (ch : Nat) : List Word :=
  match c.form with
  | 0 => (c.rows ch).flatMap (fun i : Nat => rowBytes c.src c.sring ((i : Int) * c.d3.toInt) c.rlen)
  | 1 => c.wordBytes c.src c.sring ch ++ c.scaleBytes c.d3 ch
  | 2 => (c.rows ch).flatMap (fun i : Nat => rowBytes c.src c.sring ((index.getD i 0 : Int) * c.d3.toInt) c.rlen)
  | _ => if c.dir then c.header c.src c.sring ch else c.wordBytes c.src c.sring ch

/-- The plane rows that a cpyw from PLANE layout reads under a header. -/
def CopyDesc.srcRows (c : CopyDesc) (ch : Nat) (hdr : List Byte) : List Word :=
  if c.form = 3 ∧ c.dir then (namedPlanes c.width hdr).flatMap (fun q => c.planeRow c.src c.sring ch q) else []

/-- The destination bytes of chunk ch in logical order. -/
def CopyDesc.dstBytes (c : CopyDesc) (ch : Nat) : List Word :=
  match c.form with
  | 0 => (c.rows ch).flatMap (fun i : Nat => rowBytes c.dst c.dring ((i : Int) * c.d4.toInt) c.rlen)
  | 1 => c.wordBytes c.dst c.dring ch ++ c.scaleBytes c.d4 ch
  | 2 => (c.rows ch).flatMap (fun i : Nat => rowBytes c.dst c.dring (i * c.rlen : Nat) c.rlen)
  | _ =>
    if c.dir then c.wordBytes c.dst c.dring ch
    else c.header c.dst c.dring ch ++ (planesDown c.width).flatMap (fun q => c.planeRow c.dst c.dring ch q)

/-- Element e of a chunk's WORD bits. -/
def wordElem (w bits e : Nat) : Nat := bits / 2 ^ (w * e) % 2 ^ w

/-- Plane q of n elements as 128 bytes. -/
def planeBytes (w n bits q : Nat) : List Byte :=
  leBytes 128 (((List.range n).map (fun e => if (wordElem w bits e).testBit q then 2 ^ e else 0)).sum)

/-- A PLANE group of n elements, header and all rows: elements past n are 0 (R289). -/
def planeGroup (w n bits : Nat) : List Byte :=
  let pmask := ((List.range w).map (fun q =>
    if (List.range n).any (fun e => (wordElem w bits e).testBit q) then 2 ^ q else 0)).sum
  leBytes 2 pmask ++ [BitVec.ofNat 8 (w - 1)] ++ List.replicate 13 0 ++
    (planesDown w).flatMap (fun q => planeBytes w n bits q)

/-- The WORD bits of n elements from a PLANE group: the rows of the named planes, in their order. -/
def groupWord (w n : Nat) (hdr rows : List Byte) : Nat :=
  let named := namedPlanes w hdr
  let row (q : Nat) : Nat := leNat ((rows.drop (128 * named.findIdx (fun x => x == q))).take 128)
  ((List.range n).map (fun e =>
    ((named.map (fun q => if (row q).testBit e then 2 ^ q else 0)).sum) * 2 ^ (w * e))).sum

/-- The values and bit masks of the destination bytes of chunk ch, in logical order, from the bytes read. -/
def CopyDesc.values (c : CopyDesc) (ch : Nat) (src rows : List Byte) : List (Byte × Byte) :=
  if c.form = 3 then
    let n := c.elems ch
    let w := c.width
    if c.dir then
      let k := wordSpan n w
      (leBytes k (groupWord w n src rows)).zip (leBytes k (2 ^ (n * w) - 1))
    else (planeGroup w n (leNat src)).map (fun b => (b, 0xFF))
  else src.map (fun b => (b, 0xFF))

/-! ### The probe (R292) -/

/-- The chunks in processing order. -/
def CopyDesc.order (c : CopyDesc) (desc : Bool) : List Nat :=
  if desc then (List.range c.chunks).reverse else List.range c.chunks

/-- The probe of one byte that a copy of the executing hart reads or writes: translation and mode, then what a belayed farm
forbids; a byte of a fenced chiplet stops the copy when its chunk lands (R366). -/
def State.probeCopyByte (s : State) (a : Acc) (word : BitVec 32) (va : Word) : Except Stop Place :=
  match s.locateRaw (s.ctx s.cur) a .opened va with
  | .error e => .error e
  | .ok p =>
    let bad := s.belayed s.cur &&
      (if (s.openStrip s.cur).isSome then s.belayForbids (coreOf s.cur) p.pa || (a == Acc.write && !isLocal va.toNat)
       else a == Acc.write && s.isGlobal p.pa)
    if bad then .error (.trap Cause.belayForbidden (wordVal word)) else .ok p

/-- The probe of one byte of an index list, which is a load of the hart (R292). -/
def State.probeIndexByte (s : State) (word : BitVec 32) (va : Word) : Except Stop Place :=
  match s.locate (s.ctx s.cur) .read .opened va with
  | .error e => .error e
  | .ok p =>
    match s.belayCheck s.cur .read word [p] with
    | some e => .error e
    | none => .ok p

/-- A byte a transposer reads: its core's writes are seen, staging is not; a byte of the host or of another module is
what its home answers, a free value (R293, log 14). `host` is the host address of a window byte. -/
def State.engineByte (s : State) (c : CoreId) (host : Option Nat) (pa : Nat) : Byte :=
  match s.region pa with
  | .host _ => Config.hostByte s.tick (host.getD 0)
  | .remote _ => Config.hostByte s.tick pa
  | _ => s.coreByte c pa

/-- The byte at a place of a probe, as a transposer reads it. -/
def State.probedByte (s : State) (p : Place) : Byte :=
  s.engineByte (coreOf s.cur) (match s.region p.pa with
    | .host off => s.aperture off
    | _ => none) p.pa

/-- The places of a copy: what it reads and what it writes. -/
structure CopyPlaces where
  srcs : List Place
  dsts : List Place
  deriving DecidableEq, Repr

/-- The probe of one chunk: the source bytes before the destination bytes, each in processing order. -/
def State.probeChunk (s : State) (word : BitVec 32) (c : CopyDesc) (desc : Bool) (index : List Nat) (ch : Nat) :
    Except Stop CopyPlaces :=
  let turn (l : List Word) := if desc then l.reverse else l
  match eachOk (s.probeCopyByte .read word) (turn (c.srcBytes index ch)) with
  | .error e => .error e
  | .ok ps =>
    match eachOk (s.probeCopyByte .read word) (c.srcRows ch (ps.map s.probedByte)) with
    | .error e => .error e
    | .ok rs =>
      match eachOk (s.probeCopyByte .write word) (turn (c.dstBytes ch)) with
      | .error e => .error e
      | .ok ds => .ok { srcs := ps ++ rs, dsts := ds }

/-- The probe of a copy's chunks in processing order. -/
def State.probeChunks (s : State) (word : BitVec 32) (c : CopyDesc) (desc : Bool) (index : List Nat) :
    Except Stop CopyPlaces :=
  match eachOk (s.probeChunk word c desc index) (c.order desc) with
  | .error e => .error e
  | .ok l => .ok { srcs := l.flatMap (fun p => p.srcs), dsts := l.flatMap (fun p => p.dsts) }

/-- Every place of a copy. -/
def CopyPlaces.all (p : CopyPlaces) : List Place := p.srcs ++ p.dsts

/-- The translated pages of a copy: an address of the local region has none. -/
def State.copyPages (s : State) (p : CopyPlaces) : List PageMap :=
  (s.pinsOf (s.ctx s.cur) .read p.srcs ++ s.pinsOf (s.ctx s.cur) .write p.dsts).map PageMap.used

/-- The addresses of a cpyx's index list; none for the other forms. -/
def CopyDesc.indexBytes (c : CopyDesc) : List Word := if c.form = 2 then addrsFrom c.d4 (4 * c.nrow) else []

/-- The 32-bit entries of a list's bytes; none for a form without an index list. -/
def CopyDesc.entries (c : CopyDesc) (bs : List Byte) : List Nat :=
  if c.form = 2 then (List.range c.nrow).map (fun i => leNat ((bs.drop (4 * i)).take 4)) else []

/-- The places of a copy's index list, checked as loads of the executing hart (R87, R252, R292, R345). -/
def State.indexPlaces (s : State) (word : BitVec 32) (c : CopyDesc) : Except Stop (List Place) :=
  match eachOk (s.probeIndexByte word) c.indexBytes with
  | .error e => .error e
  | .ok ps =>
    match (s.lockCheck s.cur ps).orElse (fun _ => s.readError s.cur ps) with
    | some e => .error e
    | none => .ok ps

/-- A transposer of core c is free for a copy instruction: fewer than two are busy and no restored copy waits (R284,
R297). -/
def State.engineFree (s : State) (c : CoreId) : Bool :=
  decide ((s.core c).copies.length < 2) && (s.core c).copies.all (fun k => k.engine)

/-- A copy accepted: its pages are used, kd is cleared and, with chunks to land, owned (R292). -/
def State.copyStart (s : State) (form : Nat) (k : KReg) (d : Vector Word 6) (index : List Nat) (ps : CopyPlaces) : Out :=
  let c := copyDesc form d
  let s := s.usePages (coreOf s.cur) ps.all
  let s := if c.chunks = 0 then s else
    s.modMyCore (fun x => { x with copies := x.copies ++
      [{ owner := s.cur, launch := s.me.launch, retired := false, form := BitVec.ofNat 2 form, d := d, k := k, next := 0,
         desc := c.descending, loc := ps.all.any (fun p => isLocal p.va.toNat), engine := true,
         since := s.baseClock, index := index, pages := s.copyPages ps }] })
  s.finish (fun h => h.putK k 0)

/-- The six registers from x[a] (R286). -/
def Hart.copyRegs (h : Hart) (a : Reg) : Vector Word 6 := Vector.ofFn (fun i : Fin 6 => h.xr (a + BitVec.ofNat 5 i.val))

/-- The checks of R292 after the index list has been read, or could not be: `list` holds its places and entries. -/
def State.copyChecks (s : State) (form : Nat) (k : KReg) (d : Vector Word 6) (word : BitVec 32)
    (list : Except Stop (List Place × List Nat)) : Out :=
  let c := copyDesc form d
  let overlaps := match list with
    | .ok (_, index) => c.overlap index
    | .error _ => false
  if overlaps then s.trap Cause.copyDesc 6
  else if s.maskOwned s.cur k then s.trap Cause.maskOwned (k.setWidth 64)
  else if form = 2 ∧ c.d4.toNat % 4 ≠ 0 then s.trap Cause.misalignedData c.d4
  else
    match list with
    | .error e => e.out s
    | .ok (ips, index) =>
      match s.probeChunks word c c.descending index with
      | .error e => e.out s
      | .ok ps => (s.usePages (coreOf s.cur) ips).endRemote.copyStart form k d index ps

/-- A copy instruction: the checks of R292 in order. The overlap of a cpyx needs its index list, which is read first as far
as it can be (log 40). -/
def State.copy (s : State) (form : Nat) (k : KReg) (a : Reg) : Out :=
  let word := packR 0x34 (kField k) a 0 (BitVec.ofNat 11 form)
  let d := s.me.copyRegs a
  let c := copyDesc form d
  if !s.engineFree (coreOf s.cur) then s.stall
  else if s.fencePending then s.waitQuiet
  else
    match copyFault form d with
    | some n => s.trap Cause.copyDesc (BitVec.ofNat 64 n)
    | none =>
      match s.indexPlaces word c with
      | .error (.wait t) => .next t
      | .error e => s.copyChecks form k d word (.error e)
      | .ok ips =>
        match s.me.reader.bytes s ips with
        | (some bs, _) => s.copyChecks form k d word (.ok (ips, c.entries bs))
        | (none, r) => (s.keepProbe ips none).askReads r

/-- CPY. -/
def execCpy (k : KReg) (a : Reg) (s : State) : Out := s.copy 0 k a
/-- CPYQ. -/
def execCpyq (k : KReg) (a : Reg) (s : State) : Out := s.copy 1 k a
/-- CPYX. -/
def execCpyx (k : KReg) (a : Reg) (s : State) : Out := s.copy 2 k a
/-- CPYW. -/
def execCpyw (k : KReg) (a : Reg) (s : State) : Out := s.copy 3 k a

/-! ### Landing (R291, R293, R294) -/

/-- Where a copy's byte lies: its virtual and physical address, and the host address of a window byte, by the mapping that
its probe found (R381). -/
structure Spot where
  va : Word
  pa : Nat
  host : Option Nat
  deriving DecidableEq, Repr

/-- The place of a copy's byte on its core: the local region of the core, or a page of its probe. -/
def Copy.spot (x : Copy) (c : CoreId) (a : Acc) (va : Word) : Option Spot :=
  if isLocal va.toNat then some { va := va, pa := slotBase c.val + (va.toNat - 0x7FF000000000), host := none }
  else (x.pages.find? (fun p => p.acc == a && p.vpn == va.toNat / 2 ^ 15)).map (fun p =>
    { va := va, pa := p.base + va.toNat % 2 ^ 15, host := p.host.map (fun ha => (ha + va.toNat % 2 ^ 15) % 2 ^ 64) })

/-- What the next chunk of a copy reads and writes. -/
structure ChunkIO where
  chunk : Nat
  srcs : List Spot
  dsts : List Spot
  writes : List ByteWrite
  deriving DecidableEq, Repr

/-- A byte read through a copy's pages. A row that the header names now and did not name at the probe has no page: its
bytes are free values (R293: a write between the issue and the landing races with the copy). -/
def State.copyByte (s : State) (c : CoreId) (x : Copy) (va : Word) : Byte :=
  match x.spot c .read va with
  | some p => s.engineByte c p.host p.pa
  | none => Config.hostByte s.tick va.toNat

/-- The reads and writes of a copy's next chunk. -/
def State.chunkIO (s : State) (c : CoreId) (x : Copy) : ChunkIO :=
  let d := copyDesc x.form.toNat x.d
  let ch := (d.order x.desc).getD x.next 0
  let sv := d.srcBytes x.index ch
  let src := sv.map (fun va => s.copyByte c x va)
  let rv := d.srcRows ch src
  let rows := rv.map (fun va => s.copyByte c x va)
  let dv := (d.dstBytes ch).map (fun va => x.spot c .write va)
  let writes := (dv.zip (d.values ch src rows)).filterMap (fun y => y.1.map (fun p =>
    ({ pa := p.pa, val := y.2.1, mask := y.2.2 } : ByteWrite)))
  { chunk := ch, srcs := (sv ++ rv).filterMap (fun va => x.spot c .read va), dsts := dv.filterMap id,
    writes := writes }

/-- The spots of a chunk. -/
def ChunkIO.all (io : ChunkIO) : List Spot := io.srcs ++ io.dsts

/-- The copy error of uncorrectable data. -/
def Stop.copyError : Stop → Option (CopyError × Word)
  | .trap c v =>
    some (if c = Cause.memUncorrectable then .mem else if c = Cause.llcUncorrectable then .llc else .laneSram, v)
  | _ => none

/-- The errors that stop a chunk: uncorrectable data that it reads or merges, and a byte in the local memory of a fenced
chiplet (R298, R366). -/
def State.chunkErrors (s : State) (c : CoreId) (io : ChunkIO) : List (CopyError × Word) :=
  let data := if s.clean then [] else
    (io.srcs.filter (fun p => !s.coreHeld c p.pa)).filterMap (fun p => s.spoiled [] p.pa) ++
    (io.dsts.filter (fun p => !s.queueMends c p.pa)).filterMap (fun p => s.spoiled io.writes p.pa)
  let fen := (io.all.find? (fun p => s.fencedFor c p.pa)).toList.map (fun p => (CopyError.chipletFenced, p.va))
  (data.filterMap Stop.copyError).eraseDups ++ fen

/-- A timeout a chunk may end in: one of its remote bytes (R298). -/
def ChunkIO.timesOut (io : ChunkIO) (v : Word) : Bool := io.all.any (fun p => isRemote p.pa && BitVec.ofNat 64 p.pa == v)

/-- A copy has been at its next chunk for FTO base clocks, by which its accesses of other modules have been answered or time
out (R385, log 14). -/
def State.chunkLate (s : State) (x : Copy) : Bool := decide (x.since + s.fto ≤ s.baseClock)

/-- A byte of another module that is not answered any more, or that traffic does not reach: its access can only time out
(R384, R385). -/
def State.chunkCut (s : State) (x : Copy) (io : ChunkIO) : Bool :=
  io.all.any (fun p => isRemote p.pa && (s.chunkLate x || !s.routeUp (s.moduleOf p.pa)))

/-- A transposer of core c writes the lines of a list in turn through the core's queue: the state, when each finds room. -/
def State.engineLines (s : State) (c : CoreId) (x : Copy) : List (List ByteWrite) → Option State
  | [] => some s
  | p :: rest =>
    let w : QueuedWrite :=
      { hart := x.owner, launch := x.launch, gen := (s.chiplet (chipletOf c)).gen, group := s.group, after := 0, ordered := false,
        bytes := p }
    let t := s.makeRoom c w (s.core c).queue.length
    if queueFits (t.core c).queue w then (t.enqueue c w).engineLines c x rest else none

/-- Writes of a transposer of core c: local and global ones enter the core's queue, the others are sent; none while the
queue has no room. -/
def State.engineWrites (s : State) (c : CoreId) (x : Copy) (dsts : List Spot) (ws : List ByteWrite) : Option State :=
  let all := asOne ws
  let hostW := all.filterMap (fun w => match s.region w.pa with
    | .host _ => ((dsts.find? (fun p => p.pa == w.pa)).bind (fun p => p.host)).map (fun a =>
        ({ addr := BitVec.ofNat 64 a, val := mixByte (Config.hostByte s.tick a) w.val w.mask } : HostWrite))
    | _ => none)
  let rem := all.filter (fun w => isRemote w.pa)
  let own := all.filter (fun w => match s.region w.pa with
    | .global | .spad _ _ | .sdm _ _ => true
    | _ => false)
  let t := { s with hostOut := s.hostOut ++ hostW, group := s.group + 1 }
  (if rem.isEmpty then t else t.post [.store rem]).engineLines c x (lineParts [own])

/-- A copy of a core is replaced, or removed. -/
def State.setCopy (s : State) (c : CoreId) (i : Nat) (x : Option Copy) : State :=
  s.modCore c (fun k => { k with copies := match x with
    | some y => k.copies.set i y
    | none => k.copies.eraseIdx i })

/-- A copy stands at a chunk end while its hart's context is being saved (R296). -/
def State.copyStands (s : State) (x : Copy) : Bool := !x.retired && (s.hart x.owner).status == .saving

/-- CHUNK_LAND: the next chunk of a copy with a transposer lands and its bit is set; after the last the copy ends. It is
not due while a line of the chunk is locked, the queue has no room for it, it needs a module that is cut off or has not
answered in time, or it stops on an error. -/
def execChunkLand (c : CoreId) (i : Nat) (s : State) : Out :=
  match (s.core c).copies[i]? with
  | none => s.stall
  | some x =>
    let n := (copyDesc x.form.toNat x.d).chunks
    let io := s.chunkIO c x
    if !x.engine || s.copyStands x || n ≤ x.next || !(s.chunkErrors c io).isEmpty || s.chunkCut x io ||
        io.all.any (fun p => s.lineHeld p.pa) then s.stall
    else
      match s.engineWrites c x io.dsts io.writes with
      | none => s.stall
      | some t =>
        let t := t.step1
        let t := if x.retired then t else
          t.modHart x.owner (fun h => h.putK x.k (setBit (h.kr x.k) io.chunk true))
        .next (t.setCopy c i (if x.next + 1 < n then some { x with next := x.next + 1, since := s.baseClock }
          else none))

/-- The cause of a copy's error (R298, R366). -/
def copyCause : CopyError → BitVec 7
  | .mem => Cause.memUncorrectable
  | .llc => Cause.llcUncorrectable
  | .laneSram => Cause.laneSram
  | .fabricTimeout => Cause.fabricTimeout
  | .chipletFenced => Cause.chipletFenced

/-- The writes of a failing chunk that are free to stand: those of lines and memories that take them (R298). -/
def State.strayWrites (s : State) (c : CoreId) (io : ChunkIO) : List ByteWrite :=
  ((asOne io.writes).zipIdx.filter (fun w => Config.freeBit s.tick w.2 && !s.fencedFor c w.1.pa && !s.lineHeld w.1.pa &&
    (s.clean || (s.spoiled [] w.1.pa).isNone))).map (fun w => w.1)

/-- COPY_ERROR_STOP: an error of the failing chunk stops the copy, a timeout once FTO base clocks have passed (R385); each
destination byte of the chunk holds its old or its new value, a free choice, and the report waits for its boundary (R298).
With no such error nothing happens. -/
def execCopyErrorStop (c : CoreId) (i : Nat) (e : CopyError) (tval : Word) (s : State) : Out :=
  match (s.core c).copies[i]? with
  | none => s.stall
  | some x =>
    let io := s.chunkIO c x
    let due := x.engine && !s.copyStands x && x.next < (copyDesc x.form.toNat x.d).chunks &&
      ((s.chunkErrors c io).contains (e, tval) || (e == .fabricTimeout && s.chunkLate x && io.timesOut tval))
    if !due then s.stall
    else
      match s.engineWrites c x io.dsts (s.strayWrites c io) with
      | none => s.stall
      | some t =>
        let t := t.step1
        let t := if x.retired then t else
          t.modHart x.owner (fun h => { h with reports := h.reports ++ [{ cause := copyCause e, tval := tval }] })
        .next (t.setCopy c i none)

/-- RESTORED_COPY_START: the first restored copy that waits takes a free transposer (R297). -/
def execRestoredCopyStart (c : CoreId) (i : Nat) (s : State) : Out :=
  let cs := (s.core c).copies
  match cs[i]? with
  | none => s.stall
  | some x =>
    if x.engine || s.copyStands x || 2 ≤ (cs.filter (fun k => k.engine)).length || (cs.take i).any (fun k => !k.engine) then s.stall
    else .next (s.setCopy c i (some { x with engine := true, since := s.baseClock }))

/-! ### WAITM (R295) -/

/-- The clear bits among the first lim of k. -/
def Hart.clearBits (h : Hart) (k : KReg) (lim : Nat) : Nat := lim - countOnes (h.kr k).toNat lim

/-- The uncorrectable word among the first lim bits of k that WAITM of hart h reads (R345). -/
def State.waitmHit (s : State) (h : HartId) (k : KReg) (lim : Nat) : Option LaneMark :=
  (laneHit (s.hart h).marks (kReads k (fun i => if i < lim then some i else none))).map (fun x => x.2)

/-- WAITM ends: no copy owns k, every wanted bit is set, or one of them is uncorrectable. -/
def State.waitmDone (s : State) (h : HartId) (k : KReg) (lim : Nat) : Bool :=
  !s.maskOwned h k || (s.hart h).clearBits k lim == 0 || (s.waitmHit h k lim).isSome

/-- WAITM returns the count of clear bits; a bad word of the bits that it reads is reported (R345, log 94). -/
def State.waitmReturn (s : State) (d : Reg) (k : KReg) (lim : Nat) : Out :=
  match s.waitmHit s.cur k lim with
  | some m => s.trap Cause.laneSram (laneVal m)
  | none => s.finish (fun h => { h with status := .running }.setX d (BitVec.ofNat 64 (h.clearBits k lim)))

/-- The executing hart waits in `w`: it is BLOCKED with its pc at the instruction (Table 3.1). -/
def State.block (s : State) (w : Waiting) : Out := .next (s.modMe (fun h => { h with status := .blocked w }))

/-- WAITM. -/
def execWaitm (d : Reg) (k : KReg) (b : Reg) (s : State) : Out :=
  let lim := min (s.me.xr b).toNat VLMAX
  if s.waitmDone s.cur k lim then s.waitmReturn d k lim else s.block (.waitm d k lim)

/-- Hart h begins an execution of its head instruction, which holds on only when it says so. -/
def State.beginAs (s : State) (h : HartId) : State := { s.modHart h (fun x => { x with held := false }) with cur := h }

/-- After an execution of hart h's head instruction: unless it holds on, it waits at no home any more (R252, R350); and
when it has ended, the next instruction becomes the head in this clock (R57). -/
def State.settled (s : State) (h : HartId) : State :=
  let x := s.hart h
  let t := if x.held then s else s.leaveLocks h
  if x.held || x.remote != .idle then t
  else t.modHart h (fun y => { y with headAt := (s.core (coreOf h)).cycle.toNat })

/-- What `f` does as hart h; the executing hart is as before afterwards. -/
def State.asHart (s : State) (h : HartId) (f : State → Out) : Out :=
  andThen (f (s.beginAs h)) (fun t => .next { t.settled h with cur := s.cur })

/-- WAITM_RETURN. -/
def execWaitmReturn (h : HartId) (s : State) : Out :=
  match (s.hart h).status with
  | .blocked (.waitm d k lim) => if s.waitmDone h k lim then s.asHart h (fun t => t.waitmReturn d k lim) else s.stall
  | _ => s.stall

/-! ### Asynchronous error reports (R298) -/

/-- A report of hart h is due: it runs, is parked, or waits in anything but a WAITM that would return, with INH = 0. -/
def State.reportDue (s : State) (h : HartId) : Bool :=
  let x := s.hart h
  !x.inh && !x.reports.isEmpty &&
    match x.status with
    | .running | .parked => x.remote == .idle && !x.held
    | .blocked (.waitm _ k lim) => !s.waitmDone h k lim
    | .blocked _ => true
    | _ => false

/-- ASYNC_ERROR_REPORT: the oldest report is taken at the boundary; epc is the pc that would have executed next (R298,
R343, Table 13.4). -/
def execAsyncErrorReport (h : HartId) (s : State) : Out :=
  match (s.hart h).reports with
  | [] => s.stall
  | r :: rest =>
    if !s.reportDue h then s.stall
    else
      let t := s.modHart h (fun x => { x with reports := rest })
      .next (t.trapHart h r.cause r.tval (t.hart h).pc)

end Sys2Proof.Machine
end

