-- ==== Sys2Proof/Machine/Weave.lean ====
section
/-! DEFINITION. The Weave unit (R302 to R310): cursor slots, the descriptor, the sequence of R304 as a machine of
single comparisons and emissions, and the WEAVE instructions. -/

namespace Sys2Proof.Machine

/-! ### The descriptor (Table 11.6) -/

/-- MODE: 0 intersect, 1 union, 2 expand. -/
def Cursor.mode (c : Cursor) : Nat := c.desc[0].toNat % 4
/-- The A stream is CSR. -/
def Cursor.acsr (c : Cursor) : Bool := c.desc[0].getLsbD 2
/-- The first A row. -/
def Cursor.afirst (c : Cursor) : Nat := c.desc[3].toNat % 2 ^ 32
/-- A rows, or the length of a list. -/
def Cursor.acount (c : Cursor) : Nat := c.desc[3].toNat / 2 ^ 32
/-- B length, or B rows. -/
def Cursor.blen (c : Cursor) : Nat := c.desc[6].toNat % 2 ^ 32
/-- The rows of the A stream: a list has one. -/
def Cursor.rows (c : Cursor) : Nat := if c.acsr then c.acount else 1
/-- The most pairs of one WVSTEP; a register holds 32,768 (log 15). -/
def Cursor.cap (c : Cursor) : Nat :=
  let n := c.desc[7].toNat % 2 ^ 16
  if n = 0 then VLMAX else min n VLMAX

/-- A descriptor that breaks Table 11.6 or the encodings that its mode requires (R303). -/
def weaveBad (d : Vector Word 8) : Bool :=
  let mode := d[0].toNat % 4
  let acsr := d[0].getLsbD 2
  let bcsr := d[0].getLsbD 3
  d[0].toNat / 16 != 0 || mode == 3 || bcsr != (mode == 2) || (!acsr && d[2] != 0) || (!bcsr && d[5] != 0) ||
    (acsr && decide (2 ^ 32 ≤ d[3].toNat % 2 ^ 32 + d[3].toNat / 2 ^ 32)) || d[6].toNat / 2 ^ 32 != 0 ||
    d[7].toNat / 2 ^ 16 != 0

/-- The first array address that is no multiple of 4, in the order of the descriptor (R306, log 93). -/
def weaveMisaligned (d : Vector Word 8) : Option Word := [d[1], d[2], d[4], d[5]].find? (fun a => a.toNat % 4 != 0)

/-! ### Slots (R302) -/

/-- A cursor slot of the executing hart's core. -/
def State.slot (s : State) (n : KReg) : Option Slot := s.myCore.slots[n.toNat]'n.isLt
/-- The state with a slot of that core replaced. -/
def State.setSlot (s : State) (n : KReg) (x : Option Slot) : State :=
  s.modMyCore (fun c => { c with slots := c.slots.set n.toNat x n.isLt })

/-- The slot check: the tval of WEAVE_CURSOR for a slot of another hart, or, unless `free` is allowed, for a free one. -/
def State.slotCheck (s : State) (n : KReg) (free : Bool) : Option Word :=
  match s.slot n with
  | some x => if x.owner = s.cur then none else some (BitVec.ofNat 64 (n.toNat + 256 * (x.owner.val + 1)))
  | none => if free then none else some (n.setWidth 64)

/-! ### Reads (R305) -/

/-- What the reads of one instruction have asked of other modules, and the places they used. -/
structure WeaveIO where
  reader : Reader
  places : List Place
  deriving DecidableEq, Repr

/-- What stops an instruction in its reads, with the reads made before (R198). -/
abbrev WeaveStop := Stop × WeaveIO

/-- A little-endian value of n bytes read as a load of the hart, once its pages are marked. -/
def State.weaveRead (s : State) (word : BitVec 32) (io : WeaveIO) (va : Word) (n : Nat) :
    Except WeaveStop (Nat × WeaveIO) :=
  match s.probeBytes .read word (addrsFrom va n) with
  | .error e => .error (e, io)
  | .ok ps =>
    match (s.lockCheck s.cur ps).orElse (fun _ => s.readError s.cur ps) with
    | some e => .error (e, io)
    | none =>
      let all := io.places ++ ps
      let t := s.usePages (coreOf s.cur) all
      match io.reader.bytes t ps with
      | (some bs, r) => .ok (leNat bs, { reader := r, places := all })
      | (none, r) => .error (.wait ((t.keepProbe all none).usedPins.asking r), io)

/-- Entry n of an array of 32-bit values. -/
def State.weaveEntry (s : State) (word : BitVec 32) (io : WeaveIO) (base : Word) (n : Nat) :
    Except WeaveStop (Nat × WeaveIO) := s.weaveRead word io (base + BitVec.ofNat 64 (4 * n)) 4

/-- The pages are used when an instruction's reads perform. -/
def State.weaveUse (s : State) (io : WeaveIO) : State := s.endRemote.usePages (coreOf s.cur) io.places

/-- WEAVE_UNSORTED with its tval (R304). -/
def unsorted (stream pointer : Nat) (n : Nat) : Stop :=
  .trap Cause.weaveUnsorted (BitVec.ofNat 64 (stream * 2 ^ 63 + pointer * 2 ^ 62 + n % 2 ^ 32))

/-- Two row pointers of an array, read in order and checked. -/
def State.weavePair (s : State) (word : BitVec 32) (io : WeaveIO) (base : Word) (stream n : Nat) :
    Except WeaveStop (Nat × Nat × WeaveIO) :=
  match s.weaveEntry word io base n with
  | .error e => .error e
  | .ok (p, io) =>
    match s.weaveEntry word io base (n + 1) with
    | .error e => .error e
    | .ok (q, io) => if q < p then .error (unsorted stream 1 (n + 1), io) else .ok (p, q, io)

/-! ### The sequence (R304) -/

/-- A pair: A position, B position and row. -/
structure Pair where
  pa : Nat
  pb : Nat
  row : Nat
  deriving DecidableEq, Repr

/-- NONE. -/
def noPos : Nat := 0xFFFFFFFF

/-- The cursor at the end of its row, whose A positions end at `stop`: the next row's start, or exhausted. -/
def Cursor.nextRow (c : Cursor) (stop : Nat) : Cursor :=
  let c := { c with pa := min (max stop c.wlo) c.whi, pb := 0, ard := false, brd := false, inExp := false }
  if c.afirst + c.rows ≤ c.row + 1 then { c with done := true } else { c with row := c.row + 1 }

/-- The cursor with the A index at PA consumed; `v` is its value when it was read. -/
def Cursor.eatA (c : Cursor) (v : Option Nat) : Cursor :=
  { c with pa := c.pa + 1, lastA := v.getD c.lastA, ard := v.isSome }
/-- The cursor with the B index at PB consumed. -/
def Cursor.eatB (c : Cursor) (v : Option Nat) : Cursor :=
  { c with pb := c.pb + 1, lastB := v.getD c.lastB, brd := v.isSome }

/-- What one unit of the sequence gives: the cursor after it, what it read, and the pair it emits. -/
abbrev UnitOut := Except WeaveStop (Cursor × WeaveIO × Option Pair)

/-- A comparison of A(PA) with B(PB), both read and checked. -/
def State.weaveCompare (s : State) (word : BitVec 32) (c : Cursor) (io : WeaveIO) (lo : Nat) : UnitOut :=
  match s.weaveEntry word io c.desc[1] c.pa with
  | .error e => .error e
  | .ok (a, io) =>
    if lo < c.pa ∧ c.ard ∧ a ≤ c.lastA then .error (unsorted 0 0 c.pa, io)
    else
      match s.weaveEntry word io c.desc[4] c.pb with
      | .error e => .error e
      | .ok (b, io) =>
        if 0 < c.pb ∧ c.brd ∧ b ≤ c.lastB then .error (unsorted 1 0 c.pb, io)
        else
          let union := c.mode == 1
          if a < b then .ok (c.eatA (some a), io, if union then some ⟨c.pa, noPos, c.row⟩ else none)
          else if b < a then .ok (c.eatB (some b), io, if union then some ⟨noPos, c.pb, c.row⟩ else none)
          else .ok ((c.eatA (some a)).eatB (some b), io, some ⟨c.pa, c.pb, c.row⟩)

/-- The A index at PA of expand: its B row is entered, or it is passed. -/
def State.weaveEnter (s : State) (word : BitVec 32) (c : Cursor) (io : WeaveIO) : UnitOut :=
  match s.weaveEntry word io c.desc[1] c.pa with
  | .error e => .error e
  | .ok (j, io) =>
    if c.blen ≤ j then .ok (c.eatA none, io, none)
    else
      match s.weavePair word io c.desc[5] 1 j with
      | .error e => .error e
      | .ok (p, q, io) =>
        if p = q then .ok (c.eatA none, io, none)
        else .ok ({ c with inExp := true, pb := p, pbEnd := q }, io, none)

/-- One unit of the sequence: a comparison, an emission, an entry of a B row or the end of a row. -/
def State.weaveUnit (s : State) (word : BitVec 32) (c : Cursor) (io : WeaveIO) : UnitOut :=
  match (if c.acsr then s.weavePair word io c.desc[2] 0 c.row else .ok (0, c.acount, io)) with
  | .error e => .error e
  | .ok (p, q, io) =>
    let lo := max p c.wlo
    let hi := min q c.whi
    if c.mode = 2 then
      if c.inExp then
        let c' := { c with pb := c.pb + 1 }
        .ok (if c.pbEnd ≤ c.pb + 1 then { c'.eatA none with inExp := false } else c', io, some ⟨c.pa, c.pb, c.row⟩)
      else if c.pa < hi then s.weaveEnter word c io
      else .ok (c.nextRow q, io, none)
    else if c.pa < hi ∧ c.pb < c.blen then s.weaveCompare word c io lo
    else if c.mode = 1 ∧ c.pa < hi then .ok (c.eatA none, io, some ⟨c.pa, noPos, c.row⟩)
    else if c.mode = 1 ∧ c.pb < c.blen then .ok (c.eatB none, io, some ⟨noPos, c.pb, c.row⟩)
    else .ok (c.nextRow q, io, none)

/-- A step in progress: the cursor, its reads, the next element, the pairs emitted in reverse, and what stopped it. -/
structure WeaveRun where
  cur : Cursor
  io : WeaveIO
  e : Nat
  out : List (Nat × Pair × Bool)
  stop : Option Stop

/-- The loop of R307 for at most `fuel` units: it ends when e reaches cap, the sequence is exhausted or a read stops. -/
def State.weaveLoop (s : State) (word : BitVec 32) (cap : Nat) : Nat → WeaveRun → WeaveRun
  | 0, r => r
  | fuel + 1, r =>
    if cap ≤ r.e ∨ r.cur.done then r
    else
      match s.weaveUnit word r.cur r.io with
      | .error (e, io) => { r with stop := some e, io := io }
      | .ok (c, io, none) => s.weaveLoop word cap fuel { r with cur := c, io := io }
      | .ok (c, io, some p) =>
        s.weaveLoop word cap fuel
          { r with cur := { c with lastRow := p.row }, io := io, e := r.e + 1,
                   out := (r.e, p, r.e == 0 || p.row != r.cur.lastRow) :: r.out }

/-- More units than any cursor's sequence has. -/
def weaveFuel : Nat := 2 ^ 100

/-! ### WVOPEN (R306) -/

/-- The descriptor of 64 bytes. -/
def descOf (bs : List Byte) : Vector Word 8 := Vector.ofFn (fun i : Fin 8 => dwordAt bs i.val)

/-- The cursor at the start of the sequence over window [lo, hi) from a row. -/
def cursorAt (d : Vector Word 8) (lo hi row olo ohi : Nat) : Cursor :=
  let c : Cursor := { desc := d, wlo := lo, whi := hi, row := row, lastRow := 0, pa := lo, pb := 0, lastA := 0,
                      lastB := 0, inExp := false, brd := false, ard := false, done := false, pbEnd := 0, olo := olo,
                      ohi := ohi }
  { c with done := c.rows == 0 }

/-- The window of a descriptor: the first and last row pointers of a CSR stream, or the list. -/
def State.weaveWindow (s : State) (word : BitVec 32) (io : WeaveIO) (c : Cursor) : Except WeaveStop (Nat × Nat × WeaveIO) :=
  if c.acsr then
    match s.weaveEntry word io c.desc[2] c.afirst with
    | .error e => .error e
    | .ok (p, io) =>
      match s.weaveEntry word io c.desc[2] (c.afirst + c.acount) with
      | .error e => .error e
      | .ok (q, io) => if q < p then .error (unsorted 0 1 (c.afirst + c.acount), io) else .ok (p, q, io)
  else .ok (0, c.acount, io)

/-- WVOPEN. -/
def execWvopen (d a : Reg) (sl : KReg) (s : State) : Out :=
  let h := s.me
  let ea := h.xr a
  let word := packR 0x35 d a 0 ((0 : BitVec 4) ++ sl ++ (0 : BitVec 4))
  match s.slotCheck sl true with
  | some v => s.trap Cause.weaveCursor v
  | none =>
    if ea.toNat % 8 ≠ 0 then s.trap Cause.misalignedData ea
    else
      match s.weaveRead word { reader := h.reader, places := [] } ea 64 with
      | .error (e, _) => e.out s
      | .ok (n, io) =>
        let desc := descOf (leBytes 64 n)
        if weaveBad desc then (s.weaveUse io).trap Cause.weaveCursor ea
        else
          match weaveMisaligned desc with
          | some x => (s.weaveUse io).trap Cause.misalignedData x
          | none =>
            match s.weaveWindow word io (cursorAt desc 0 0 0 0 0) with
            | .error (e, io) => e.out (s.weaveUse io)
            | .ok (p, q, io) =>
              let c := cursorAt desc p q (cursorAt desc 0 0 0 0 0).afirst p q
              ((s.weaveUse io).setSlot sl (some { owner := s.cur, cur := c })).finish (fun h =>
                h.setX d (BitVec.ofNat 64 (q - p)))

/-! ### WVSTEP (R307, R308) -/

/-- The type of what a WVSTEP writes: UINT of 32 bits in groups of two. -/
def weaveType : VT := { ill := false, ig := 1, sat := false, mz := false, kind := 1, wb := 32, wa := 32, wd := 32 }

/-- The pairs written to the three groups and the head bits to kh. -/
def Hart.weaveWrite (h : Hart) (kh : KReg) (a b : Reg) (out : List (Nat × Pair × Bool)) : Hart :=
  let h := h.putElems a 2 (out.map (fun x => (x.1, x.2.1.pa)))
  let h := h.putElems (regAt a 2) 2 (out.map (fun x => (x.1, x.2.1.pb)))
  let h := h.putElems b 2 (out.map (fun x => (x.1, x.2.1.row)))
  h.putK kh (putBitsK (h.kr kh) (out.map (fun x => (x.1, x.2.2))))

/-- The descriptors of the three groups over e elements, with `prog` element groups complete. -/
def Hart.weaveStamp (h : Hart) (a b : Reg) (e prog : Nat) : Hart :=
  let vl := BitVec.ofNat 16 e
  ((h.stamp a weaveType vl 0 prog 2).stamp (regAt a 2) weaveType vl 0 prog 2).stamp b weaveType vl 0 prog 2

/-- The registers of a WVSTEP that is misaligned or overlaps another, va first, then vb, then the copy register. -/
def Hart.weaveAlign (h : Hart) (a b : Reg) : Option Reg :=
  if a.toNat % 4 ≠ 0 then some a
  else if b.toNat % 2 ≠ 0 ∨ b.toNat / 4 = a.toNat / 4 then some b
  else match h.copyReg with
    | some d2 => if d2.toNat % 2 ≠ 0 then some d2 else none
    | none => none

/-- WVSTEP: a cursor exhausted at issue writes nothing, its descriptors included (R307). -/
def execWvstep (kh : KReg) (a b : Reg) (sl : KReg) (s : State) : Out :=
  let h := s.me
  let word := packR 0x35 (kField kh) a b ((0 : BitVec 4) ++ sl ++ (1 : BitVec 4))
  match s.slotCheck sl false, s.slot sl with
  | some v, _ => s.trap Cause.weaveCursor v
  | none, none => s.trap Cause.weaveCursor (sl.setWidth 64)
  | none, some x =>
    match h.weaveAlign a b with
    | some r => s.trap Cause.vgroupAlign (regVal r)
    | none =>
      if s.maskOwned s.cur kh then s.trap Cause.maskOwned (kh.setWidth 64)
      else
        let cap := x.cur.cap
        if cap < h.vstart.toNat then s.trap Cause.vstartRange (h.vstart.setWidth 64)
        else
          let r := s.weaveLoop word cap (if s.slice = 0 then weaveFuel else s.slice)
            { cur := x.cur, io := { reader := h.reader, places := [] }, e := h.vstart.toNat, out := [], stop := none }
          let out := r.out.reverse
          let base (t : State) : State := (t.weaveUse r.io).setSlot sl (some { owner := t.cur, cur := r.cur })
          let part (t : State) : State := (base t).modMe (fun h =>
            let h := if out.isEmpty then h
              else ((h.weaveWrite kh a b out).weaveStamp a b r.e 0).copyGroup a 2
            { h with vstart := BitVec.ofNat 15 r.e })
          match r.stop with
          | some (.wait t) => .next t
          | some e => e.out (part s)
          | none =>
            if r.e < cap ∧ !r.cur.done then .next (part s)
            else
              (base s).finish (fun h =>
                let h := h.weaveWrite kh a b out
                let h := if r.e = 0 ∨ x.cur.done then h
                  else (h.weaveStamp a b r.e (progOf (BitVec.ofNat 16 r.e))).copyGroup a 2
                { h with vl := BitVec.ofNat 16 r.e, vstart := 0 })

/-! ### WVSPLIT (R309) -/

/-- The bisection between row l, whose pointer is pl, and row g, whose pointer is pg: the last row whose pointer does
not exceed lo. -/
def State.weaveBisect (s : State) (word : BitVec 32) (base : Word) (lo : Nat) :
    Nat → Nat → Nat → Nat → Nat → WeaveIO → Except WeaveStop (Nat × WeaveIO)
  | 0, l, _, _, _, io => .ok (l, io)
  | fuel + 1, l, g, pl, pg, io =>
    if g ≤ l + 1 then .ok (l, io)
    else
      let m := (l + g) / 2
      match s.weaveEntry word io base m with
      | .error e => .error e
      | .ok (v, io) =>
        if v < pl ∨ pg < v then .error (unsorted 0 1 m, io)
        else if v ≤ lo then s.weaveBisect word base lo fuel m g v pg io
        else s.weaveBisect word base lo fuel l m pl v io

/-- WVSPLIT. -/
def execWvsplit (d a b : Reg) (sl : KReg) (s : State) : Out :=
  let h := s.me
  let word := packR 0x35 d a b ((0 : BitVec 4) ++ sl ++ (2 : BitVec 4))
  match s.slotCheck sl false, s.slot sl with
  | some v, _ => s.trap Cause.weaveCursor v
  | none, none => s.trap Cause.weaveCursor (sl.setWidth 64)
  | none, some x =>
    let c := x.cur
    if c.mode = 1 then s.trap Cause.weaveCursor (sl.setWidth 64)
    else
      let t := (h.xr a).toNat
      let lo := min (c.olo + (h.xr b).toNat * t) c.ohi
      let hi := min (lo + t) c.ohi
      let io : WeaveIO := { reader := h.reader, places := [] }
      match (if c.acsr then s.weaveBisect word c.desc[2] lo 33 c.afirst (c.afirst + c.acount) c.olo c.ohi io
          else .ok (c.afirst, io)) with
      | .error (e, io) => e.out (s.weaveUse io)
      | .ok (row, io) =>
        ((s.weaveUse io).setSlot sl (some { owner := s.cur, cur := cursorAt c.desc lo hi row c.olo c.ohi })).finish
          (fun h => h.setX d (BitVec.ofNat 64 (hi - lo)))

/-! ### The cursor image (R310, Table 11.8) -/

/-- A doubleword of two 32-bit fields. -/
def dword2 (hi lo : Nat) : Word := BitVec.ofNat 32 hi ++ BitVec.ofNat 32 lo

/-- The doublewords of a cursor's image. -/
def Cursor.words (c : Cursor) : List Word :=
  c.desc.toList ++
    [dword2 c.whi c.wlo, dword2 c.lastRow c.row, dword2 c.pb c.pa, dword2 c.lastB c.lastA,
     (0 : BitVec 59) ++ boolBit c.inExp ++ boolBit c.brd ++ boolBit c.ard ++ boolBit c.done ++ (1 : BitVec 1),
     dword2 0 c.pbEnd, dword2 c.ohi c.olo, 0x5700000000000001]

/-- The 128-byte image. -/
def Cursor.image (c : Cursor) : List Byte := c.words.flatMap (fun w => leBytes 8 w.toNat)

/-- The cursor of an image, when the image is good (R310). -/
def Cursor.ofImage (bs : List Byte) : Option Cursor :=
  let w := dwordAt bs
  let hi (n : Nat) : Nat := (w n).toNat / 2 ^ 32
  let lo (n : Nat) : Nat := (w n).toNat % 2 ^ 32
  let desc := descOf bs
  let c : Cursor :=
    { desc := desc, wlo := lo 8, whi := hi 8, row := lo 9, lastRow := hi 9, pa := lo 10, pb := hi 10, lastA := lo 11,
      lastB := hi 11, inExp := (w 12).getLsbD 4, brd := (w 12).getLsbD 3, ard := (w 12).getLsbD 2,
      done := (w 12).getLsbD 1, pbEnd := lo 13, olo := lo 14, ohi := hi 14 }
  if w 15 ≠ 0x5700000000000001 ∨ 32 ≤ (w 12).toNat ∨ hi 13 ≠ 0 ∨ !(w 12).getLsbD 0 ∨ weaveBad desc ∨
      (weaveMisaligned desc).isSome ∨ c.whi < c.wlo ∨ c.pa < c.wlo ∨ c.whi < c.pa then none
  else some c

/-- WVSAVE. -/
def execWvsave (a : Reg) (sl : KReg) (s : State) : Out :=
  let ea := s.me.xr a
  if ea.toNat % 8 ≠ 0 then s.trap Cause.misalignedData ea
  else
    match s.slotCheck sl false, s.slot sl with
    | some v, _ => s.trap Cause.weaveCursor v
    | none, none => s.trap Cause.weaveCursor (sl.setWidth 64)
    | none, some x =>
      s.writeRun (packR 0x35 0 a 0 ((0 : BitVec 4) ++ sl ++ (3 : BitVec 4))) ea x.cur.image none (fun t => t.done)

/-- WVLOAD. -/
def execWvload (a : Reg) (sl : KReg) (s : State) : Out :=
  let ea := s.me.xr a
  if ea.toNat % 8 ≠ 0 then s.trap Cause.misalignedData ea
  else
    match s.slotCheck sl true with
    | some v => s.trap Cause.weaveCursor v
    | none =>
      s.readRun (packR 0x35 0 a 0 ((0 : BitVec 4) ++ sl ++ (4 : BitVec 4))) ea 128 (fun t bs =>
        match Cursor.ofImage bs with
        | none => t.trap Cause.weaveCursor ea
        | some c => (t.setSlot sl (some { owner := t.cur, cur := c })).done)

/-- WVCLOSE: a slot that is not open for the hart stays as it is. -/
def execWvclose (sl : KReg) (s : State) : Out :=
  match s.slot sl with
  | some x => if x.owner = s.cur then (s.setSlot sl none).done else s.done
  | none => s.done

end Sys2Proof.Machine
end

