-- ==== Sys2Proof/Machine/Farm.lean ====
section
/-! DEFINITION. Launch records (R312, R313), strips and their commits (R322 to R331), and the rope ring (R332): the
operations of a hart on base camp. -/

namespace Sys2Proof.Machine

/-! ### Base camp's reads and writes -/

/-- A physical address as base camp uses it: an address of more than 52 bits does not exist. -/
def State.campRegion (s : State) (pa : Nat) : Region := if 2 ^ 52 ≤ pa then .hole else s.region pa

/-- Writes of the base die, all at once: at their homes, to the host, and to other modules. -/
def State.campPut (s : State) (ws : List ByteWrite) : State :=
  let hostW := ws.filterMap (fun w => match s.region w.pa with
    | .host off => (s.aperture off).map (fun a => ({ addr := BitVec.ofNat 64 a, val := w.val } : HostWrite))
    | _ => none)
  let away := ws.filter (fun w => isRemote w.pa)
  let own := ws.filter (fun w => match s.region w.pa with
    | .global | .spad _ _ | .sdm _ _ => true
    | _ => false)
  let t := { s with hostOut := s.hostOut ++ hostW }
  (if away.isEmpty then t else t.post [.store away]).home own

/-- Bytes written by base camp at a physical address. -/
def State.campWrite (s : State) (pa : Nat) (bs : List Byte) : State := s.campPut (writesAt pa bs)

/-- A doubleword written by base camp, once its line is free; an address that does not exist stops the machine. -/
def State.campWord (s : State) (pa : Nat) (v : Word) (k : State → Out) : Out :=
  if s.campRegion pa = .hole then .fault (.physicalHole pa)
  else if s.lineHeld pa then s.stall
  else k (s.campWrite pa (leBytes 8 v.toNat))

/-! ### Records (Tables 12.1, 12.2) -/

/-- The record in eight doublewords. -/
def recordOf (w : Vector Word 8) : LaunchRec :=
  { entry := w[0], args := w[1], save := w[2], done := w[3], lavl := w[4].extractLsb' 32 32, savl := w[4].setWidth 32,
    rop := w[5].extractLsb' 60 3, rn := w[5].extractLsb' 56 4, blk := w[5].extractLsb' 32 24,
    strips := w[5].setWidth 25, kind := w[6].extractLsb' 58 2, prio := w[6].extractLsb' 56 2,
    asid := w[6].extractLsb' 40 16, team := w[6].extractLsb' 32 8, cores := w[6].setWidth 32 }

/-- DONE is an address base camp may write. -/
def LaunchRec.doneOk (r : LaunchRec) : Bool := r.done != 0 && r.done.toNat % 8 == 0

/-- Entry n of the address-space table, or the physical address that does not exist (R314). -/
def State.asEntry (s : State) (asid : BitVec 16) : Except Nat (Vector Word 4) :=
  let pa := s.camp.astab.toNat + 32 * asid.toNat
  match s.tableWord pa, s.tableWord (pa + 8), s.tableWord (pa + 16), s.tableWord (pa + 24) with
  | some a, some b, some c, some d => .ok #v[a, b, c, d]
  | _, _, _, _ => .error pa

/-- The cores a record permits: bits of absent cores are ignored, 0 permits every core (R25). -/
def State.permitted (s : State) (cores : BitVec 32) : List CoreId :=
  allCores.filter (fun c => decide (c.val < s.coreCount) && (cores == 0 || cores.getLsbD c.val))

/-- Check 1 of R313 but for the address space, and check 2. -/
def recordBad (w : Vector Word 8) : Bool :=
  let r := recordOf w
  w[5].getLsbD 63 || w[5].toNat / 2 ^ 25 % 2 ^ 7 != 0 || w[6].toNat / 2 ^ 60 != 0 || w[7] != 0 || r.kind == 3 ||
    r.entry.toNat % 4 != 0 || decide (2 ^ 48 ≤ r.entry.toNat) || r.rop == 7 || decide (8 < r.rn.toNat) || r.team == 0 ||
    (r.kind == 0 && (r.strips != 0 || w[4] != 0 || w[5].toNat / 2 ^ 32 != 0))

/-- The line of the address-space table that holds an entry is locked, and base camp's read of it waits (R252). -/
def State.entryHeld (s : State) (asid : BitVec 16) : Bool := s.lineHeld (s.camp.astab.toNat + 32 * asid.toNat)

/-- The checks of R313 on a record, in order, without check 5: `bad` is what stops before the record's address space is
read, and `k` takes the status of the first check that fails. `range` says whether check 3 is made. The outcome is `wait`
while the read of the address-space table waits. -/
def State.recordCheck (s : State) (w : Vector Word 8) (bad range : Bool) (wait : Out) (k : Option Byte → Out) : Out :=
  let r := recordOf w
  if bad || recordBad w then k (some 0x03)
  else if s.entryHeld r.asid then wait
  else
    match s.asEntry r.asid with
    | .error pa => .fault (.physicalHole pa)
    | .ok e =>
      k (if !e[0].getLsbD 0 then some 0x03
        else if range && decide (2 ^ 24 < r.strips.toNat) then some 0x02
        else if 4 * (s.permitted r.cores).length < r.team.toNat then some 0x02
        else none)

/-- A queue of base camp. -/
def State.queue (s : State) (q : Fin 16) : LaunchQueue := s.camp.queues.get q
/-- The state with a queue changed. -/
def State.modQueue (s : State) (q : Fin 16) (f : LaunchQueue → LaunchQueue) : State :=
  { s with camp := { s.camp with queues := s.camp.queues.set q.val (f (s.queue q)) q.isLt } }

/-- The queue holds 256 records (R313). -/
def State.queueFull (s : State) (q : Fin 16) : Bool := decide (256 ≤ (s.queue q).records.length)

/-- A record enters a queue at its end (R317). -/
def State.pushRecord (s : State) (q : Fin 16) (r : LaunchRec) : State :=
  s.modQueue q (fun x => { x with records := x.records ++ [{ record := r, headAt := s.baseClock }] })

/-- The identity of a farm reduction (Table 12.7). -/
def ropIdentity (rop : BitVec 3) : Word :=
  match rop.toNat with
  | 0 => 0
  | 1 => 0x8000000000000000
  | 2 => 0x80000000
  | 3 => 0x8000000000000000
  | 4 => 0x7FFFFFFFFFFFFFFF
  | _ => 0x7FF8000000000000

/-- The completion word (Table 12.4). -/
def completionWord (count : Nat) (status : Byte) : Word := BitVec.ofNat 64 (count % 2 ^ 32 * 2 ^ 32 + status.toNat)

/-- Doublewords written by base camp from an address up, in order, once their lines are free. -/
def State.campWords (s : State) (pa : Nat) : List Word → (State → Out) → Out
  | [], k => k s
  | v :: rest, k => s.campWord pa v (fun t => t.campWords (pa + 8) rest k)

/-- A record's completion word is written after the reduction results, and the queue's vector is signalled (R316,
R382). While a line that they write is locked, the whole waits, and the outcome is `wait`. -/
def State.complete (s : State) (q : Fin 16) (r : LaunchRec) (results : List Word) (count : Nat) (status : Byte)
    (wait : Out) (k : State → Out) : Out :=
  let d := r.done.toNat
  if (List.range (results.length + 1)).any (fun i => s.lineHeld (d + 8 * i)) then wait
  else
    s.campWords (d + 8) results (fun t => t.campWord d (completionWord count status) (fun t => k (t.signal (1 + q.val))))

/-- A record that passed its checks: a farm of no strips completes at once with its identities; any other is queued
(R313). -/
def State.acceptRecord (s : State) (q : Fin 16) (r : LaunchRec) (wait : Out) (k : State → Out) : Out :=
  if r.kind ≠ 0 ∧ r.strips = 0 then s.complete q r (List.replicate r.rn.toNat (ropIdentity r.rop)) 0 0x01 wait k
  else k (s.pushRecord q r)

/-! ### Strips (R322, R324, R328) -/

/-- Every strip is committed. -/
def Launch.allDone (x : Launch) : Bool := x.count == x.record.strips.toNat

/-- The strip that would be dealt next: one to be dealt again, then the lowest not yet dealt (R322). -/
def Launch.nextStrip (x : Launch) : Option Nat :=
  match x.redeal with
  | n :: _ => some n
  | [] => if x.nextDeal < x.record.strips.toNat then some x.nextDeal else none

/-- Open belayed strips of the module (R324). -/
def State.openBelayed (s : State) : Nat :=
  (s.camp.launches.map (fun x => if x.record.kind = 1 then x.opens.length else 0)).sum

/-- The strip that a launch may deal, within the deal window (R322). -/
def Launch.ready (x : Launch) : Option Nat :=
  match x.nextStrip with
  | none => none
  | some n => if x.failed.isNone && decide (n < x.stripFloor + 65536) then some n else none

/-- A strip of a launch would be one past the 128 open belayed strips (R324). -/
def State.atLimit (s : State) (x : Launch) : Bool := x.record.kind == 1 && decide (128 ≤ s.openBelayed)

/-- The strip that may be dealt now: within the deal window, and within 128 open belayed strips. -/
def State.dealable (s : State) (x : Launch) : Option Nat := if s.atLimit x then none else x.ready

/-- The avl of strip n (R328). -/
def LaunchRec.stripAvl (r : LaunchRec) (n : Nat) : Nat :=
  if n + 1 = r.strips.toNat ∧ r.lavl ≠ 0 then r.lavl.toNat else r.savl.toNat

/-- The launch after strip n is dealt to a rank. -/
def Launch.deal (x : Launch) (n rank : Nat) : Launch :=
  let lo := n * x.record.savl.toNat
  { x with
    redeal := x.redeal.filter (fun m => m != n)
    nextDeal := if n = x.nextDeal then n + 1 else x.nextDeal
    opens := x.opens ++ [{ strip := n, rank := rank, staged := [], deposits := [], post := lo,
                           stop := lo + x.record.stripAvl n, bad := [] }] }

/-- A strip waits to be dealt again, in ascending order. -/
def insertAsc (n : Nat) : List Nat → List Nat
  | [] => [n]
  | m :: rest => if n < m then n :: m :: rest else if n = m then m :: rest else m :: insertAsc n rest

/-- Strip n is dealt to the executing hart: x[d], sidx, avl, vl and vstart (R328). -/
def State.dealStrip (s : State) (x : Launch) (n : Nat) (d : Reg) : Out :=
  let avl := x.record.stripAvl n
  (s.modLaunch x.ident (fun y => y.deal n s.me.rank)).finish (fun h =>
    { ({ h with status := .running }.setX d (BitVec.ofNat 64 n)) with
      sidx := BitVec.ofNat 64 (n * x.record.savl.toNat), avl := BitVec.ofNat 64 avl,
      vl := BitVec.ofNat 16 (min avl VLMAX), vstart := 0 })

/-- The executing hart waits in `w`: it is BLOCKED with its pc at the instruction, without change when it waits there
already (Table 3.1). -/
def State.waitIn (s : State) (w : Waiting) : Out := s.block w

/-- Hart h waits in a STRIP. -/
def State.asksStrip (s : State) (h : HartId) : Bool :=
  match (s.hart h).status with
  | .blocked (.strip _) => true
  | _ => false

/-- A strip may be dealt to hart h: every hart whose STRIP reached base camp before and waits still has nothing that it may
be dealt (R322). -/
def State.mayServe (s : State) (h : HartId) : Bool :=
  (if s.asksStrip h then s.camp.asks.takeWhile (fun g => g != h) else s.camp.asks).all (fun g =>
    !s.asksStrip g || match s.launch (s.hart g).launch with
      | some x => (s.dealable x).isNone
      | none => true)

/-- The STRIP of hart h has reached base camp and waits, after those that wait already (R322). -/
def State.askStrip (s : State) (h : HartId) : State :=
  if s.asksStrip h then s
  else { s with camp := { s.camp with asks := s.camp.asks.filter (fun g => s.asksStrip g) ++ [h] } }

/-- STRIP. -/
def execStrip (d : Reg) (s : State) : Out :=
  match s.launch s.me.launch with
  | none => s.trap Cause.stripState 0
  | some x =>
    if x.record.kind = 0 then s.trap Cause.stripState 0
    else
      match x.openOf s.me.rank with
      | some o => s.trap Cause.stripState (BitVec.ofNat 64 o.strip)
      | none =>
        if x.allDone || x.failed.isSome then s.finish (fun h => { h with status := .running }.setX d (BitVec.allOnes 64))
        else
          match (if s.mayServe s.cur then s.dealable x else none) with
          | some n => s.dealStrip x n d
          | none => (s.askStrip s.cur).waitIn (.strip d)

/-! ### The rope ring (R332) -/

/-- An iteration is posted. -/
def Launch.posted (x : Launch) (i : Nat) : Bool := decide (i < x.ropeFloor) || x.postedAbove.contains i

/-- A floor moved past what is marked above it, for at most `fuel` marks. -/
def raiseFloor : Nat → Nat → List Nat → Nat × List Nat
  | 0, f, l => (f, l)
  | fuel + 1, f, l => if l.contains f then raiseFloor fuel (f + 1) (l.filter (fun n => n != f)) else (f, l)

/-- A mark set at or above a floor. -/
def markAbove (f n : Nat) (l : List Nat) : Nat × List Nat :=
  if n < f ∨ l.contains n then (f, l) else raiseFloor (l.length + 1) f (l ++ [n])

/-- Iteration i is posted. -/
def Launch.postOne (x : Launch) (i : Nat) : Launch :=
  let (f, l) := markAbove x.ropeFloor i x.postedAbove
  { x with ropeFloor := f, postedAbove := l }

/-- Posts of the strip of a rank from its post position up to but not including `hi`, each below floor + 8192 and none
once the launch has failed, which freezes the rope (R332, R404). -/
def Launch.postUpTo (x : Launch) (rank hi : Nat) : Nat → Launch
  | 0 => x
  | fuel + 1 =>
    match x.openOf rank with
    | none => x
    | some o =>
      if o.post < hi ∧ o.post < x.ropeFloor + 8192 ∧ x.failed.isNone then
        let y := x.postOne o.post
        let y : Launch := { y with
          opens := y.opens.map (fun p => if p.rank == rank then { p with post := o.post + 1 } else p) }
        y.postUpTo rank hi fuel
      else x

/-- The post position of the strip of a rank, when one is open. -/
def Launch.postPos (x : Launch) (rank : Nat) : Nat := ((x.openOf rank).map (fun o => o.post)).getD 0

/-- The roped launch and open strip of the executing hart. -/
def State.ropeStrip (s : State) : Option (Launch × OpenStrip) :=
  match s.launch s.me.launch with
  | none => none
  | some x => if x.record.kind = 2 then (x.openOf s.me.rank).map (fun o => (x, o)) else none

/-! ### Committing (R329, R243, R347) -/

/-- The staged writes and combines of a strip applied in its program order, with the exceptions of the combines. -/
def applyStaged (m : Memory) : List Staged → Memory × Exc
  | [] => (m, .none)
  | .bytes ws :: rest => applyStaged (memPuts m ws) rest
  | .vamo op kind width pa d :: rest =>
    let n := width / 8
    let old := leNat ((List.range n).map (fun i => memGet m (pa + i)))
    let (new, e) := vamoCombine op kind width old (d.toNat % 2 ^ width)
    let (m', e') := applyStaged (memPuts m (writesAt pa (leBytes n new))) rest
    (m', e.or e')

/-- Whether a strip's writes mend a bad line: they cover it before anything staged reads it. -/
def stagedMends (line : Nat) (seen : List ByteWrite) : List Staged → Bool
  | [] => coversLine seen line
  | .bytes ws :: rest => stagedMends line (seen ++ ws.filter (fun w => w.pa / 128 == line)) rest
  | .vamo _ _ _ pa _ :: rest => (pa / 128 != line || coversLine seen line) && stagedMends line seen rest

/-- The bad line that stops a belay: a staged one, or one that the staged lines merge into (R347). -/
def State.belayError (s : State) (o : OpenStrip) : Option BadLine :=
  o.bad.head?.orElse (fun _ =>
    s.badLines.find? (fun b => o.lines.contains b.line && !stagedMends b.line [] o.staged))

/-- The launch after the strip of a rank is committed: its deposits are final and COUNT grows by one. -/
def Launch.commit (x : Launch) (o : OpenStrip) : Launch :=
  let (f, l) := markAbove x.stripFloor o.strip x.committedAbove
  { x with
    count := x.count + 1, stripFloor := f, committedAbove := l
    opens := x.opens.filter (fun p => p.rank != o.rank)
    deposits := x.deposits ++ o.deposits.map (fun p => (o.strip, p.1, p.2)) }

/-- The launch after the strip of a rank is abandoned and waits to be dealt again. -/
def Launch.redealStrip (x : Launch) (o : OpenStrip) : Launch :=
  { x with opens := x.opens.filter (fun p => p.rank != o.rank), redeal := insertAsc o.strip x.redeal }

/-- SCOMMIT of the executing hart's open strip: the release at .s, then the belay or the remaining posts, then the
commit; `w` is where the hart waits for the rope window, and `k` what follows. -/
def State.commitStrip (s : State) (x : Launch) (o : OpenStrip) (w : Waiting) (k : State → Out) : Out :=
  if !s.quiet s.cur then s.waitQuiet
  else if x.record.kind = 1 then
    let lines := o.lines
    match s.lockWait s.cur lines with
    | some e => e.out s
    | none =>
      match s.belayError o with
      | some b =>
        (s.modLaunch x.ident (fun y => y.redealStrip o)).trap (lineCause b) (lineTval s.part b)
      | none =>
        let (m, e) := applyStaged s.mem o.staged
        let t := { s with
          mem := m, badLines := s.badLines.filter (fun b => !lines.contains b.line) }
        let t := t.modLaunch x.ident (fun y => y.commit o)
        k (t.modMe (fun h => { h with fflags := fflagsVector h.fflags e, status := .running }))
  else
    let y := x.postUpTo o.rank o.stop (o.stop - o.post)
    let t := s.modLaunch x.ident (fun _ => y)
    if y.postPos o.rank < o.stop ∨ x.failed.isSome then t.waitIn w
    else k ((t.modLaunch x.ident (fun z => z.commit o)).modMe (fun h => { h with status := .running }))

/-- The launch and open strip of the executing hart. -/
def State.myStrip (s : State) : Option (Launch × OpenStrip) :=
  match s.launch s.me.launch with
  | none => none
  | some x => (x.openOf s.me.rank).map (fun o => (x, o))

/-- SCOMMIT. -/
def execScommit (s : State) : Out :=
  match s.myStrip with
  | none => s.trap Cause.stripState 0
  | some (x, o) => s.commitStrip x o .scommit (fun t => t.done)

/-- SDEP. -/
def execSdep (a b : Reg) (s : State) : Out :=
  match s.myStrip with
  | none => s.trap Cause.stripState 0
  | some (x, o) =>
    let slot := s.me.xr b
    if x.record.rn.toNat ≤ slot.toNat then s.trap Cause.stripState slot
    else
      let v := s.me.xr a
      (s.modLaunch x.ident (fun y => { y with opens := y.opens.map (fun p =>
        if p.rank == o.rank then { p with deposits := p.deposits.filter (fun e => e.1 != slot.toNat) ++ [(slot.toNat, v)] }
        else p) })).done

/-! ### FARM and FARMW (R327, R331) -/

/-- What makes a record BAD for FARM alone: its DONE, or an ASID that user mode may not name (R327, check 5). -/
def State.farmBad (s : State) (r : LaunchRec) : Bool := !r.doneOk || (!s.me.supervisor && r.asid != s.me.asid)

/-- A FARM that has read its record waits: executed again, it does not read it anew (R350). -/
def State.farmWait (s : State) (w : Vector Word 8) : Out :=
  .next (s.modMe (fun h => { h.hold with remote := .answered (w.toList.flatMap (fun x => leBytes 8 x.toNat)) }))

/-- The record is known: its checks, then the release at .s and the queue (R327). -/
def State.farmEnqueue (s : State) (d : Reg) (a b : Reg) (w : Vector Word 8) : Out :=
  let r := recordOf w
  let q : Fin 16 := Fin.ofNat 16 (s.me.xr b).toNat
  if 2 ^ 24 < r.strips.toNat then s.trap Cause.farmRange (r.strips.setWidth 64)
  else
    s.recordCheck w (s.farmBad r) false (s.farmWait w) (fun c =>
      match c with
      | some c => s.finish (fun h => { h with status := .running }.setX d (c.setWidth 64))
      | none =>
        if !s.quiet s.cur then (s.drainOne (coreOf s.cur)).farmWait w
        else if s.queueFull q then s.waitIn (.farm d a b)
        else s.acceptRecord q r (s.farmWait w) (fun t => t.finish (fun h => { h with status := .running }.setX d 0)))

/-- FARM: its checks and the read of its record (R327), once; a read of another module's memory is answered first. -/
def execFarm (d a b : Reg) (s : State) : Out :=
  let word := packR 0x36 d a b 0
  let ea := s.me.xr a
  match s.me.remote with
  | .answered r => s.endRemote.farmEnqueue d a b (descOf (leBytes 64 (leNat (r.take 64))))
  | _ =>
    if s.belayed s.cur then s.trap Cause.belayForbidden (wordVal word)
    else if ea.toNat % 64 ≠ 0 then s.trap Cause.misalignedData ea
    else s.load 64 ea word (fun t v => t.farmEnqueue d a b (descOf (leBytes 64 v)))

/-- FARMW. -/
def execFarmw (d a : Reg) (s : State) : Out :=
  s.load 8 (s.me.xr a) (packR 0x36 d a 0 4) (fun t v =>
    if v = 0 then t.waitIn (.farmw d a)
    else t.finish (fun h => { h with status := .running }.setX d (BitVec.ofNat 64 v)))

/-! ### The returns of blocked FARM operations -/

/-- STRIP_BLOCK_END: a blocked STRIP deals, or returns all ones; otherwise it waits on. -/
def execStripBlockEnd (h : HartId) (s : State) : Out :=
  match (s.hart h).status, s.launch (s.hart h).launch with
  | .blocked (.strip d), some x =>
    if x.allDone || x.failed.isSome || ((s.dealable x).isSome && s.mayServe h) then s.asHart h (fun t => execStrip d t) else s.stall
  | _, _ => s.stall

/-- The SCOMMIT that a RETIRE performs goes on; the RETIRE then executes again with no strip open (R331). -/
def State.resumeRetire (s : State) : Out :=
  match s.myStrip with
  | none => s.stall
  | some (x, o) => s.commitStrip x o .retire (fun t => .next t)

/-- The rope window lets the strip of a rank post further. -/
def Launch.windowOpen (x : Launch) (rank : Nat) : Bool :=
  x.failed.isNone && decide (x.postPos rank < x.ropeFloor + 8192)

/-- SCOMMIT_WINDOW_RESUME: a blocked SCOMMIT of a roped strip, or the one of a RETIRE, posts on once the window allows. -/
def execScommitWindowResume (h : HartId) (s : State) : Out :=
  match (s.hart h).status, s.launch (s.hart h).launch with
  | .blocked .scommit, some x => if x.windowOpen (s.hart h).rank then s.asHart h execScommit else s.stall
  | .blocked .retire, some x => if x.windowOpen (s.hart h).rank then s.asHart h State.resumeRetire else s.stall
  | _, _ => s.stall

/-- FARM_QUEUE_ROOM: a FARM blocked on a full queue enqueues once room appears. -/
def execFarmQueueRoom (h : HartId) (s : State) : Out :=
  match (s.hart h).status with
  | .blocked (.farm d a b) =>
    if s.queueFull (Fin.ofNat 16 ((s.hart h).xr b).toNat) then s.stall else s.asHart h (fun t => execFarm d a b t)
  | _ => s.stall

/-- FARMW_RETURN: a blocked FARMW returns once its doubleword, which its page tables still reach, is not 0. -/
def execFarmwReturn (h : HartId) (s : State) : Out :=
  match (s.hart h).status with
  | .blocked (.farmw d a) =>
    match s.locateAll (s.ctx h) .read .opened ((s.hart h).xr a) 8 with
    | .error _ => s.stall
    | .ok ps =>
      if (remoteOf ps).isNone && ps.all (fun p => s.fetchByte h p.pa == 0) then s.stall
      else s.asHart h (fun t => execFarmw d a t)
  | _ => s.stall

end Sys2Proof.Machine
end

