-- ==== Sys2Proof/Machine/Sync.lean ====
section
/-! DEFINITION. Rope posts and waits (R333 to R335) and barrier objects (R336 to R339). -/

namespace Sys2Proof.Machine

/-! ### The rope -/

/-- POST. -/
def execPost (a : Reg) (s : State) : Out :=
  let i := s.me.xr a
  if s.belayed s.cur then s.trap Cause.belayForbidden (wordVal (packR 0x21 0 a 0 0))
  else
    match s.ropeStrip with
    | none => s.trap Cause.stripState 0
    | some (x, o) =>
      if o.stop ≤ i.toNat then s.trap Cause.stripState i
      else if !s.quiet s.cur then s.waitQuiet
      else
        let y := x.postUpTo o.rank (i.toNat + 1) (i.toNat + 1 - o.post)
        let t := s.modLaunch x.ident (fun _ => y)
        if y.postPos o.rank ≤ i.toNat then t.waitIn (.post a) else t.finish (fun h => { h with status := .running })

/-- WAIT, the rope form. -/
def execWaitRope (a : Reg) (s : State) : Out :=
  let i := s.me.xr a
  match s.ropeStrip with
  | none => s.trap Cause.stripState 0
  | some (x, o) =>
    if o.post ≤ i.toNat then s.trap Cause.ropeForward i
    else if x.posted i.toNat then s.finish (fun h => { h with status := .running })
    else s.waitIn (.waitRope a)

/-- The iterations that the active elements of a VWAIT name, in ascending element order. -/
def Hart.ropeNames (h : Hart) (a : Reg) (m : KReg) : List Nat :=
  (h.body.filter (fun i => h.active m i)).map (fun i => h.pat a i h.vt.wa)

/-- The instruction in progress reads mask m as `p`, as it sampled it when it first issued (R133). -/
def Hart.withMask (h : Hart) (m : KReg) (p : Plane) : Hart := { h with kept := some (h.k.set m.toNat p m.isLt) }

/-- VWAIT (R335); an uncorrectable row it reads is LANE_SRAM_UNCORRECTABLE (R131). -/
def execVwait (a : Reg) (m : KReg) (s : State) : Out :=
  let h := s.me
  let t := h.vt
  if h.vl = 0 then s.emptyVl
  else
    match h.vcheck t.isInt [(a, t.regs)] none (h.vstart = 0) with
    | some (c, v) => s.trap c v
    | none =>
      match s.ropeStrip with
      | none => s.trap Cause.stripState 0
      | some (x, o) =>
        match laneHit h.marks (h.bodyReads m [(a, t.wa)]) with
        | some e => s.trap Cause.laneSram (laneVal e.2)
        | none =>
          match (h.ropeNames a m).find? (fun i => o.post ≤ i) with
          | some i => s.trap Cause.ropeForward (BitVec.ofNat 64 i)
          | none =>
            if (h.ropeNames a m).all (fun i => x.posted i) then
              s.finish (fun h => { h with status := .running, vstart := 0 })
            else s.waitIn (.vwait a m (h.sampled m))

/-- POST_WINDOW_RESUME: a blocked POST posts on once the window allows. -/
def execPostWindowResume (h : HartId) (s : State) : Out :=
  match (s.hart h).status, s.launch (s.hart h).launch with
  | .blocked (.post a), some x =>
    if x.windowOpen (s.hart h).rank then s.asHart h (fun t => execPost a t) else s.stall
  | _, _ => s.stall

/-- ROPE_WAIT_RETURN. -/
def execRopeWaitReturn (h : HartId) (s : State) : Out :=
  match (s.hart h).status, s.launch (s.hart h).launch with
  | .blocked (.waitRope a), some x =>
    if x.posted ((s.hart h).xr a).toNat then s.asHart h (fun t => execWaitRope a t) else s.stall
  | _, _ => s.stall

/-- VWAIT_RETURN. -/
def execVwaitReturn (h : HartId) (s : State) : Out :=
  match (s.hart h).status, s.launch (s.hart h).launch with
  | .blocked (.vwait a m p), some x =>
    if (((s.hart h).withMask m p).ropeNames a m).all (fun i => x.posted i) then
      s.asHart h (fun t => execVwait a m (t.modMe (fun y => y.withMask m p)))
    else s.stall
  | _, _ => s.stall

/-! ### Barriers -/

/-- The handle of object n (R336). -/
def barrierHandle (n : Nat) (gen : BitVec 16) : Word := BitVec.ofNat 64 (gen.toNat * 65536 + 64 + n)

/-- The object a handle names, live and of launch l. -/
def State.barrierOf (s : State) (l : Nat) (v : Word) : Option (Fin 64) :=
  (List.finRange 64).find? (fun n =>
    let b := s.camp.barriers.get n
    b.owner == some l && v == barrierHandle n.val b.gen)

/-- The state with an object changed. -/
def State.modBarrier (s : State) (n : Fin 64) (f : Barrier → Barrier) : State :=
  { s with camp := { s.camp with barriers := s.camp.barriers.set n.val (f (s.camp.barriers.get n)) n.isLt } }

/-- An object is freed: its generation advances. -/
def Barrier.free (b : Barrier) : Barrier := { owner := none, gen := b.gen + 1, need := 0, arrived := 0, phase := 0 }

/-- BARA. -/
def execBara (d a b : Reg) (s : State) : Out :=
  let n := s.me.xr a
  if n = 0 then
    match s.barrierOf s.me.launch (s.me.xr b) with
    | none => s.trap Cause.barrierBad (s.me.xr b)
    | some i => (s.modBarrier i Barrier.free).finish (fun h => h.setX d 0)
  else if 65535 < n.toNat then s.trap Cause.barrierBad n
  else
    match (List.finRange 64).find? (fun i => (s.camp.barriers.get i).owner.isNone) with
    | none => s.finish (fun h => h.setX d 0)
    | some i =>
      let x : Barrier := { (s.camp.barriers.get i) with
        owner := some s.me.launch, need := n.setWidth 16, arrived := 0, phase := 0 }
      (s.modBarrier i (fun _ => x)).finish (fun h => h.setX d (barrierHandle i.val x.gen))

/-- An arrival: the one that completes the count advances the phase and restarts the count (R338). -/
def Barrier.arrive (b : Barrier) : Barrier :=
  if b.arrived + 1 = b.need then { b with arrived := 0, phase := b.phase + 1 } else { b with arrived := b.arrived + 1 }

/-- BARW. -/
def execBarw (d a : Reg) (s : State) : Out :=
  if s.belayed s.cur then s.trap Cause.belayForbidden (wordVal (packR 0x21 d a 0 4))
  else
    match s.barrierOf s.me.launch (s.me.xr a) with
    | none => s.trap Cause.barrierBad (s.me.xr a)
    | some i =>
      if !s.quiet s.cur then s.waitQuiet
      else
        let p := (s.camp.barriers.get i).phase
        (s.modBarrier i Barrier.arrive).finish (fun h => h.setX d (p.setWidth 64))

/-- δ of a token when it lies in [1, 2^15] (R339). -/
def barrierPassed (phase token : BitVec 16) : Option Nat :=
  let n := (phase - token).toNat
  if 1 ≤ n ∧ n ≤ 32768 then some n else none

/-- WAIT, the barrier form. -/
def execWaitBarrier (d a b : Reg) (s : State) : Out :=
  match s.barrierOf s.me.launch (s.me.xr b) with
  | none => s.trap Cause.barrierBad (s.me.xr b)
  | some i =>
    match barrierPassed (s.camp.barriers.get i).phase ((s.me.xr a).setWidth 16) with
    | some n => s.finish (fun h => { h with status := .running }.setX d (BitVec.ofNat 64 n))
    | none => s.waitIn (.waitBarrier d a b)

/-- BARRIER_WAIT_RETURN. -/
def execBarrierWaitReturn (h : HartId) (s : State) : Out :=
  let x := s.hart h
  match x.status with
  | .blocked (.waitBarrier d a b) =>
    match s.barrierOf x.launch (x.xr b) with
    | none => s.stall
    | some i =>
      if (barrierPassed (s.camp.barriers.get i).phase ((x.xr a).setWidth 16)).isSome then
        s.asHart h (fun t => execWaitBarrier d a b t)
      else s.stall
  | _ => s.stall

end Sys2Proof.Machine
end

