-- ==== Sys2Proof/Machine/Fence.lean ====
section
/-! DEFINITION. Chiplet fencing (R361 to R366, R405): the fence sequence, its effect on launches, the cairn record, the
log rings (R399) and the events that trigger a fence. -/

namespace Sys2Proof.Machine

/-! ### Logs (R399) -/

/-- An entry written to a log ring. -/
def LogRing.push (r : LogRing) (e : Word) : LogRing :=
  let i : Fin 16 := r.next.toFin
  { entries := r.entries.set i.val e i.isLt, ovf := r.ovf || (r.entries.get i).getLsbD 0, next := r.next + 1 }

/-- The chiplet and the reason that a fence log entry names (Table 17.4). -/
def entryChip (e : Word) : Byte := e.extractLsb' 8 8

/-- The entry at index i moves down, at most n places, below the entries of higher chiplets (R399). -/
def LogRing.sink (r : LogRing) : Nat → BitVec 4 → LogRing
  | 0, _ => r
  | n + 1, i =>
    let a : Fin 16 := (i - 1).toFin
    let b : Fin 16 := i.toFin
    if (entryChip (r.entries.get b)).toNat < (entryChip (r.entries.get a)).toNat then
      LogRing.sink { r with entries := (r.entries.set a.val (r.entries.get b) a.isLt).set b.val (r.entries.get a) b.isLt }
        n (i - 1)
    else r

/-- A fence enters the log; entries of one base clock stand in ascending chiplet number (R399). -/
def Management.logFence (m : Management) (now : Nat) (e : Word) : Management :=
  let run := if m.flogAt = now then m.flogRun else 0
  { m with flog := (m.flog.push e).sink run m.flog.next, flogAt := now, flogRun := run + 1 }

/-- The entry at index i moves down n places. -/
def LogRing.sinkBy (r : LogRing) : Nat → BitVec 4 → LogRing
  | 0, _ => r
  | n + 1, i =>
    let a : Fin 16 := (i - 1).toFin
    let b : Fin 16 := i.toFin
    LogRing.sinkBy { r with entries := (r.entries.set a.val (r.entries.get b) a.isLt).set b.val (r.entries.get a) b.isLt }
      n (i - 1)

/-- An error of a chiplet enters the error log; entries of one base clock stand in ascending chiplet number, those of no
chiplet, which `chip` gives 8, after them (R399, log 64). -/
def Management.logError (m : Management) (now chip : Nat) (e : Word) : Management :=
  let run := if m.elogAt = now then m.elogChips else []
  let above := (run.filter (fun c => decide (chip < c))).length
  { m with elog := (m.elog.push e).sinkBy (min above 15) m.elog.next, elogAt := now,
           elogChips := run.take (run.length - above) ++ chip :: run.drop (run.length - above) }

/-- An error enters the error log and vector 17 is signalled (Table 17.5): the chiplet, SRC and the line. -/
def State.logError (s : State) (chip src line : Nat) : State :=
  { s with mgmt := s.mgmt.logError s.baseClock chip (BitVec.ofNat 64 (src * 2 ^ 60 + line % 2 ^ 45 * 128 + 1)) }.signal 17

/-- The fence log entry (Table 17.4). -/
def fenceEntry (time : Nat) (gen reason : Byte) (c : ChipletId) : Word :=
  BitVec.ofNat 64 (time / 1024 % 2 ^ 32 * 2 ^ 32 + gen.toNat * 2 ^ 24 + reason.toNat * 2 ^ 16 + c.val * 256 + 1)

/-! ### Launches with a hart on the chiplet (R364, R365) -/

/-- The cairn record of a roped farm (Table 13.12). -/
def Launch.cairnOf (x : Launch) (reason gen : Byte) (c : ChipletId) : Vector Word 8 :=
  #v[BitVec.ofNat 64 (0x63 * 2 ^ 56 + 2 ^ 48 + reason.toNat * 2 ^ 40 + c.val * 2 ^ 32 + gen.toNat * 2 ^ 24 +
       x.stripFloor % 2 ^ 24),
     BitVec.ofNat 64 x.ropeFloor, BitVec.ofNat 64 (x.count % 2 ^ 32 * 2 ^ 32 + x.opens.length % 2 ^ 32),
     BitVec.ofNat 64 (x.nextDeal % 2 ^ 24), 0, 0, 0, 0]

/-- A rank of a belayed farm is lost: its open strip is dealt again, and a new hart starts for it (R323). -/
def Launch.loseRank (x : Launch) (rank : Nat) : Launch :=
  let y := match x.openOf rank with
    | some o => x.redealStrip o
    | none => x
  if y.failed.isSome then y else { y with lostRanks := y.lostRanks ++ [rank] }

/-- A launch loses the hart of a rank to a fence (Table 13.11). -/
def State.loseHart (s : State) (l rank : Nat) (reason gen : Byte) (c : ChipletId) : State :=
  match s.launch l with
  | none => s
  | some x =>
    match x.record.kind.toNat with
    | 1 => s.modLaunch l (fun y => y.loseRank rank)
    | 2 =>
      (s.modLaunch l (fun y => if y.cairn.isSome then y else { y with cairn := some (y.cairnOf reason gen c) })).failLaunch
        l 0x06
    | _ => s.failLaunch l 0x07

/-! ### The fence sequence (Table 13.10) -/

/-- The harts of a chiplet. -/
def hartsOf (c : ChipletId) : List HartId := allHarts.filter (fun h => chipletOf (coreOf h) == c)
/-- The cores of a chiplet. -/
def coresOf (c : ChipletId) : List CoreId := allCores.filter (fun k => chipletOf k == c)
/-- The chiplet exists on the part (R25). -/
def State.present (s : State) (c : ChipletId) : Bool := decide (c.val < Config.chiplets s.part)

/-- A core with all its chiplet state lost; its sensor and clock step are read by management (Table 17.3). -/
def Core.lost (c : Core) : Core := { Core.initial with clockStep := c.clockStep, stepAt := c.stepAt, temp := c.temp }

/-- A core's scratchpad and scalar data memory are zero (R191). -/
def State.clearLocal (s : State) (c : CoreId) : State :=
  let lo := slotBase c.val
  { s.modCore c (fun k => { k with marks := [] }) with
    mem := s.mem.filter (fun e => decide (e.1 < lo) || decide (lo + 0x440000 ≤ e.1)) }

/-- A position as a new hart finds it: at reset, but that a pending HOST_SIGNAL is the position's (Table 16.2, log 51). -/
def Hart.vacant (x : Hart) : Hart := { Hart.initial with hostSig := x.hostSig }

/-- Steps 1 to 3: the log entry, the new generation, and all chiplet state lost, its local memories with it (R16). -/
def State.stopChiplet (s : State) (c : ChipletId) (reason : Byte) : State :=
  let gen := (s.chiplet c).gen + 1
  let s := { s with mgmt := s.mgmt.logFence s.baseClock (fenceEntry s.baseClock gen reason c) }
  let s := s.modChiplet c (fun _ => { st := .fenced, gen := gen, reason := reason, reports := [], limit := false, fencedAt := s.baseClock })
  let s := (coresOf c).foldl (fun s k => (s.clearLocal k).modCore k Core.lost) s
  (hartsOf c).foldl (fun s h => s.modHart h Hart.vacant) s

/-- Step 4: the line locks and reservations of the chiplet's VAMOs are released, those in flight wholly performed or not
at all, as are the parts of stores that another module has received, and the waits of its harts end (R252, R254). -/
def State.dropRequests (s : State) (c : ChipletId) : State :=
  (hartsOf c).foldl (fun s h => ((s.endPart h true).dropFlight h true).leaveHomes h)
    { s with camp := { s.camp with asks := s.camp.asks.filter (fun h => chipletOf (coreOf h) != c) } }

/-- An entry of the newest base clock that names chiplet c and a higher reason takes this one (R405). -/
def Management.lowerReason (m : Management) (c : ChipletId) (reason : Byte) : Management :=
  { m with flog := { m.flog with entries := m.flog.entries.mapIdx (fun i e =>
      if (m.flog.next.toNat + 15 - i) % 16 < m.flogRun ∧ (entryChip e).toNat = c.val ∧ reason.toNat < (e.extractLsb' 16 8).toNat
      then (e &&& ~~~(0xFF0000 : Word)) ||| reason.setWidth 64 <<< 16 else e) } }

/-- A cairn record of the sequence of chiplet c takes a lower reason. -/
def Launch.lowerReason (x : Launch) (c : ChipletId) (gen reason : Byte) : Launch :=
  { x with cairn := x.cairn.map (fun r =>
      if r[0].extractLsb' 32 8 = BitVec.ofNat 8 c.val ∧ r[0].extractLsb' 24 8 = gen ∧
          reason.toNat < (r[0].extractLsb' 40 8).toNat then
        r.set 0 ((r[0] &&& ~~~(0xFF0000000000 : Word)) ||| reason.setWidth 64 <<< 40)
      else r) }

/-- A trigger for a chiplet that another one fenced in the same base clock: the sequence has the lowest reason (R405). -/
def State.sameSequence (s : State) (c : ChipletId) (reason : Byte) : State :=
  let k := s.chiplet c
  if k.st = .fenced ∧ k.fencedAt = s.baseClock ∧ s.mgmt.flogAt = s.baseClock then
    { s.modChiplet c (fun k => { k with reason := if reason.toNat < k.reason.toNat then reason else k.reason }) with
      mgmt := s.mgmt.lowerReason c reason
      camp := { s.camp with launches := s.camp.launches.map (fun x => x.lowerReason c k.gen reason) } }
  else s

/-- The fence of a chiplet with a reason: steps 1 to 6 of Table 13.10. It acts only on a chiplet in service (R405). -/
def State.fence (s : State) (c : ChipletId) (reason : Byte) : State :=
  if !s.inService c then s.sameSequence c reason
  else
    let lost := (hartsOf c).filterMap (fun h =>
      let x := s.hart h
      if x.live then some (x.launch, x.rank) else none)
    let gen := (s.chiplet c).gen + 1
    let t := (s.dropRequests c).stopChiplet c reason
    (lost.foldl (fun t p => t.loseHart p.1 p.2 reason gen c) t).signal 0

/-- HOST_FENCE: a write of FENCE fences a chiplet present on the part when the key is right (Table 16.2). -/
def execHostFence (v : Word) (s : State) : Out :=
  let n := v.toNat % 256
  if h : n < 8 then
    if s.mgmt.base && v.toNat / 256 % 256 == 0xA5 && s.present ⟨n, h⟩ then .next (s.fence ⟨n, h⟩ 0x64) else s.stall
  else s.stall

/-- LANE_SRAM_REPORT_LIMIT: 64 reports of a chiplet within 2^30 core clocks fence it (R348). -/
def execLaneSramReportLimit (c : ChipletId) (s : State) : Out :=
  if (s.chiplet c).limit then .next (s.fence c 0x62) else s.stall

/-- CHIPLET_STATE_UNCORRECTABLE. -/
def execChipletStateUncorrectable (c : ChipletId) (s : State) : Out := .next (s.fence c 0x62)
/-- UCIE_LINK_FAILURE. -/
def execUcieLinkFailure (c : ChipletId) (s : State) : Out := .next (s.fence c 0x64)
/-- MANAGEMENT_FENCE_REQUEST. -/
def execManagementFenceRequest (c : ChipletId) (s : State) : Out := .next (s.fence c 0x64)
/-- SUPPLY_LIMIT. -/
def execSupplyLimit (c : ChipletId) (s : State) : Out := .next (s.fence c 0x64)

/-- A core reads a temperature, and above 110 °C its chiplet is fenced (R397). -/
def State.readTemp (s : State) (c : CoreId) (temp : Byte) : State :=
  let t := s.modCore c (fun k => { k with temp := temp })
  if 110 < temp.toNat then t.fence (chipletOf c) 0x64 else t

/-- THERMAL_TCRIT: a core of the part reads a temperature (R25, R397). -/
def execThermalTcrit (c : CoreId) (temp : Byte) (s : State) : Out :=
  if s.present (chipletOf c) then .next (s.readTemp c temp) else s.stall

end Sys2Proof.Machine
end

