-- ==== Sys2Proof/Machine/Context.lean ====
section
/-! DEFINITION. The save area (R353 to R355), the save and the restore of a context (R349, R356, R357, R297) and CTXS
and CTXL (R358 to R360). -/

namespace Sys2Proof.Machine

/-! ### Writing an image (Tables 13.6 to 13.8) -/

/-- Bytes of a save area. -/
def saveBytes : Nat := 0x420000

/-- Doubleword 0 of the header (Table 13.7). -/
def headerWord (curs ncopy : Nat) (shad tile : Bool) (rank : Nat) : Word :=
  BitVec.ofNat 64 (0x4301 * 2 ^ 48 + curs * 2 ^ 40 + ncopy * 2 ^ 36 + (if shad then 2 ^ 35 else 0) +
    (if tile then 2 ^ 34 else 0) + rank % 128)

/-- The copies of hart h on its core, record 0 first. -/
def State.copiesOf (s : State) (h : HartId) : List Copy :=
  (s.core (coreOf h)).copies.filter (fun c => c.owner == h && !c.retired)

/-- The slots of hart h, by number, with their cursors. -/
def State.cursorsOf (s : State) (h : HartId) : List (Nat × Cursor) :=
  (s.core (coreOf h)).slots.toList.zipIdx.filterMap (fun p => match p.1 with
    | some x => if x.owner == h then some (p.2, x.cur) else none
    | none => none)

/-- The mask of a context's cursor slots. -/
def cursMask (l : List (Nat × Cursor)) : Nat := (l.map (fun p => 2 ^ p.1)).sum

/-- Whether hart h owns the tile unit. -/
def State.hasTile (s : State) (h : HartId) : Bool := (s.core (coreOf h)).tileOwner == some h

/-- Doubleword 0 for hart h. -/
def State.headOf (s : State) (h : HartId) : Word :=
  headerWord (cursMask (s.cursorsOf h)) (s.copiesOf h).length (s.hart h).shadow.valid (s.hasTile h) (s.hart h).rank

/-- The stored alarm (R69). -/
def storedAlarm (alarm cycle : Word) : Word :=
  if alarm = 0 then 0 else BitVec.ofNat 64 (max (alarm.toNat - cycle.toNat) 1)

/-- Header doublewords 1 to 511: the resume address and status as given (Table 13.8). -/
def State.headerRest (s : State) (h : HartId) (pc : Word) (sr : BitVec 16) : List Word :=
  let x := s.hart h
  [pc, sr.setWidth 64] ++ ([0x208, 0, 1, 2, 3, 4, 5, 6, 7, 8, 9, 0xA, 0x10, 0x11, 0x12, 0x13].map (fun n => s.csr h n)) ++
    [storedAlarm x.alarm (s.core (coreOf h)).cycle] ++ ([0x204, 0x205, 0x206, 0x207].map (fun n => s.csr h n)) ++
    List.replicate 8 0 ++ x.x.toList.set 0 0 ++ x.f.toList ++ (x.v.toList.map VReg.word) ++ (x.q.toList.map QReg.word) ++
    List.replicate 352 0

/-- A copy record (Table 11.3). -/
def Copy.record (c : Copy) : List Byte :=
  (c.d.toList ++ [BitVec.ofNat 64 (c.next % 2 ^ 16 * 2 ^ 32 + (if c.loc then 128 else 0) + (if c.desc then 64 else 0) +
    c.k.toNat * 8 + 4 + c.form.toNat), 0]).flatMap (fun w => leBytes 8 w.toNat)

/-- The bytes of a row that a save writes (R355). -/
def rowLength (d : VDesc) : Nat := min 4096 (128 * ((d.vlen.toNat + 1023) / 1024))

/-- The parts of a vector register's area (R355). -/
def VReg.parts (v : VReg) (base : Nat) : List (Nat × List Byte) :=
  if v.desc.dirty then
    (List.finRange 16).filterMap (fun p =>
      if v.planes.get p = 0 then none
      else some (base + 0x1000 * p.val, leBytes (rowLength v.desc) (v.planes.get p).toNat))
  else []

/-- The cell image of an accumulator. -/
def tileBytes (z : Tile) : List Byte := (List.range 131072).flatMap (fun k => leBytes 8 (tileGet z k).toNat)

/-- What a save writes for hart h but doubleword 0: offsets and bytes (Table 13.6, R354, R355). -/
def State.imageParts (s : State) (h : HartId) (pc : Word) (sr : BitVec 16) : List (Nat × List Byte) :=
  let x := s.hart h
  let c := s.core (coreOf h)
  [(8, (s.headerRest h pc sr).flatMap (fun w => leBytes 8 w.toNat))] ++
    (if x.shadow.valid then [(0x1000, x.shadow.image)] else []) ++
    ((s.copiesOf h).take 2).zipIdx.map (fun p => (0x1200 + 0x40 * p.2, p.1.record)) ++
    (s.cursorsOf h).map (fun p => (0x1400 + 0x80 * p.1, p.2.image)) ++
    x.k.toList.zipIdx.map (fun p => (0x4000 + 0x1000 * p.2, leBytes 4096 p.1.toNat)) ++
    x.q.toList.zipIdx.map (fun p => (0xC000 + 0x400 * p.2, p.1.scales.toList)) ++
    x.v.toList.zipIdx.flatMap (fun p => p.1.parts (0x20000 + 0x10000 * p.2)) ++
    (if s.hasTile h then [(0x220000, tileBytes (c.z.get 0)), (0x320000, tileBytes (c.z.get 1))] else [])

/-- A save of v reads the word of plane p at a position (R355). -/
def VReg.saves (v : VReg) (p : Fin 16) (pos : Nat) : Bool :=
  v.desc.dirty && v.planes.get p != 0 && decide (pos < 8 * rowLength v.desc)

/-- Uncorrectable lane state that a save of hart h reads: what it holds that is written. -/
def State.saveError (s : State) (h : HartId) : Option LaneMark :=
  let x := s.hart h
  x.marks.find? (fun m => match m.unit.toNat with
    | 0 => (x.vr (BitVec.ofNat 5 m.reg)).saves m.plane m.pos
    | 3 => s.hasTile h
    | 4 => x.shadow.valid
    | _ => true)

/-! ### Loading an image (R355, R356, R360) -/

/-- A reader of an image: the byte at an offset. -/
abbrev ImageReader := Nat → Byte

/-- n bytes of an image from an offset. -/
def imageBytes (rd : ImageReader) (off n : Nat) : List Byte := (List.range n).map (fun i => rd (off + i))
/-- The doubleword at an offset. -/
def imageWord (rd : ImageReader) (off : Nat) : Word := BitVec.ofNat 64 (leNat (imageBytes rd off 8))

/-- The fields of an image's doubleword 0. -/
structure ImageHead where
  curs : Nat
  ncopy : Nat
  shad : Bool
  tile : Bool
  deriving DecidableEq, Repr

/-- Doubleword 0 of a good image: MAGIC, VER, no reserved bit and at most two copies. -/
def imageHead (w : Word) : Option ImageHead :=
  let n := w.toNat
  if n / 2 ^ 48 ≠ 0x4301 ∨ n / 2 ^ 38 % 4 ≠ 0 ∨ n / 2 ^ 7 % 2 ^ 27 ≠ 0 ∨ n / 2 ^ 36 % 4 = 3 then none
  else some { curs := n / 2 ^ 40 % 256, ncopy := n / 2 ^ 36 % 4, shad := w.getLsbD 35, tile := w.getLsbD 34 }

/-- A copy record of an image. -/
structure CopyRecord where
  form : Nat
  d : Vector Word 6
  k : KReg
  next : Nat
  loc : Bool
  desc : Bool
  deriving DecidableEq, Repr

/-- The copy record at an offset, when it is good: VALID, no reserved bit, and a descriptor that passes R286 to R289; its
overlap is checked with its index list, by `State.recordOverlaps`. -/
def imageCopy (rd : ImageReader) (off : Nat) : Option CopyRecord :=
  let bs := imageBytes rd off 64
  let d : Vector Word 6 := Vector.ofFn (fun i : Fin 6 => dwordAt bs i.val)
  let w := (dwordAt bs 6).toNat
  let form := w % 4
  if w / 4 % 2 = 0 ∨ w / 2 ^ 48 ≠ 0 ∨ w / 2 ^ 8 % 2 ^ 24 ≠ 0 ∨ dwordAt bs 7 ≠ 0 ∨ (copyFault form d).isSome then none
  else some { form := form, d := d, k := BitVec.ofNat 3 (w / 8), next := w / 2 ^ 32 % 2 ^ 16, loc := w.testBit 7,
              desc := w.testBit 6 }

/-- The copy records and cursors of an image, when all that are present are good. -/
structure ImageUnits where
  copies : List CopyRecord
  cursors : List (Nat × Cursor)
  deriving DecidableEq, Repr

/-- Every value of a list of options, when each is there. -/
def allSome {α : Type} : List (Option α) → Option (List α)
  | [] => some []
  | none :: _ => none
  | some x :: rest => (allSome rest).map (fun l => x :: l)

/-- The cursor slots an image names. -/
def ImageHead.slots (h : ImageHead) : List Nat := (List.range 8).filter (fun n => h.curs.testBit n)

/-- The copies and cursors of an image; on a part without a Weave unit no cursor image passes the checks of WVLOAD (R12,
R356, log 81). -/
def imageUnits (p : Part) (rd : ImageReader) (h : ImageHead) : Option ImageUnits :=
  if !Config.hasWeave p && h.curs != 0 then none
  else match allSome ((List.range h.ncopy).map (fun i => imageCopy rd (0x1200 + 0x40 * i))),
      allSome (h.slots.map (fun n => (Cursor.ofImage (imageBytes rd (0x1400 + 0x80 * n) 128)).map (fun c => (n, c)))) with
  | some c, some l => some { copies := c, cursors := l }
  | _, _ => none

/-- The descriptor fields of a vdesc doubleword (Table 4.1). -/
def vdescOf (w : Word) : VDesc :=
  { borg := w.extractLsb' 35 13, gsz := w.extractLsb' 33 2, dirty := w.getLsbD 32, kind := w.extractLsb' 28 4,
    width := w.extractLsb' 24 4, gpos := w.extractLsb' 22 2, prog := w.extractLsb' 16 6, vlen := w.extractLsb' 0 16 }

/-- A vector register of an image: the elements below VLEN of the rows its descriptor names, everything else zero (R105,
R355). -/
def imageV (rd : ImageReader) (n : Nat) : VReg :=
  let w := imageWord rd (0x300 + 8 * n)
  let d := vdescOf w
  { planes := Vector.ofFn (fun p : Fin 16 =>
      if d.dirty && w.getLsbD (48 + p.val) then
        BitVec.ofNat 32768
          (leNat (imageBytes rd (0x20000 + 0x10000 * n + 0x1000 * p.val) (rowLength d)) % 2 ^ d.vlen.toNat)
      else 0),
    desc := d }

/-- A scale register of an image. -/
def imageQ (rd : ImageReader) (n : Nat) : QReg :=
  let w := imageWord rd (0x400 + 8 * n)
  { scales := Vector.ofFn (fun j : Fin 1024 => rd (0xC000 + 0x400 * n + j.val)), org := w.extractLsb' 35 13,
    fmt := w.extractLsb' 28 4, nblk := w.extractLsb' 0 11 }

/-- The bits of tshape that exist (Table 9.2). -/
def tshapeMask : Word := 0x0000FFFF01FF03FF

/-- The registers of an image loaded into a hart, but for pc, status and the trap registers (R355, R69): a register or
element that the image does not hold is zero, and a value past its limit stands as it is (log 80). -/
def Hart.loadImage (x : Hart) (rd : ImageReader) (h : ImageHead) (cycle : Word) : Hart :=
  let w (off : Nat) : Word := imageWord rd off
  let alarm := w 0x098
  let x := { x with
    x := (Vector.ofFn (fun i : Fin 32 => if i.val = 0 then 0 else w (0x100 + 8 * i.val)))
    f := Vector.ofFn (fun i : Fin 32 => w (0x200 + 8 * i.val))
    v := Vector.ofFn (fun i : Fin 32 => imageV rd i.val)
    k := Vector.ofFn (fun i : Fin 8 => BitVec.ofNat 32768 (leNat (imageBytes rd (0x4000 + 0x1000 * i.val) 4096)))
    q := Vector.ofFn (fun i : Fin 32 => imageQ rd i.val)
    shadow := if h.shad then Shadow.ofImage (imageBytes rd 0x1000 272) else Shadow.zero
    vl := (w 0x020).setWidth 16, vstart := (w 0x028).setWidth 15, vtype := vtypeOf ((w 0x030).setWidth 20)
    mfmt := (w 0x038).setWidth 2, avl := w 0x040, sidx := w 0x048, tshape := w 0x050 &&& tshapeMask
    zcfg := (w 0x058).setWidth 32 &&& zcfgMask, satCount := (w 0x060).setWidth 32, satEvp := (w 0x060).getLsbD 63
    satthr := (w 0x068).setWidth 32, fflags := (w 0x070).setWidth 13 &&& 0x1F1F
    ld := 0, alarm := if alarm = 0 then 0 else cycle + alarm
    tvec := w 0x0A0 &&& 0x0000FFFFFFFFFFFC, asid := (w 0x0A8).setWidth 16, ptbase := w 0x0B0 &&& 0x000FFFFFFFFF8000
    hscratch := w 0x0B8, pfxst := pfxstOf (w 0x018), pfxLive := false, marks := [], remote := .idle, pins := [],
    kept := none, held := false, fenceAt := 0 }
  let x := { x with lbeg := #v[w 0x078, w 0x088] }
  (x.putLcnt 0 (w 0x080)).putLcnt 1 (w 0x090)

/-- The bits of a cell image that its mode gives a meaning: the others are 0 (R263). -/
def cellMask (fp32 : Bool) : BitVec 64 := if fp32 then 0xFFFFFFFF else 0x03FFFFFFFFFFFFFF

/-- The cells of an accumulator of an image, in the mode that the image's zcfg gives it. -/
def imageTile (rd : ImageReader) (z : Nat) : Tile :=
  let mask := cellMask ((imageWord rd 0x058).getLsbD (16 * z + 15))
  (List.range 131072).filterMap (fun k =>
    let c := imageWord rd (0x220000 + 0x100000 * z + 8 * k) &&& mask
    if c = 0 then none else some (k, c))

/-- The parts of an image that a load reads. -/
def imageReads (rd : ImageReader) (h : ImageHead) : List (Nat × Nat) :=
  [(0, 4096)] ++ (if h.shad then [(0x1000, 272)] else []) ++ (List.range h.ncopy).map (fun i => (0x1200 + 0x40 * i, 64)) ++
    h.slots.map (fun n => (0x1400 + 0x80 * n, 128)) ++ [(0x4000, 0x10000)] ++
    (List.range 32).flatMap (fun n =>
      let w := imageWord rd (0x300 + 8 * n)
      let d := vdescOf w
      ((List.range 16).filter (fun p => d.dirty && w.getLsbD (48 + p))).map (fun p =>
        (0x20000 + 0x10000 * n + 0x1000 * p, rowLength d))) ++
    (if h.tile then [(0x220000, 0x200000)] else [])

/-! ### Copies of a restored context (R297) -/

/-- The word of the copy instruction that a record stands for, as the tval of what forbids it: its field a is not in the
record, and a free value stands for it (log 84). -/
def CopyRecord.word (r : CopyRecord) (tick : Nat) : BitVec 32 :=
  packR 0x34 (kField r.k) (BitVec.ofNat 5 (Config.freeNat tick 0 % 27)) 0 (BitVec.ofNat 11 r.form)

/-- The index list of a record, read as loads of the executing hart: its places and entries; a byte of another module is a
free value (R297, log 14). -/
def State.recordIndex (s : State) (r : CopyRecord) : Except Stop (List Place × List Nat) :=
  let c := copyDesc r.form r.d
  match s.indexPlaces (r.word s.tick) c with
  | .error e => .error e
  | .ok ps =>
    .ok (ps, c.entries (ps.map (fun p =>
      if isRemote p.pa then Config.hostByte s.tick p.pa else s.fetchByte s.cur p.pa)))

/-- A record that fails the overlap check of R290, when its index list can be read (R356). -/
def State.recordOverlaps (s : State) (r : CopyRecord) : Bool :=
  match s.recordIndex r with
  | .ok (_, index) => (copyDesc r.form r.d).overlap index
  | .error _ => false

/-- The new probe of a copy record of the executing hart: the copy, or the fault (R297). -/
def State.reprobe (s : State) (r : CopyRecord) : Except Stop (Option Copy × List Place) :=
  let c := copyDesc r.form r.d
  match s.recordIndex r with
  | .error e => .error e
  | .ok (ips, index) =>
    match s.probeChunks (r.word s.tick) c r.desc index with
    | .error e => .error e
    | .ok ps =>
      let next := if r.loc then 0 else r.next
      if c.chunks ≤ next then .ok (none, ips ++ ps.all)
      else .ok (some { owner := s.cur, launch := s.me.launch, retired := false, form := BitVec.ofNat 2 r.form, d := r.d, k := r.k,
                       next := next, desc := r.desc, loc := ps.all.any (fun p => isLocal p.va.toNat), engine := false, since := s.baseClock,
                       index := index, pages := s.copyPages ps }, ips ++ ps.all)

/-- A copy that restarts: its pages are used, it waits for a transposer, and a local one starts from chunk 0 with every
bit of its mask clear (R297). -/
def State.restartCopy (s : State) (r : CopyRecord) (c : Option Copy) (ps : List Place) : State :=
  let s := s.usePages (coreOf s.cur) ps
  let s := if r.loc then s.modMe (fun h => h.putK r.k 0) else s
  match c with
  | some x => s.modMyCore (fun k => { k with copies := k.copies ++ [x] })
  | none => s

/-- The copy records restarted in order: the faults of those whose probe fails, in record order; a probe that must wait
stops it. -/
def State.restartCopies (s : State) : List CopyRecord → Except Stop (State × List (BitVec 7 × Word))
  | [] => .ok (s, [])
  | r :: rest =>
    match s.reprobe r with
    | .ok (c, ps) => (s.restartCopy r c ps).restartCopies rest
    | .error (.trap c v) =>
      match s.restartCopies rest with
      | .ok (t, l) => .ok (t, (c, v) :: l)
      | .error e => .error e
    | .error e => .error e

/-- The hart's tile, slots and copies become those of an image. -/
def State.takeUnits (s : State) (h : HartId) (rd : ImageReader) (x : ImageHead) (u : ImageUnits) : State :=
  s.modCore (coreOf h) (fun c =>
    let own := c.tileOwner == some h
    { c with
      tileOwner := if x.tile then some h else if own then none else c.tileOwner
      z := if x.tile then #v[imageTile rd 0, imageTile rd 1] else if own then Vector.replicate 2 [] else c.z
      slots := Vector.ofFn (fun n : Fin 8 =>
        match u.cursors.find? (fun p => p.1 == n.val) with
        | some p => some { owner := h, cur := p.2 }
        | none => match c.slots.get n with
          | some y => if y.owner == h then none else some y
          | none => none)
      copies := c.copies.filter (fun k => k.owner != h || k.retired) })

/-! ### Pre-emption (R349 to R354) -/

/-- The save area of a rank, when it is one the hart may be saved in (R353). -/
def State.saveArea (s : State) (h : HartId) : Option Nat :=
  match s.launch (s.hart h).launch with
  | none => none
  | some x =>
    let b := x.record.save.toNat
    let e := b + ((s.hart h).rank + 1) * saveBytes
    if b ≠ 0 ∧ b % 0x10000 = 0 ∧ e ≤ Config.memBytes s.part then some (b + (s.hart h).rank * saveBytes) else none

/-- A context at a boundary at which a PREEMPT may be taken (R349, R350, Table 13.4). -/
def Hart.preemptible (x : Hart) : Bool :=
  match x.status with
  | .running => x.remote == .idle && !x.held
  | .parked | .blocked _ => true
  | _ => false

/-- A PREEMPT of hart h is due: requested, INH = 0, no report before it, at a boundary, and its area can be used. -/
def State.preemptDue (s : State) (h : HartId) : Bool :=
  let x := s.hart h
  x.preemptReq && !x.inh && x.reports.isEmpty && !x.stopReq && x.preemptible && (s.saveArea h).isSome

/-- The writes of a part of an image whose offsets lie at the physical addresses that `addr` gives. -/
def partWrites (addr : Nat → Nat) (p : Nat × List Byte) : List ByteWrite :=
  p.2.zipIdx.map (fun b => { pa := addr (p.1 + b.2), val := b.1, mask := 0xFF })

/-- The parts of an image written to memory. -/
def State.writeParts (s : State) (addr : Nat → Nat) (parts : List (Nat × List Byte)) : State :=
  parts.foldl (fun t p => t.home (partWrites addr p)) s

/-- A line with uncorrectable data that a part of an image would merge with (R346). -/
def State.partsBad (s : State) (addr : Nat → Nat) (parts : List (Nat × List Byte)) : Option BadLine :=
  s.badLines.find? (fun b => parts.any (fun p =>
    let ws := partWrites addr p
    ws.any (fun w => w.pa / 128 == b.line) && !coversLine ws b.line))

/-- A line of a range is locked, or others wait for it (R252). -/
def State.rangeHeld (s : State) (base n : Nat) : Bool :=
  s.locks.any (fun l => decide (base ≤ l.line * 128 + 127) && decide (l.line * 128 < base + n))

/-- PREEMPT: once the hart's writes are home, the save engine writes every part of the image but doubleword 0; lane
state that cannot be read fences the chiplet, and so does a line of the area that the image would merge with bad data: the
context is lost (R345, R346, R349, R354, log 83). -/
def execPreempt (h : HartId) (s : State) : Out :=
  match s.saveArea h with
  | none => s.stall
  | some base =>
    if !s.preemptDue h then s.stall
    else if !s.quiet h then .next (s.drainOne (coreOf h))
    else if s.rangeHeld base saveBytes then s.stall
    else
      let x := s.hart h
      let parts := s.imageParts h x.pc x.sr
      if (s.saveError h).isSome || (s.partsBad (fun o => base + o) parts).isSome then
        .next (s.fence (chipletOf (coreOf h)) 0x62)
      else
        .next ((s.writeParts (fun o => base + o) parts).modHart h (fun x =>
          { x with status := .saving, preemptReq := false, hostSig := false }))

/-- What base camp keeps of a saved context. -/
def State.savedOf (s : State) (h : HartId) : Saved :=
  let x := s.hart h
  { launch := x.launch, rank := x.rank, asid := x.asid, lw := x.lw, tile := s.hasTile h,
    curs := BitVec.ofNat 8 (cursMask (s.cursorsOf h)) }

/-- The copies of a hart whose context leaves are taken off its core. -/
def State.dropCopies (s : State) (h : HartId) : State :=
  s.modCore (coreOf h) (fun c => { c with copies := c.copies.filter (fun k => k.owner != h || k.retired) })

/-- The position of hart h becomes FREE. -/
def State.freeHart (s : State) (h : HartId) : State := s.setHart h Hart.initial

/-- CONTEXT_SAVE_COMPLETE: doubleword 0 is written, the units are released, the position is FREE, and the context joins
the resume list of its queue, unless its launch has failed (R349, R354, R317, R404). -/
def execContextSaveComplete (h : HartId) (s : State) : Out :=
  match (s.hart h).status, s.saveArea h, s.launch (s.hart h).launch with
  | .saving, some base, some x =>
    if s.lineHeld base then s.stall
    else if (s.badLineOf base).isSome then .next (s.fence (chipletOf (coreOf h)) 0x62)
    else
      let c := s.savedOf h
      let t := s.home (writesAt base (leBytes 8 (s.headOf h).toNat))
      let t := ((t.dropCopies h).release h).freeHart h
      .next (if x.failed.isSome then t
        else t.modQueue x.queue (fun q => { q with resume := q.resume ++ [c] }))
  | _, _, _ => s.stall

/-! ### Restoring (R356) -/

/-- The image cannot be loaded: the hart halts and its launch fails (R356). -/
def State.badContext (s : State) (h : HartId) : Out := .next (s.halt h)

/-- An uncorrectable line in what a load reads. -/
def State.imageBad (s : State) (pas : List (Nat × Nat)) : Option BadLine :=
  s.badLines.find? (fun b => pas.any (fun r => decide (r.1 ≤ b.line * 128 + 127) && decide (b.line * 128 < r.1 + r.2)))

/-- The restored hart's registers and resume address. -/
def State.loadContext (s : State) (h : HartId) (rd : ImageReader) (x : ImageHead) : State :=
  s.modHart h (fun y =>
    { y.loadImage rd x (s.core (coreOf h)).cycle with
      status := .running, pc := imageWord rd 8, sr := (imageWord rd 16).setWidth 16 &&& srMask })

/-- CONTEXT_RESTORE: the image of the context placed at position h is validated and loaded, its units are taken, its
copies restart, and the hart enters its supervisor with PREEMPT or the fault of the lowest copy record; a second fault
is reported afterwards (R356, R297). -/
def execContextRestore (h : HartId) (s : State) : Out :=
  match (s.hart h).status, s.saveArea h with
  | .restoring, some base =>
    if s.rangeHeld base saveBytes then s.stall
    else
      let rd : ImageReader := fun o => memGet s.mem (base + o)
      match imageHead (imageWord rd 0) with
      | none => s.badContext h
      | some x =>
        if (s.imageBad ((imageReads rd x).map (fun r => (base + r.1, r.2)))).isSome then s.badContext h
        else
          match imageUnits s.part rd x with
          | none => s.badContext h
          | some u =>
            let c := s.core (coreOf h)
            if (x.tile && c.tileOwner.isSome && !s.hasTile h) ||
                u.cursors.any (fun p => match c.slots.toList.getD p.1 none with
                  | some y => y.owner != h
                  | none => false) then s.stall
            else
              s.asHart h (fun s =>
                let t := (s.loadContext h rd x).takeUnits h rd x u
                if u.copies.any t.recordOverlaps then s.badContext h
                else
                  match t.restartCopies u.copies with
                  | .error (.hole pa) => .fault (.physicalHole pa)
                  | .error _ => s.stall
                  | .ok (t, []) => .next (t.trapHart h Cause.preempt 0 (t.hart h).pc)
                  | .ok (t, (c, v) :: more) =>
                    let t := t.modHart h (fun y => { y with
                      reports := y.reports ++ more.map (fun f => { cause := f.1, tval := f.2 }) })
                    .next (t.trapHart h c v (t.hart h).pc))
  | _, _ => s.stall

/-! ### CTXS and CTXL (R358 to R360) -/

/-- The probe of a save area at a virtual address, page by page, as supervisor accesses (R358): the physical base of
every page. -/
def State.probeArea (s : State) (a : Acc) (va : Word) : Nat → Except Stop (List Place)
  | 0 => .ok []
  | n + 1 =>
    if 2 ^ 48 ≤ va.toNat then .error (.trap Cause.addrNoncanon va)
    else if isLocal va.toNat then .error (.trap Cause.spadRange va)
    else
      match s.translate { s.ctx s.cur with super := true } a va.toNat with
      | .error e => .error e
      | .ok p =>
        if !s.isGlobal p.pa then .error (.trap a.cause va)
        else
          match s.probeArea a (va + 0x8000) n with
          | .error e => .error e
          | .ok ps => .ok (p :: ps)

/-- The physical address of an offset of an area whose pages are known. -/
def areaAddr (ps : List Place) (off : Nat) : Nat := ((ps[off / 2 ^ 15]?).map (fun p => p.pa)).getD 0 + off % 2 ^ 15

/-- Waiting at the homes of an area's lines that are locked (R252). -/
def State.areaWait (s : State) (ps : List Place) : Option Stop :=
  s.lockWait s.cur ((s.locks.map (fun l => l.line)).filter (fun n => ps.any (fun p => p.pa / 2 ^ 15 == n / 256)))

/-- status as CTXS stores it: MODE ← PMODE, IE ← PIE, INH ← 0 (R359). -/
def srSaved (sr : BitVec 16) : BitVec 16 := srLeave sr

/-- CTXS: the image is written but for doubleword 0, then doubleword 0, and the units are released; uncorrectable lane state,
or a line of the area that the image would merge with bad data, stops it before doubleword 0 (R346, R359). A pending
HOST_SIGNAL is cleared, as at any context save (Table 16.2, log 51). -/
def execCtxs (a : Reg) (s : State) : Out :=
  let va := s.me.xr a
  if s.inBelay s.cur then s.trap Cause.belayForbidden (wordVal (packR 0x1F 0 a 0 7))
  else if va.toNat % 0x10000 ≠ 0 then s.trap Cause.misalignedData va
  else
    match s.probeArea .write va 132 with
    | .error e => e.out s
    | .ok ps =>
      if !s.quiet s.cur then s.waitQuiet
      else
        match s.areaWait ps with
        | some e => e.out s
        | none =>
          let t := s.usePages (coreOf s.cur) ps
          let addr := areaAddr ps
          let parts := s.imageParts s.cur s.me.epc (srSaved s.me.sr)
          let head : List (Nat × List Byte) := [(0, leBytes 8 (s.headOf s.cur).toNat)]
          let bad := match s.saveError s.cur with
            | some m => some (Stop.trap Cause.laneSram (laneVal m))
            | none => (s.partsBad addr (parts ++ head)).map (fun b => .trap (lineCause b) (lineTval s.part b))
          match bad with
          | some e =>
            e.out (t.writeParts addr ((parts.zipIdx.filter (fun p => Config.freeBit s.tick p.2 &&
              (s.partsBad addr [p.1]).isNone)).map (fun p => p.1))).step1
          | none =>
            let t := (t.writeParts addr parts).writeParts addr head
            (((t.dropCopies t.cur).release t.cur).modMe (fun h => { h with hostSig := false })).done

/-- The slot of an image that another hart holds open: the lowest, with its owner. -/
def State.slotTaken (s : State) (u : ImageUnits) : Option Word :=
  u.cursors.findSome? (fun p => s.slotCheck (BitVec.ofNat 3 p.1) true)

/-- status after CTXL: PMODE and PIE from the image's MODE and IE, MODE and INH kept, the rest loaded (R360). -/
def srLoaded (old img : BitVec 16) : BitVec 16 :=
  (old &&& 0x0011) ||| (img &&& srMask &&& 0xFFE4) ||| (if img.getLsbD 2 then 0x0008 else 0) |||
    (if img.getLsbD 0 then 0x0002 else 0)

/-- The tile unit that an image needs and another hart owns. -/
def State.tileTaken (s : State) (x : ImageHead) : Option Word :=
  match (if x.tile then s.myCore.tileOwner else none) with
  | some g => if g ≠ s.cur then some (BitVec.ofNat 64 g.val) else none
  | none => none

/-- The checks of R360 on a good image, and the load. The copies of the image are probed as the loaded hart; the probe of
one that must wait makes the CTXL wait. -/
def State.ctxlLoad (s : State) (va : Word) (ps : List Place) (rd : ImageReader) (x : ImageHead) (u : ImageUnits) : Out :=
  let old := s.me
  let t := s.usePages (coreOf s.cur) ps
  let t := (t.loadContext t.cur rd x).dropCopies t.cur
  if u.copies.any t.recordOverlaps then s.trap Cause.contextBad va
  else
    match s.tileTaken x, s.slotTaken u with
    | some g, _ => s.trap Cause.tileBusyOwned g
    | none, some v => s.trap Cause.weaveCursor v
    | none, none =>
      match (t.takeUnits t.cur rd x u).restartCopies u.copies with
      | .error (.hole pa) => .fault (.physicalHole pa)
      | .error _ => s.hold
      | .ok (_, (c, v) :: _) => s.trap c v
      | .ok (t, []) =>
        let t := t.modMe (fun h => { h with pc := old.pc, epc := h.pc, sr := srLoaded old.sr h.sr })
        .next (t.modMe Hart.advance)

/-- CTXL: the image is read once its pages are marked; a trap leaves them unmarked (R198). -/
def execCtxl (a : Reg) (s : State) : Out :=
  let va := s.me.xr a
  if va.toNat % 0x10000 ≠ 0 then s.trap Cause.misalignedData va
  else
    match s.probeArea .read va 132 with
    | .error e => e.out s
    | .ok ps =>
      if !s.quiet s.cur then s.waitQuiet
      else
        match s.areaWait ps with
        | some e => e.out s
        | none =>
          let m := (s.usePages (coreOf s.cur) ps).mem
          let rd : ImageReader := fun o => memGet m (areaAddr ps o)
          match imageHead (imageWord rd 0) with
          | none => s.trap Cause.contextBad va
          | some x =>
            match s.imageBad ((imageReads rd x).flatMap (fun r =>
                (List.range ((r.1 + r.2 - 1) / 128 - r.1 / 128 + 1)).map (fun i => (areaAddr ps ((r.1 / 128 + i) * 128), 128)))) with
            | some b => s.trap (lineCause b) (lineTval s.part b)
            | none =>
              match imageUnits s.part rd x with
              | none => s.trap Cause.contextBad va
              | some u => s.ctxlLoad va ps rd x u

end Sys2Proof.Machine
end

