-- ==== Sys2Proof/Machine/System.lean ====
section
/-! DEFINITION. The system instructions (R92 to R98, R234, R235), the PFX prefix (R38 to R45), interrupts (R100), decode
and fetch traps (R31, R32), and the events of store queues, page walks and line locks (R199, R229, R252). -/

namespace Sys2Proof.Machine

/-! ### SYS -/

/-- TRAP completes and raises SYSCALL; epc is the pc that would have executed next (R92). -/
def execTrap (n : BitVec 7) (s : State) : Out :=
  let t := s.modMe Hart.advance
  .next (t.trapHart t.cur Cause.syscall (n.setWidth 64) t.me.pc)

/-- BRK (R93). -/
def execBrk (s : State) : Out := s.trap Cause.breakpoint 0

/-- TRET (R94). -/
def execTret (s : State) : Out :=
  if s.me.epc.toNat % 4 ≠ 0 then s.trap Cause.misalignedPc s.me.epc else .next (s.modMe Hart.leaveTrap)

/-- PARK: a nop unless an interrupt other than PREEMPT could wake the hart (R95). -/
def execPark (s : State) : Out :=
  let h := s.me
  if !h.ie || h.inh || h.sr &&& 0x0700 == 0 then s.done
  else .next (s.setMe { h.advance with status := .parked })

/-- The hart's part in its launch ends: its units are released, its copies run on under no hart, and its position is
FREE (R96). -/
def State.leaveLaunch (s : State) : State :=
  let l := s.me.launch
  ((s.release s.cur).modLaunch l (fun x => { x with retired := x.retired + 1 })).setHart s.cur Hart.initial

/-- RETIRE: once every write of the hart is home, and its open strip is committed (R96, R240, R331). -/
def execRetire (s : State) : Out :=
  if !s.quiet s.cur then s.waitQuiet
  else
    match s.myStrip with
    | some (x, o) => s.commitStrip x o .retire (fun t => .next t.leaveLaunch)
    | none => .next s.leaveLaunch

/-- FENCE: every earlier read has taken its value, every earlier remote write is acknowledged, and a write of the hart is
seen by its own core at once; at .p or .s, .rw waits until earlier writes are home, and .w makes the hart's later writes
wait for them and no read (R232, R234). -/
def execFence (set : FenceSet) (sc : Scope) (s : State) : Out :=
  match sc with
  | .h | .c => s.done
  | .p | .s =>
    match set with
    | .r => s.done
    | .rw => if s.quiet s.cur then s.done else s.waitQuiet
    | .w => s.finish (fun h => { h with fenceAt := s.group })

/-- FENCEI: the instruction cache of the core is empty (R235). -/
def execFencei (s : State) : Out := (s.modMyCore (fun c => { c with icache := [] })).done

/-! ### PFX (R38 to R45) -/

/-- Whether the word at pc is the last of the body of the top loop entry (R42). -/
def Hart.atLoopEnd (h : Hart) : Bool :=
  match h.ld.toNat with
  | 0 => false
  | 1 => h.endsBody h.pc 0
  | _ => h.endsBody h.pc 1

/-- PFX: the condition is recorded and applies to the next word; at the last word of a loop body there is none. -/
def execPfx (p : Reg) (neg cp : BitVec 1) (d2 : Reg) (s : State) : Out :=
  let h := s.me
  if h.atLoopEnd then
    (s.setMe { h with pfxLive := false, pfxst := { h.pfxst with pend := false } }).trap Cause.illegalPair 0
  else
    let c := (h.xr p != 0) != (neg == 1)
    .next (s.setMe { h with
      pc := h.pc + 4, pfxLive := true, pfxst := { pend := true, c := c, p := p, neg := neg, cp := cp, d2 := d2 } })

/-! ### Interrupts (R100, R344) -/

/-- A context at a boundary at which an interrupt may be taken: a WAITM is not interrupted (R295, Table 13.4). -/
def Hart.interruptible (x : Hart) : Bool :=
  match x.status with
  | .running => x.remote == .idle && !x.held
  | .parked => true
  | .blocked (.waitm _ _ _) => false
  | .blocked _ => true
  | _ => false

/-- An interrupt of R100 other than PREEMPT can be taken by hart h: nothing that comes before it is due (R344). -/
def State.takeable (s : State) (h : HartId) (enable : Nat) : Bool :=
  let x := s.hart h
  x.interruptible && !x.inh && x.ie && x.sr.getLsbD enable && !x.stopReq && !s.reportDue h && !s.preemptDue h

/-- A HOST_SIGNAL is due. -/
def State.signalDue (s : State) (h : HartId) : Bool := (s.hart h).hostSig && s.takeable h 9
/-- A SATURATION_EVENT is due. -/
def State.saturationDue (s : State) (h : HartId) : Bool := (s.hart h).satEvp && s.takeable h 10 && !s.signalDue h
/-- A LOCAL_ALARM is pending (R69). -/
def State.alarmPending (s : State) (h : HartId) : Bool :=
  (s.hart h).alarm != 0 && decide ((s.hart h).alarm.toNat ≤ (s.core (coreOf h)).cycle.toNat)
/-- A LOCAL_ALARM is due. -/
def State.alarmDue (s : State) (h : HartId) : Bool :=
  s.alarmPending h && s.takeable h 8 && !s.signalDue h && !s.saturationDue h

/-- HOST_SIGNAL: taking it clears its pending bit (Table 16.2). -/
def execHostSignal (h : HartId) (s : State) : Out :=
  if s.signalDue h then
    let t := s.modHart h (fun x => { x with hostSig := false })
    .next (t.trapHart h Cause.hostSignal 0 (t.hart h).pc)
  else s.stall

/-- SATURATION_EVENT: tval holds COUNT, and EVP stays (R168). -/
def execSaturationEvent (h : HartId) (s : State) : Out :=
  if s.saturationDue h then
    .next (s.trapHart h Cause.saturationEvent ((s.hart h).satCount.setWidth 64) (s.hart h).pc)
  else s.stall

/-- LOCAL_ALARM. -/
def execLocalAlarm (h : HartId) (s : State) : Out :=
  if s.alarmDue h then .next (s.trapHart h Cause.localAlarm 0 (s.hart h).pc) else s.stall

/-! ### Traps before an instruction exists (R31, R32) -/

/-- The cause of a decode check (Table 2.2). -/
def decodeCause : DecodeError → BitVec 7
  | .illegalOp => Cause.illegalOp
  | .noUnit => Cause.noUnit
  | .illegalField => Cause.illegalField

/-- ILLEGAL_OP: a word that the decoder rejects raises its trap, with the word in tval (Table 2.2). -/
def execIllegalOp (w : BitVec 32) (s : State) : Out :=
  match decodeFault s.part w with
  | some e => s.trap (decodeCause e) (wordVal w)
  | none => s.stall

/-- FETCH_FAULT: a fetch at the pc that fails raises its cause. -/
def execFetchFault (s : State) : Out :=
  match s.fetch s.cur with
  | .stop e => e.out s
  | .word _ _ => s.stall

/-! ### Store queues, page walks and line locks -/

/-- STORE_QUEUE_WRITE_HOME: a write that may leave its queue, and whose lines are free, reaches its home (R229, R252). -/
def execStoreQueueWriteHome (c : CoreId) (i : Nat) (s : State) : Out :=
  if s.canLeave (s.core c).queue i then .next (s.drain c i) else s.stall

/-- PAGE_WALK: a walk for hart h fills its core's translation cache; A and D are set by the access that uses the leaf
(R198, R199). -/
def execPageWalk (h : HartId) (va : Word) (s : State) : Out :=
  let x := s.hart h
  if !x.live || decide (2 ^ 48 ≤ va.toNat) || isLocal va.toNat then s.stall
  else
    match s.walk (s.walkStop h va.toNat) (x.ptbase.toNat / 2 ^ 15) va.toNat with
    | .stop (.hole pa) => .fault (.physicalHole pa)
    | .stop _ | .invalid => s.stall
    | .leaf pte pteAddr big =>
      .next (s.fillCache (coreOf h)
        { asid := x.asid, vpn := BitVec.ofNat 33 (va.toNat / 2 ^ 15), big := big, pte := pte, pteAddr := pteAddr })

/-- A VAMO of this module holds a lock: it frees its lines itself. -/
def LineLock.ours (l : LineLock) : Bool :=
  match l.holder with
  | some (.hart _) => true
  | _ => false

/-- LOCKED_LINE_GRANT: a lock of another module is released, and the accesses that wait for its line go on in the order they
came. -/
def execLockedLineGrant (line : Nat) (s : State) : Out :=
  if s.locks.any (fun l => l.line == line && l.ours) then s.stall
  else
    let freed := s.locks.map (fun l => if l.line == line then { l with holder := none } else l)
    .next { s with locks := freed.filter (fun l => l.holder.isSome || !l.waiting.isEmpty) }

/-- The first reservation of a list that waits in a slice, granted. -/
def grantFirst (slice : Nat) : List Reservation → List Reservation
  | [] => []
  | r :: rest =>
    if r.slice = slice ∧ !r.granted then { r with granted := true } :: rest else r :: grantFirst slice rest

/-- LOCK_RESERVATION_GRANT: the first reservation that waits in a slice is granted when its lines fit. -/
def execLockReservationGrant (slice : Nat) (s : State) : Out :=
  match s.reservations.find? (fun r => r.slice == slice && !r.granted) with
  | none => s.stall
  | some r =>
    if s.heldIn slice + s.grantedIn slice + r.lines ≤ sliceRoom then
      .next { s with reservations := grantFirst slice s.reservations }
    else s.stall

end Sys2Proof.Machine
end

