-- ==== Sys2Proof/Machine/Camp.lean ====
section
/-! DEFINITION. Base camp: enqueueing by the host (R313, R379), the rotation and placement (R318 to R321, R323, R324),
the start of team harts (R191, R320), the end of launches (R316, R325, R403, R404), and the host's PREEMPT and HSIG
registers (Table 16.2). -/

namespace Sys2Proof.Machine

/-! ### HOST_ENQUEUE -/

/-- DROPS counts one more, and stops at its greatest value (Table 16.2). -/
def State.countDrop (s : State) : State :=
  { s with camp := { s.camp with drops := if s.camp.drops = BitVec.allOnes 32 then s.camp.drops else s.camp.drops + 1 } }

/-- HOST_ENQUEUE: a write of 64 bytes at offset 0 of an enqueue window is a record; any other write in its 64 bytes counts
as a drop, as does a record whose DONE cannot be written (R313, R379); a write past them lies elsewhere in the control BAR
and is ignored (Table 16.1). -/
def execHostEnqueue (q : Fin 16) (off : Nat) (bytes : List Byte) (s : State) : Out :=
  if !s.mgmt.base then s.stall
  else if 64 ≤ off then s.stall
  else if off ≠ 0 ∨ bytes.length ≠ 64 then .next s.countDrop
  else
    let w := descOf bytes
    let r := recordOf w
    if !r.doneOk then .next s.countDrop
    else
      s.recordCheck w false true s.stall (fun c =>
        match c with
        | some st => s.complete q r [] 0 st s.stall (fun t => .next t)
        | none =>
          if s.queueFull q then s.complete q r [] 0 0x04 s.stall (fun t => .next t)
          else s.acceptRecord q r s.stall (fun t => .next t))

/-! ### Placement (R319) -/

/-- Base camp may place a hart of an address space on a core, the harts of `gone` having left it: its chiplet is in
service, and no hart there with LW = 1 has another asid (R55, R319). -/
def State.coreOpen (s : State) (asid : BitVec 16) (gone : List HartId) (c : CoreId) : Bool :=
  s.inService (chipletOf c) && (List.finRange 4).all (fun n =>
    let x := s.hart (hartOf c n)
    gone.contains (hartOf c n) || !x.live || !x.lw || x.asid == asid)

/-- The positions freed for waiting heads (R321), but those of the queue `q`. -/
def State.kept (s : State) (q : Option (Fin 16)) : List HartId :=
  (s.camp.owed.filter (fun o => some o.1 != q)).flatMap (fun o => o.2)

/-- The positions where a hart may be placed for a head of queue `q`, or for none, the harts of `gone` having left theirs,
in ascending hartid. -/
def State.openPositions (s : State) (cores : BitVec 32) (asid : BitVec 16) (q : Option (Fin 16)) (gone : List HartId) :
    List HartId :=
  ((s.permitted cores).filter (s.coreOpen asid gone)).flatMap (fun c =>
    ((List.finRange 4).map (hartOf c)).filter (fun h =>
      ((s.hart h).status == .free || gone.contains h) && !(s.kept q).contains h))

/-- The farms running, of the kinds that `p` selects. -/
def State.farms (s : State) (p : BitVec 2 → Bool) : Nat := (s.camp.launches.filter (fun x => p x.record.kind)).length

/-- Fewer than 16 farms, and fewer than 4 roped farms, are running. -/
def State.farmRoom (s : State) (kind : BitVec 2) : Bool :=
  kind == 0 || (decide (s.farms (fun k => k != 0) < 16) && (kind != 2 || decide (s.farms (fun k => k == 2) < 4)))

/-- The positions the team of a head of queue q takes. -/
def State.positionsFor (s : State) (q : Fin 16) (r : LaunchRec) (gone : List HartId) : Option (List HartId) :=
  let ps := (s.openPositions r.cores r.asid (some q) gone).take r.team.toNat
  if s.farmRoom r.kind && ps.length == r.team.toNat then some ps else none

/-- The tile unit and the cursor slots that a saved context records are free on a core (R258, R302, R395). -/
def State.unitsFree (s : State) (c : Saved) (gone : List HartId) (core : CoreId) : Bool :=
  let k := s.core core
  (!c.tile || ((s.chiplet (chipletOf core)).st == .full && (match k.tileOwner with
    | none => true
    | some h => gone.contains h))) &&
  (List.finRange 8).all (fun n => !c.curs.getLsbD n.val || (match k.slots.get n with
    | none => true
    | some x => gone.contains x.owner))

/-- The position a saved context takes: the lowest it may take. -/
def State.positionOf (s : State) (c : Saved) (gone : List HartId) : Option HartId :=
  match s.launch c.launch with
  | none => none
  | some x => (s.openPositions x.record.cores c.asid none gone).find? (fun h => s.unitsFree c gone (coreOf h))

/-! ### Starting harts (R191, R314, R320) -/

/-- LOCAL_MEMORY_CLEAR: before a hart of another address space than the last with LW = 1 is placed on a core. -/
def State.prepareCore (s : State) (c : CoreId) (asid : BitVec 16) : State :=
  match (s.core c).lwAsid with
  | some a => if a = asid then s else s.clearLocal c
  | none => s

/-- TEAM_HART_START: a team hart of a rank starts at a position with the entry of its address space (R64, R320). -/
def State.startHart (s : State) (x : Launch) (e : Vector Word 4) (h : HartId) (rank : Nat) : State :=
  let r := x.record
  let z : Hart := (s.hart h).vacant
  let z : Hart := { z with
    status := .running, launch := x.ident, rank := rank, pc := r.entry, asid := r.asid,
    ptbase := e[0] &&& 0x000FFFFFFFFF8000, tvec := e[1] &&& 0x0000FFFFFFFFFFFC,
    sr := if 2 ≤ r.prio.toNat then 0x8004 else 0x0004, headAt := (s.core (coreOf h)).cycle.toNat }
  (s.prepareCore (coreOf h) r.asid).setHart h
    ((((z.putX 2 (e[2] + BitVec.ofNat 64 (rank + 1) * e[3])).putX 3 r.args).putX 10 (BitVec.ofNat 64 rank)).putX 11
      (r.team.setWidth 64))

/-- The head of a queue leaves it; the next record is the head from now on. -/
def LaunchQueue.popHead (q : LaunchQueue) (now : Nat) : LaunchQueue :=
  { q with records := match q.records.drop 1 with
      | [] => []
      | y :: rest => { y with headAt := now } :: rest }

/-- A new launch. -/
def newLaunch (ident : Nat) (q : Fin 16) (r : LaunchRec) : Launch :=
  { ident := ident, queue := q, record := r, retired := 0, failed := none, failedAt := 0, nextDeal := 0, redeal := [],
    stripFloor := 0, committedAbove := [], count := 0, opens := [], deposits := [], ropeFloor := 0, postedAbove := [],
    lostRanks := [], cairn := none }

/-- The head of queue q starts on the positions given, or fails with ASID when its entry is not valid (R314, R319); nothing
starts while the line of the entry is locked. -/
def State.startRecord (s : State) (q : Fin 16) (r : LaunchRec) (ps : List HartId) : Out :=
  if s.entryHeld r.asid then s.stall
  else
  match s.asEntry r.asid with
  | .error pa => .fault (.physicalHole pa)
  | .ok e =>
    let x := newLaunch s.camp.nextIdent q r
    let s := s.modQueue q (fun k => k.popHead s.baseClock)
    let s := { s with camp := { s.camp with
      launches := s.camp.launches ++ [x], nextIdent := s.camp.nextIdent + 1, rrHead := (q.val + 1) % 16
      owed := s.camp.owed.filter (fun o => o.1 != q) } }
    if e[0].getLsbD 0 then .next (ps.zipIdx.foldl (fun t p => t.startHart x e p.1 p.2) s)
    else .next (s.failLaunch x.ident 0x08)

/-- LOST_RANK_START: a new hart starts for a lost rank of a belayed farm (R314, R323), once the line of its entry is free. -/
def State.startLost (s : State) (x : Launch) (rank : Nat) (h : HartId) : Out :=
  if s.entryHeld x.record.asid then s.stall
  else
  match s.asEntry x.record.asid with
  | .error pa => .fault (.physicalHole pa)
  | .ok e =>
    if e[0].getLsbD 0 then
      .next ((s.modLaunch x.ident (fun y => { y with lostRanks := y.lostRanks.filter (fun n => n != rank) })).startHart
        x e h rank)
    else .next (s.failLaunch x.ident 0x08)

/-- A saved context of queue q is placed at a position, where the restore engine loads it (R356). -/
def State.placeSaved (s : State) (q : Fin 16) (c : Saved) (h : HartId) : State :=
  let z : Hart := { (s.hart h).vacant with
    status := .restoring, launch := c.launch, rank := c.rank, asid := c.asid, sr := if c.lw then 0x4004 else 0x0004 }
  ((s.prepareCore (coreOf h) c.asid).setHart h z).modQueue q (fun k =>
    { k with resume := k.resume.filter (fun d => !(d.launch == c.launch && d.rank == c.rank)) })

/-! ### The rotation (R318) -/

/-- The sixteen queues in round-robin order from one. -/
def queuesFrom (n : Nat) : List (Fin 16) := (List.range 16).map (fun i => Fin.ofNat 16 (n + i))

/-- The priority of a slot of the rotation (Table 12.6). -/
def slotPrio (slot : Nat) : Nat :=
  if slot % 2 = 0 then 3 else if slot % 4 = 1 then 2 else if slot % 8 = 3 then 1 else 0

/-- The order in which a slot of priority p is offered. -/
def prioOrder (p : Nat) : List Nat :=
  (List.range (p + 1)).reverse ++ ((List.range 4).filter (fun n => decide (p < n))).reverse

/-- The first resume-list candidate at priority p that can be placed. -/
def State.resumeCandidate (s : State) (p : Nat) : Option Out :=
  (queuesFrom s.camp.rrResume).findSome? (fun q =>
    match (s.queue q).resume with
    | [] => none
    | c :: _ =>
      match s.launch c.launch, s.positionOf c [] with
      | some x, some h =>
        if x.record.prio.toNat = p then
          let t := s.placeSaved q c h
          some (.next { t with camp := { t.camp with rrResume := (q.val + 1) % 16 } })
        else none
      | _, _ => none)

/-- The first lost rank at priority p for which a position can be found. -/
def State.lostCandidate (s : State) (p : Nat) : Option Out :=
  s.camp.launches.findSome? (fun x =>
    match x.lostRanks, s.openPositions x.record.cores x.record.asid none [] with
    | rank :: _, h :: _ => if x.record.prio.toNat = p ∧ x.failed = none then some (s.startLost x rank h) else none
    | _, _ => none)

/-- The first head at priority p that can be placed. -/
def State.headCandidate (s : State) (p : Nat) : Option Out :=
  (queuesFrom s.camp.rrHead).findSome? (fun q =>
    match (s.queue q).records with
    | [] => none
    | r :: _ =>
      if r.record.prio.toNat = p then (s.positionsFor q r.record []).map (fun ps => s.startRecord q r.record ps) else none)

/-- The candidate served at priority p: resume lists first, then lost ranks, then heads. -/
def State.candidate (s : State) (p : Nat) : Option Out :=
  ((s.resumeCandidate p).orElse (fun _ => s.lostCandidate p)).orElse (fun _ => s.headCandidate p)

/-- Halted positions whose writes are home are reclaimed (Table 3.1). -/
def State.reclaim (s : State) : State :=
  allHarts.foldl (fun t h =>
    let x := t.hart h
    if x.status == .halted && !(t.core (coreOf h)).queue.any (fun w => w.hart == h) then t.setHart h x.vacant else t) s

/-! ### Open strips that wait on a resume list (R324) -/

/-- A saved context holds an open belayed strip. -/
def State.holdsBelay (s : State) (c : Saved) : Bool :=
  match s.launch c.launch with
  | none => false
  | some x => x.record.kind == 1 && (x.openOf c.rank).isSome

/-- Hart h is BLOCKED at a STRIP that would open one strip too many and waits for nothing else, and can be pre-empted: with
INH = 1 it could not (R349, log 50). -/
def State.blockedAtLimit (s : State) (h : HartId) : Bool :=
  s.asksStrip h && !(s.hart h).inh && (s.saveArea h).isSome &&
    match s.launch (s.hart h).launch with
    | some x => s.atLimit x && x.ready.isSome
    | none => false

/-- PREEMPT is requested of a hart. -/
def State.requestPreempt (s : State) (h : HartId) : State := s.modHart h (fun x => { x with preemptReq := true })

/-- The harts of a list, from its first on, without which a saved context could be placed. -/
def State.leavers (s : State) (c : Saved) (gone : List HartId) : List HartId → List HartId
  | [] => []
  | h :: rest => if (s.positionOf c (gone ++ [h])).isSome then gone ++ [h] else s.leavers c (gone ++ [h]) rest

/-- The harts blocked at the limit, in descending hartid and none that is promised away already, that leave their positions
for a saved context: the highest one without which it can be placed, or as many as it takes. -/
def State.strippedFor (s : State) (c : Saved) : List HartId :=
  let hs := allHarts.reverse.filter (fun h => s.blockedAtLimit h && !s.camp.promises.any (fun p => p.2.2 == h))
  match hs.find? (fun h => (s.positionOf c [h]).isSome) with
  | some h => [h]
  | none => s.leavers c [] hs

/-- A saved context is named by a promise. -/
def Saved.isFor (c : Saved) (p : Nat × Nat × HartId) : Bool := p.1 == c.launch && p.2.1 == c.rank

/-- A saved context with an open strip that no position can take, and for which none is being freed, is promised the
positions of harts blocked at the limit. -/
def State.promiseFor (s : State) (c : Saved) : State :=
  if s.holdsBelay c && (s.positionOf c []).isNone && !s.camp.promises.any c.isFor then
    let hs := s.strippedFor c
    let t := hs.foldl State.requestPreempt s
    { t with camp := { t.camp with promises := t.camp.promises ++ hs.map (fun h => (c.launch, c.rank, h)) } }
  else s

/-- OPEN_STRIP_PREEMPT: every saved context with an open strip that no position can take is promised one (R324). -/
def State.openStripPreempt (s : State) : State :=
  (s.camp.queues.toList.flatMap (fun q => q.resume)).foldl State.promiseFor s

/-- The queue and the saved context that a promise names. -/
def State.promised (s : State) (p : Nat × Nat × HartId) : Option (Fin 16 × Saved) :=
  (List.finRange 16).findSome? (fun q => ((s.queue q).resume.find? (fun c => c.isFor p)).map (fun c => (q, c)))

/-- The first promised context that a position can take is placed, and nothing is promised to it any more. -/
def State.servePromised (s : State) : Option Out :=
  s.camp.promises.findSome? (fun p =>
    match s.promised p with
    | none => none
    | some (q, c) => (s.positionOf c []).map (fun h =>
        let t := s.placeSaved q c h
        .next { t with camp := { t.camp with promises := t.camp.promises.filter (fun p => !c.isFor p) } }))

/-- The first head for which base camp freed positions, and which they now let start (R321). -/
def State.serveOwed (s : State) : Option Out :=
  s.camp.owed.findSome? (fun o =>
    match (s.queue o.1).records with
    | [] => none
    | r :: _ => (s.positionsFor o.1 r.record []).map (fun ps => s.startRecord o.1 r.record ps))

/-- Hart h has still to leave its position, and can: INH = 1 would hold it there (R349). -/
def State.leaving (s : State) (h : HartId) : Bool :=
  (s.hart h).status == .saving || ((s.hart h).live && (s.hart h).preemptReq && !(s.hart h).inh)

/-- What base camp goes on promising: a position that its hart has still to leave, for a context that still waits; and
positions for a head, while some of their harts have still to leave and none of them is held there. -/
def State.keepPromises (s : State) : State :=
  { s with camp := { s.camp with
    promises := s.camp.promises.filter (fun p => (s.promised p).isSome && s.leaving p.2.2)
    owed := s.camp.owed.filter (fun o => !(s.queue o.1).records.isEmpty && o.2.any s.leaving &&
      !o.2.any (fun h => (s.hart h).preemptReq && (s.hart h).inh)) } }

/-- The decision: what is promised first; then what R324 promises, and the rotation's candidates. -/
def State.rotate (s : State) (slot : Nat) : Out :=
  match s.servePromised.orElse (fun _ => s.serveOwed) with
  | some o => o
  | none =>
    let t := s.keepPromises.openStripPreempt
    match (prioOrder (slotPrio slot)).findSome? t.candidate with
    | some o => o
    | none => .next t

/-- ROTATION_DECISION: the next base clock that is a multiple of 8 has come, halted positions are reclaimed, and the next
slot is served (R318). -/
def execRotationDecision (s : State) : Out :=
  if !s.mgmt.powered then s.stall
  else
    let s := { s with baseClock := (s.baseClock / 8 + 1) * 8 }
    if !s.mgmt.base then .next s
    else
      let s := s.reclaim
      { s with camp := { s.camp with slot := (s.camp.slot + 1) % 15 } }.rotate s.camp.slot

/-! ### Waiting heads (R321) -/

/-- Harts of a list to pre-empt, in its order, until the head of queue q can be placed. -/
def State.victims (s : State) (q : Fin 16) (r : LaunchRec) (gone : List HartId) : List HartId → Option (List HartId)
  | [] => none
  | h :: rest =>
    let g := gone ++ [h]
    if (s.positionsFor q r g).isSome then some g else s.victims q r g rest

/-- A hart that a waiting head may displace: BLOCKED or PARKED on a permitted core, and one that can be saved, which INH = 1
would put off (R349, log 50). -/
def State.displaceable (s : State) (q : Fin 16) (r : LaunchRec) (h : HartId) : Bool :=
  (match (s.hart h).status with
    | .parked | .blocked _ => true
    | _ => false) && !(s.hart h).inh && (s.saveArea h).isSome && (s.permitted r.cores).contains (coreOf h) && !(s.kept (some q)).contains h

/-- QUEUE_HEAD_WAIT_LIMIT: for a head that has waited 2^20 base clocks, enough BLOCKED and PARKED harts are pre-empted,
in descending hartid, and their positions are kept for it. -/
def execQueueHeadWaitLimit (q : Fin 16) (s : State) : Out :=
  match (s.queue q).records with
  | [] => s.stall
  | r :: _ =>
    if s.baseClock < r.headAt + 2 ^ 20 ∨ (s.positionsFor q r.record []).isSome ∨ s.camp.owed.any (fun o => o.1 == q) then
      s.stall
    else
      match s.victims q r.record [] (allHarts.reverse.filter (s.displaceable q r.record)) with
      | none => s.stall
      | some hs =>
        let t := hs.foldl State.requestPreempt s
        .next { t with camp := { t.camp with owed := t.camp.owed ++ [(q, hs)] } }

/-! ### The end of a launch (R316, R325, R403, R404) -/

/-- One combine of a farm reduction (Table 12.7). -/
def farmOp (rop : BitVec 3) (a b : Word) : Word :=
  match rop.toNat with
  | 0 => a + b
  | 1 => BitVec.ofNat 64 (fpOp .fp64 .rne .add a.toNat b.toNat 0).1
  | 2 => BitVec.ofNat 64 (fpOp .fp32 .rne .add (a.toNat % 2 ^ 32) (b.toNat % 2 ^ 32) 0).1
  | 3 => if a.slt b then b else a
  | 4 => if b.slt a then b else a
  | 5 => BitVec.ofNat 64 (fpOp .fp64 .rne .max a.toNat b.toNat 0).1
  | _ => BitVec.ofNat 64 (fpOp .fp64 .rne .min a.toNat b.toNat 0).1

/-- part(s, j): the deposit of strip s to slot j, or the identity. -/
def Launch.part (x : Launch) (n j : Nat) : Word :=
  match x.deposits.find? (fun d => d.1 == n && d.2.1 == j) with
  | some d => if x.record.rop = 2 then d.2.2 &&& 0xFFFFFFFF else d.2.2
  | none => ropIdentity x.record.rop

/-- The fold of slot j over the strips from lo, n of them. -/
def Launch.foldBlock (x : Launch) (j lo n : Nat) : Word :=
  (List.range n).foldl (fun acc i => farmOp x.record.rop acc (x.part (lo + i) j)) (ropIdentity x.record.rop)

/-- The reduction result of slot j (R325). -/
def Launch.result (x : Launch) (j : Nat) : Word :=
  let n := x.record.strips.toNat
  let nb := if x.record.blk = 0 then n else x.record.blk.toNat
  (List.range ((n + nb - 1) / nb)).foldl
    (fun res b => farmOp x.record.rop res (x.foldBlock j (b * nb) (min nb (n - b * nb)))) (ropIdentity x.record.rop)

/-- Every hart of a launch has ended: none is live, saved or due to start; and every write of the launch is home, those of
its copies that run on under no hart with them (R240, R300). -/
def State.launchEnded (s : State) (x : Launch) : Bool :=
  x.lostRanks.isEmpty && s.camp.queues.toList.all (fun q => q.resume.all (fun c => c.launch != x.ident)) &&
    allHarts.all (fun h =>
      let y := s.hart h
      y.status == .free || y.launch != x.ident || y.status == .halted) &&
    s.cores.all (fun k => k.queue.all (fun w => w.launch != x.ident) && k.copies.all (fun c => c.launch != x.ident))

/-- The status and COUNT of a launch that has ended (Table 12.5). -/
def Launch.outcome (x : Launch) : Byte × Nat :=
  (x.failed.getD (if x.record.kind = 0 ∨ x.allDone then 0x01 else 0x09), if x.record.kind = 0 then x.retired else x.count)

/-- The doublewords written from DONE + 8: the reduction results with OK, the cairn record with CAIRN. -/
def Launch.trailer (x : Launch) : List Word :=
  match x.outcome.1.toNat with
  | 1 => if x.record.kind = 0 then [] else (List.range x.record.rn.toNat).map x.result
  | 6 => (x.cairn.map (fun c => c.toList)).getD []
  | _ => []

/-- A launch is over: its barriers are free (R336). -/
def State.closeLaunch (s : State) (l : Nat) : State :=
  { s with camp := { s.camp with
      launches := s.camp.launches.filter (fun x => x.ident != l)
      barriers := s.camp.barriers.map (fun b => if b.owner == some l then b.free else b) } }

/-- COMPLETION_WORD_WRITE. -/
def execCompletionWordWrite (l : Nat) (s : State) : Out :=
  match s.launch l with
  | none => s.stall
  | some x =>
    if s.launchEnded x then
      s.complete x.queue x.record x.trailer x.outcome.2 x.outcome.1 s.stall (fun t => .next (t.closeLaunch l))
    else s.stall

/-- TEAM_HART_STOP: a hart of a failed launch, at its next boundary and once its writes are home, leaves its position,
and its context is discarded (R364, R404). -/
def execTeamHartStop (h : HartId) (s : State) : Out :=
  let x := s.hart h
  let stops := x.stopReq && (x.preemptible || x.status == .saving || x.status == .restoring)
  if !stops then s.stall
  else if !(s.core (coreOf h)).queue.isEmpty then .next (s.drainOne (coreOf h))
  else
    let t := s.release h
    .next (t.setHart h (t.hart h).vacant)

/-! ### The host's requests of a hart (Table 16.2) -/

/-- The hart position that bits 6 to 0 of a register value name. -/
def hartField (v : Word) : HartId := ⟨v.toNat % 128, Nat.mod_lt _ (by decide)⟩

/-- HOST_PREEMPT: no effect on a FREE position, or on a context that cannot be saved (R353). -/
def execHostPreempt (v : Word) (s : State) : Out :=
  let h := hartField v
  if s.mgmt.base && (s.hart h).live && (s.saveArea h).isSome then .next (s.requestPreempt h) else s.stall

/-- HSIG: the HOST_SIGNAL pending bit of a position is set. -/
def execHsig (v : Word) (s : State) : Out :=
  if s.mgmt.base then .next (s.modHart (hartField v) (fun x => { x with hostSig := true })) else s.stall

end Sys2Proof.Machine
end

