-- ==== Sys2Proof/Machine/Fabric.lean ====
section
/-! DEFINITION. The Yoter fabric (R383 to R388): ports, exploration and routes, remote accesses at their home, trains,
acknowledgements and timeouts, RSCAT and RMCAST. -/

namespace Sys2Proof.Machine

/-! ### Ports (R383, Table 16.2) -/

/-- The state with the fabric registers changed. -/
def State.modFabric (s : State) (f : Fabric → Fabric) : State := { s with fabric := f s.fabric }

/-- Bit p of FSTAT.UP. -/
def portBit (p : Fin 16) : BitVec 16 := BitVec.ofNat 16 (2 ^ p.val)

/-- PORT_TRAINED: a port of the part trains when EN = 1. -/
def execPortTrained (p : Fin 16) (s : State) : Out :=
  if s.mgmt.base && s.fabric.en && decide (p.val < Config.ports s.part) then
    .next (s.modFabric (fun f => { f with up := f.up ||| portBit p }))
  else s.stall

/-- PORT_TRAINING_LOST: the port is down; what it held ends under timeouts, and routes stay (R384). -/
def execPortTrainingLost (p : Fin 16) (s : State) : Out :=
  .next (s.modFabric (fun f => { f with up := f.up &&& ~~~portBit p }))

/-- FLIT_CRC_RETRY: a retry changes timing only. -/
def execFlitCrcRetry (_p : Fin 16) (s : State) : Out := .next s

/-! ### Exploration (R384) -/

/-- The places reached from a frontier, step by step: each list is one step further. -/
def reachFrom (links : List Link) : Nat → List Nat → List Nat → List (List Nat)
  | 0, _, _ => []
  | fuel + 1, seen, fr =>
    if fr.isEmpty then []
    else
      let next := ((links.filter (fun l => fr.contains l.src)).map (fun l => l.dst)).eraseDups.filter
        (fun n => !seen.contains n)
      fr :: reachFrom links fuel (seen ++ next) next

/-- The distances of places from one. -/
def levelsFrom (links : List Link) (n : Nat) : List (List Nat) := reachFrom links 257 [n] [n]

/-- The graph an exploration sees: links of this module count on trained ports. -/
def State.graph (s : State) (links : List Link) : List Link :=
  links.filter (fun l => l.src != 0 || s.fabric.up.getLsbD l.port)

/-- The ID of a place of the graph: this module's own at place 0, and none past the list. -/
def identAt (own : Byte) (idents : List Byte) (n : Nat) : Option Byte := (own :: idents)[n]?

/-- Two of the modules that the flood reaches from this one have one ID, this module's own among them. -/
def duplicateId (own : Byte) (idents : List Byte) (links : List Link) : Bool :=
  let ids := (levelsFrom links 0).flatten.filterMap (identAt own idents)
  ids.eraseDups.length != ids.length

/-- The better of two first hops to a module: fewer hops, then the lower port. -/
def betterHop (a : Option (Nat × Nat)) (b : Nat × Nat) : Option (Nat × Nat) :=
  match a with
  | none => some b
  | some x => if b.1 < x.1 ∨ (b.1 = x.1 ∧ b.2 < x.2) then some b else some x

/-- The port toward a place of the graph: the first of a shortest path, the lowest among them. `own` gives the levels
reached through each port of this module. -/
def routeTo (own : List (Nat × List (List Nat))) (f : Nat) : Option (BitVec 4) :=
  (own.foldl (fun acc p =>
    match p.2.findIdx? (fun l => l.contains f) with
    | some d => betterHop acc (d, p.1)
    | none => acc) none).map (fun x => BitVec.ofNat 4 x.2)

/-- The module's ID goes out on each trained port. -/
def Fabric.announce (f : Fabric) : Fabric :=
  { f with out := f.out ++ ((List.range 16).filter (fun p => f.up.getLsbD p)).map (fun p => .explore p f.ident) }

/-- An exploration: the module sends its ID on each trained port, and by the graph that the flood finds the route entries
are filled, or a duplicate ID leaves none valid. -/
def State.explored (s : State) (idents : List Byte) (links : List Link) : State :=
  let g := s.graph links
  let s := s.modFabric Fabric.announce
  let me := s.fabric.ident
  if duplicateId me idents g then
    s.modFabric (fun f => { f with dup := true, done := false, routes := Vector.replicate 256 none })
  else
    let own := (g.filter (fun l => l.src == 0)).map (fun l => (l.port, levelsFrom g l.dst))
    s.modFabric (fun f => { f with
      dup := false, done := true
      routes := Vector.ofFn (fun n : Fin 256 =>
        if n.val = me.toNat then none
        else idents.zipIdx.findSome? (fun i => if i.1.toNat = n.val then routeTo own (i.2 + 1) else none)) })

/-- EXPLORE. -/
def execExplore (map : FabricMap) (s : State) : Out :=
  if !s.mgmt.base || !Config.hasFab s.part then s.stall else .next (s.explored map.idents map.links)

/-- FABRIC_ENABLE, a write of FCTL: EN takes bit 0, and with EN = 0 no port is trained; a 1 in bit 1 runs exploration, on
the graph that stands outside (Table 16.2, R384, log 59). -/
def execFabricEnable (v : Word) (s : State) : Out :=
  if !s.mgmt.base || !Config.hasFab s.part then s.stall
  else
    let t := s.modFabric (fun f => { f with en := v.getLsbD 0, up := if v.getLsbD 0 then f.up else 0 })
    let g := Config.fabricGraph s.tick
    if v.getLsbD 1 then .next (t.explored g.1 (g.2.map (fun l => ⟨l.1, l.2.1, l.2.2⟩))).step1 else .next t

/-- A module can be named: it has a valid route, or is this one (R386). -/
def State.reachable (s : State) (m : Byte) : Bool :=
  m == s.fabric.ident || (s.fabric.done && (s.fabric.routes.get m.toFin).isSome)

/-! ### Remote accesses at their home (R242) -/

/-- Traffic moves. -/
def State.fabricOn (s : State) : Bool := s.mgmt.base && s.fabric.en && s.fabric.up != 0

/-- The offsets of n bytes that another module names lie where an access can perform. -/
def State.inboundOk (s : State) (pa n : Nat) : Bool :=
  (List.range n).all (fun i => match s.region (pa + i) with
    | .global => true
    | .host off => (s.aperture off).isSome
    | .spad c _ | .sdm c _ => if h : c < 32 then s.inService (chipletOf ⟨c, h⟩) else false
    | _ => false)

/-- The same for an access that does not reach the host window: the manual sends only loads and stores there (R222). -/
def State.inboundHome (s : State) (pa n : Nat) : Bool :=
  s.inboundOk pa n && (List.range n).all (fun i => match s.region (pa + i) with
    | .host _ => false
    | _ => true)

/-- A message goes out. -/
def State.send (s : State) (m : FabricMsg) : State := s.post [m]

/-- The writes of another module that a store or a train carries. -/
def inboundWrites (ws : List (Nat × Byte × Byte)) : List ByteWrite :=
  ws.map (fun w => { pa := w.1, val := w.2.1, mask := w.2.2 })

/-- Bytes that another module reads or writes lie in lines that are locked, or where accesses wait (R252). -/
def State.inboundHeld (s : State) (pas : List Nat) : Bool := pas.any (fun pa => s.lineHeld pa)

/-- Bytes that another module reads hold uncorrectable data, or would merge with it when they are written with `ws`: the
manual gives such an access no answer, and it ends under the timeout of its sender (log 61). -/
def State.inboundBad (s : State) (ws : List ByteWrite) (pas : List Nat) : Bool :=
  pas.any (fun pa => (s.spoiled ws pa).isSome)

/-- The n addresses from one up. -/
def spanOf (pa n : Nat) : List Nat := (List.range n).map (fun i => pa + i)

/-- The byte another module reads. -/
def State.inboundByte (s : State) (pa : Nat) : Byte :=
  match s.region pa with
  | .host off => Config.hostByte s.tick ((s.aperture off).getD 0)
  | _ => memGet s.mem pa

/-- Writes of another module perform: at their homes, or at the host. -/
def State.inboundStore (s : State) (ws : List ByteWrite) : State :=
  let out := ws.filterMap (fun w => match s.region w.pa with
    | .host off => (s.aperture off).map (fun a => ({ addr := BitVec.ofNat 64 a, val := w.val } : HostWrite))
    | _ => none)
  { s with hostOut := s.hostOut ++ out }.home (ws.filter (fun w => match s.region w.pa with
    | .host _ => false
    | _ => true))

/-- A line is locked, or others wait for it, but for a lock of module src. -/
def State.heldByOther (s : State) (pa src : Nat) : Bool :=
  s.locks.any (fun l => l.line == pa / 128 && l.holder != some (.module src))

/-- The addresses that the answer hart h awaits is about: those of its VAMO's elements, once they are sent, of its access, of
the first of its reads, or of the part of its store. -/
def State.awaited (s : State) (h : HartId) : List Nat :=
  match (s.hart h).remote with
  | .sent pa =>
    match s.flightOf h with
    | some f => if f.sent then f.far.map (fun x => x.pa) else [pa]
    | none => [pa]
  | .reading asked _ => (asked.take 1).map (fun x => x.1)
  | .storing r => if r.away then ((r.parts.headD []).map (fun w => w.pa)).filter isRemote else []
  | _ => []

/-- What hart h asked for can still be answered: FTO has not passed, and its modules' routes are up (R384, R385). -/
def State.inTime (s : State) (h : HartId) (mods : List Byte) : Bool :=
  decide (s.baseClock < (s.hart h).sentAt + s.fto) && mods.all (fun m => s.routeUp m)

/-- The answer to the request of hart h: an access or a VAMO is answered, a read's bytes have come, and a part of a store
has performed at its home, and its bytes on this module, whose lines were locked, perform here. -/
def State.accept (s : State) (h : HartId) (reply : List Byte) : State :=
  match (s.hart h).remote with
  | .sent _ => s.answer h reply
  | .reading (x :: rest) got =>
    s.modHart h (fun y => { y with remote := .reading rest (got ++ (spanOf x.1 x.2).zip reply) })
  | .storing r =>
    (s.endPart h true).modHart h (fun y => { y with remote := .storing { r with parts := r.parts.drop 1, away := false } })
  | _ => s

/-- REMOTE_ACCESS: the home answers a request of ours, or performs a request of another module and answers it. A request
to a hole, and any request while no port carries traffic, is left to the timeout of its sender. -/
def execRemoteAccess (m : RemoteMsg) (s : State) : Out :=
  if !s.fabricOn then s.stall
  else
    match m with
    | .ours h reply =>
      let pas := s.awaited h
      if pas.isEmpty || !s.inTime h (pas.map s.moduleOf) then s.stall else .next (s.accept h reply)
    | .load pa n =>
      if !s.inboundOk pa n || s.inboundHeld (spanOf pa n) || s.inboundBad [] (spanOf pa n) then s.stall
      else .next (s.send (.reply ((spanOf pa n).map s.inboundByte))).step1
    | .store writes =>
      let ws := inboundWrites writes
      let pas := ws.map (fun w => w.pa)
      if pas.any (fun pa => !s.inboundOk pa 1) || s.inboundHeld pas || s.inboundBad ws pas then s.stall
      else .next ((s.inboundStore ws).send (.reply []))
    | .amo pa op wd src cmp =>
      let n := amoBytes wd
      if !s.inboundHome pa n || s.inboundHeld (spanOf pa n) || s.inboundBad [] (spanOf pa n) || pa % n != 0 then s.stall
      else
        let old := leNat ((spanOf pa n).map (fun a => memGet s.mem a))
        let new := amoNew op (8 * n) old (src.toNat % 2 ^ (8 * n)) cmp.toNat
        let t := if amoWrites op (8 * n) old cmp.toNat then s.home (writesAt pa (leBytes n new)) else s
        .next (t.send (.reply (leBytes n old)))
    | .vamo src op kind width elems =>
      let n := width / 8
      if elems.any (fun e => !s.inboundHome e.1 n || s.heldByOther e.1 src || s.inboundBad [] (spanOf e.1 n)) then s.stall
      else
        let (ws, olds, _) := vamoRun op kind width s.mem (elems.map (fun e =>
          ({ idx := 0, pa := e.1, data := e.2.toNat % 2 ^ width } : AmoElem)))
        .next ((s.home ws).send (.reply (olds.flatMap (fun o : Nat × Nat => leBytes n o.2))))
    | .lockLine pa home holder =>
      let line := pa / 128
      let k := lineSlice s.part home line
      if !s.inboundHome pa 1 || s.locks.any (fun l => l.line == line) ||
          (k != noSlice && decide (sliceRoom ≤ s.heldIn k + s.grantedIn k)) then s.stall
      else .next { s with locks := s.locks ++ [{ line := line, slice := k, holder := some (.module holder), waiting := [] }] }

/-! ### Trains (R387) -/

/-- The writes of a train, in order. -/
def trainWrites (ws : List TrainWrite) : List ByteWrite := ws.flatMap (fun w => writesAt w.off w.bytes)

/-- A byte of a train lies where it can be written: an RMCAST's in global memory alone (R387, R388). -/
def State.trainHome (s : State) (cast : Bool) (pa : Nat) : Bool :=
  if cast then s.isGlobal pa else s.inboundHome pa 1

/-- FABRIC_TRAIN: a train whose count matches is applied in order and acknowledged; one whose count does not is
discarded, and one with a byte that lies in no memory of this module, or that would merge with uncorrectable data, stays
unacknowledged (R387, R388). -/
def execFabricTrain (src : Byte) (load : TrainLoad) (count : Nat) (s : State) : Out :=
  if !s.fabricOn then s.stall
  else
    let ws := trainWrites load.writes
    let pas := ws.map (fun w => w.pa)
    if load.writes.length ≠ count ∨ pas.any (fun pa => !s.trainHome load.cast pa) ∨ s.inboundBad ws pas then s.stall
    else if s.inboundHeld pas then s.stall
    else .next ((s.home ws).send (.ack src))

/-- FABRIC_ACK: a train of hart h is acknowledged by module m. -/
def execFabricAck (h : HartId) (m : Byte) (s : State) : Out :=
  match (s.hart h).remote with
  | .trains mods =>
    if s.inTime h [m] then .next (s.modHart h (fun x => { x with remote := .trains (mods.filter (fun k => k != m)) }))
    else s.stall
  | _ => s.stall

/-- The lowest fabric number of a list. -/
def lowestModule (l : List Byte) : Byte := l.foldl (fun a b => if b.toNat < a.toNat then b else a) 0xFF

/-- FABRIC_TIMEOUT: a request of hart h unanswered after FTO base clocks raises it at the instruction, with the first
address that is not answered or the lowest unacknowledged module (R385, R387). What was sent has performed at the other
module or not, and the elements of the VAMO, or the bytes of the part of the store, on this module with it: a free choice
(R242, R253). -/
def execFabricTimeout (h : HartId) (s : State) : Out :=
  let x := s.hart h
  if s.baseClock < x.sentAt + s.fto then s.stall
  else
    match x.remote, s.awaited h with
    | .trains [], _ => s.stall
    | .trains mods, _ =>
      .next ((s.modHart h (fun y => { y with vstart := 0 })).trapHart h Cause.fabricTimeout
        ((lowestModule mods).setWidth 64) x.pc)
    | .sent pa, _ => .next ((s.dropFlight h (Config.freeBit s.tick 0)).step1.trapHart h Cause.fabricTimeout (BitVec.ofNat 64 pa) x.pc)
    | _, pa :: _ => .next ((s.endPart h (Config.freeBit s.tick 0)).step1.trapHart h Cause.fabricTimeout (BitVec.ofNat 64 pa) x.pc)
    | _, [] => s.stall

/-- An RSCAT or RMCAST whose trains are out: it completes once every one is acknowledged. -/
def State.awaitTrains (s : State) (mods : List Byte) : Out :=
  match mods with
  | [] => s.endRemote.done
  | _ => s.stall

/-- The trains are sent, and the instruction waits for the modules of `mods`; with none it completes. -/
def State.sendTrains (s : State) (cast : Bool) (trains : List (Byte × List TrainWrite)) (mods : List Byte) : Out :=
  let t := s.post (trains.map (fun x => .train x.1 cast x.2 x.2.length))
  if mods.isEmpty then t.endRemote.done
  else .next (t.modMe (fun h => { h with remote := .trains mods, sentAt := t.baseClock }))

/-! ### RSCAT (R387) -/

/-- The check of FAB_MODULE over elements in ascending order: the first whose address names a module that cannot be
reached. -/
def State.unreached (s : State) (addr : Nat → Word) (body : List Nat) : Option Stop :=
  body.findSome? (fun i =>
    match s.locateRaw (s.ctx s.cur) .write .never (addr i) with
    | .ok p =>
      if isRemote p.pa ∧ !s.reachable (s.moduleOf p.pa) then some (.trap Cause.fabModule ((s.moduleOf p.pa).setWidth 64))
      else none
    | .error (.wait t) => some (.wait t)
    | .error _ => none)

/-- An element of a scatter: its physical address and bytes. -/
abbrev ScatElem := Nat × List Byte

/-- One train for each foreign module, in ascending element order. -/
def State.scatTrains (s : State) (elems : List ScatElem) : List (Byte × List TrainWrite) :=
  ((elems.filter (fun e => isRemote e.1)).map (fun e => s.moduleOf e.1)).eraseDups.map (fun m =>
    (m, (elems.filter (fun e => isRemote e.1 && s.moduleOf e.1 == m)).map (fun e =>
      ({ off := e.1 % 2 ^ 44, bytes := e.2 } : TrainWrite))))

/-- RSCAT. -/
def execRscat (v a n : Reg) (s : State) : Out :=
  let h := s.me
  let t := h.vt
  let word := packR 0x37 v a n 0
  let ea := h.xr a
  let nb := t.wd / 8
  let body := h.body
  let addr := fun i => ea + BitVec.ofNat 64 (nb * h.pat n i t.wb)
  match h.remote with
  | .trains mods => s.awaitTrains mods
  | _ =>
    if s.inBelay s.cur then s.trap Cause.belayForbidden (wordVal word)
    else if h.vl = 0 then s.emptyVl
    else
      match h.vamoCheck 6 v n none ea with
      | some (c, y) => s.trap c y
      | none =>
        match s.unreached addr body with
        | some e => e.out s
        | none =>
          match s.vamoProbe word nb addr body with
          | .error (j, e) => (probeStop j e).out s
          | .ok xs =>
            let places : List Place := xs.flatMap (fun y => y.2)
            let own := places.filter (fun p : Place => !isRemote p.pa)
            let elems : List ScatElem := xs.map (fun y => ((y.2.map (fun p => p.pa)).headD 0, leBytes nb (h.pat v y.1 t.wd)))
            if !s.quiet s.cur then s.waitQuiet
            else
              match s.lockCheck s.cur own with
              | some e => e.out s
              | none =>
                let lane := (laneStop h.marks (groupReads v t.wd h.inBody ++ groupReads n t.wb h.inBody)).map (fun x => x.2)
                let ws := (elems.filter (fun e => !isRemote e.1)).flatMap (fun e => writesAt e.1 e.2)
                match lane.orElse (fun _ => s.mergeError s.cur ws) with
                | some e => e.out s
                | none =>
                  let trains := s.scatTrains elems
                  ((s.usePages (coreOf s.cur) places).home ws).sendTrains false trains (trains.map (fun x => x.1))

/-! ### RMCAST (R388) -/

/-- The first bad doubleword of an RMCAST descriptor. -/
def rmcastBad (d : Vector Word 8) : Option Nat :=
  if d[1].toNat / 2 ^ 44 ≠ 0 then some 1
  else if d[2].toNat / 2 ^ 32 ≠ 0 then some 2
  else if d[3] ≠ 0 then some 3
  else none

/-- The modules that MASK names, ascending. -/
def rmcastMask (d : Vector Word 8) : List Byte :=
  ((List.range 256).filter (fun f => (#v[d[4], d[5], d[6], d[7]].toList.getD (f / 64) 0).getLsbD (f % 64))).map
    (fun f => BitVec.ofNat 8 f)

/-- This module's own copy of an RMCAST lies in its global memory. -/
def State.castFits (s : State) (mods : List Byte) (off len : Nat) : Bool :=
  mods.contains s.fabric.ident && decide (off + len ≤ Config.memBytes s.part)

/-- The bytes of the source are known: the trains go out, and this module's own copy is made when it lies in memory; past
its end it stays unacknowledged, as on any module. -/
def State.multicast (s : State) (mods : List Byte) (off : Nat) (bytes : List Byte) : Out :=
  let own := s.castFits mods off bytes.length
  let others := mods.filter (fun m => m != s.fabric.ident)
  let ws := writesAt off bytes
  if own && s.rangeHeld off bytes.length then s.hold
  else
    match (if own then s.mergeError s.cur ws else none) with
    | some e => e.out s
    | none =>
      (if own then s.home ws else s).sendTrains true (others.map (fun m => (m, [{ off := off, bytes := bytes }])))
        (others ++ (if mods.contains s.fabric.ident && !own then [s.fabric.ident] else []))

/-- The descriptor of an RMCAST is known. A hart of a belayed farm that is in no strip writes no global memory, this
module's own copy among it (R323). -/
def State.rmcastRun (s : State) (word : BitVec 32) (d : Vector Word 8) : Out :=
  match rmcastBad d with
  | some i => s.trap Cause.fabDesc (BitVec.ofNat 64 i)
  | none =>
    let mods := rmcastMask d
    let len := d[2].toNat
    match mods.find? (fun m => !s.reachable m) with
    | some m => s.trap Cause.fabModule (m.setWidth 64)
    | none =>
      if len = 0 ∨ mods = [] then s.endRemote.done
      else if s.belayed s.cur && s.castFits mods d[1].toNat len then s.trap Cause.belayForbidden (wordVal word)
      else
        match s.probeBytes .read word (addrsFrom d[0] len) with
        | .error e => e.out s
        | .ok ps => s.readPlaces ps (fun t bytes => t.multicast mods d[1].toNat bytes)

/-- Bytes located in ascending order: those before the first that fails, and the failure. -/
def State.locateRun (s : State) (va : Word) : Nat → List Place × Option Stop
  | 0 => ([], none)
  | n + 1 =>
    match s.locate (s.ctx s.cur) .read .opened va with
    | .error e => ([], some e)
    | .ok p =>
      let (ps, e) := s.locateRun (va + 1) n
      (p :: ps, e)

/-- n bytes at va are read as loads of the hart, in ascending order, by an instruction that goes on to read other bytes
(R87, R386). -/
def State.loadRun (s : State) (va : Word) (n : Nat) (k : State → List Byte → Out) : Out :=
  match s.locateRun va n with
  | (ps, e) => s.readPlaces ps (fun t bs =>
    match e with
    | some e => e.out s
    | none => k t.step1 bs)

/-- A FAB instruction with a descriptor at x[a]: BELAY_FORBIDDEN, MISALIGNED_DATA, then, after every earlier write of the
hart, the read as loads (R386). Only a hart inside a belayed strip is forbidden here, an RCOMB outside one is not (R323,
log 95). -/
def State.fabDesc (s : State) (word : BitVec 32) (a : Reg) (k : State → Vector Word 8 → Out) : Out :=
  let ea := s.me.xr a
  if s.inBelay s.cur then s.trap Cause.belayForbidden (wordVal word)
  else if ea.toNat % 64 ≠ 0 then s.trap Cause.misalignedData ea
  else if !s.quiet s.cur then s.waitQuiet
  else s.loadRun ea 64 (fun t bs => k t (descOf bs))

/-- RMCAST. -/
def execRmcast (a : Reg) (s : State) : Out :=
  let word := packR 0x37 0 a 0 1
  match s.me.remote with
  | .trains mods => s.awaitTrains mods
  | _ => s.fabDesc word a (fun t d => t.rmcastRun word d)

end Sys2Proof.Machine
end

