-- ==== Sys2Proof/Machine/Combine.lean ====
section
/-! DEFINITION. Collectives (R389 to R392): RCOMB and RWAIT, the combining tree, its timeouts, and the status record. -/

namespace Sys2Proof.Machine

/-! ### Triples (R389) -/

/-- The identity of LEN elements. -/
def tripleIdent (len : Nat) : Triple := { m := 0xFF800000, s := 0, v := List.replicate len 0 }

/-- One operation on binary32 patterns, rounded to nearest-even. -/
def fp32Op (op : FOp) (a b : BitVec 32) : BitVec 32 := BitVec.ofNat 32 (fpOp .fp32 .rne op a.toNat b.toNat 0).1

/-- A binary32 pattern is a NaN. -/
def isNan32 (a : BitVec 32) : Bool := (Fmt.decode .fp32 a.toNat).isNan

/-- Two binary32 patterns have one value. -/
def sameVal32 (a b : BitVec 32) : Bool := a == b || (a &&& 0x7FFFFFFF == 0 && b &&& 0x7FFFFFFF == 0)

/-- t_k: 1 for the greater maximum, else 2^(m_k − M), each operation rounded. -/
def scaleOf (m big : BitVec 32) : BitVec 32 :=
  if sameVal32 m big then 0x3F800000 else fp32Op .exp2 (fp32Op .sub m big) 0

/-- s1 × t1 + s2 × t2, every operation rounded. -/
def mixOf (t1 t2 s1 s2 : BitVec 32) : BitVec 32 := fp32Op .add (fp32Op .mul s1 t1) (fp32Op .mul s2 t2)

/-- The combine of two triples, the lower-ranked on the left. -/
def combineTriple (a b : Triple) : Triple :=
  if b = tripleIdent b.v.length then a
  else if a = tripleIdent a.v.length then b
  else if isNan32 a.m || isNan32 b.m then
    { m := 0x7FC00000, s := 0x7FC00000, v := a.v.map (fun _ => 0x7FC00000) }
  else
    let big := fp32Op .max a.m b.m
    let t1 := scaleOf a.m big
    let t2 := scaleOf b.m big
    { m := big, s := mixOf t1 t2 a.s b.s, v := List.zipWith (mixOf t1 t2) a.v b.v }

/-! ### The tree of routers (R147, R389, R390) -/

/-- How many partials there are at a level of the tree over n leaves (R147). -/
def partialsAt (n level : Nat) : Nat := (n + 2 ^ level - 1) / 2 ^ level

/-- The partials at an input's level. -/
def inputWidth (x : CollInput) : Nat := partialsAt (x.nr + 1) x.level

/-- An input one level up, at the place it has there. -/
def inputUp (x : CollInput) : CollInput := { x with level := x.level + 1, index := x.index / 2 }

/-- An input where it next meets a partner, or at the root: the last of an odd number of partials has none and passes on
(R147). -/
def inputClimb : Nat → CollInput → CollInput
  | 0, x => x
  | n + 1, x => if 1 < inputWidth x ∧ inputWidth x % 2 = 1 ∧ x.index + 1 = inputWidth x then inputClimb n (inputUp x) else x

/-- Two inputs belong to one collective (R389: one that disagrees with its partner's is absent). -/
def inputsAgree (a b : CollInput) : Bool := a.cid == b.cid && a.nr == b.nr && a.len == b.len && a.ranks == b.ranks

/-- Two triples combined, an empty shard contributing the identity. -/
def combineShards (a b : Option Triple) : Option Triple :=
  match a, b with
  | some x, some y => some (combineTriple x y)
  | some x, none => some x
  | none, y => y

/-- What a node of two inputs sends up: their combination, the lower on the left; inputs that disagree are both absent
(log 62). -/
def inputJoin (a b : CollInput) : Option CollInput :=
  let (x, y) := if a.index < b.index then (a, b) else (b, a)
  if inputsAgree x y then some { inputUp x with present := x.present ++ y.present, triple := combineShards x.triple y.triple }
  else none

/-- The modules of the ranks whose triples a result holds. -/
def inputMembers (x : CollInput) : List Byte := (x.present.filterMap (fun r => x.ranks[r]?)).eraseDups

/-- The root result is multicast to every present member (R389). -/
def State.deliver (s : State) (x : CollInput) : State :=
  let t := s.post (((inputMembers x).filter (fun m => m != s.fabric.ident)).map (fun m => .result m x))
  if (inputMembers x).contains s.fabric.ident then { t with roots := t.roots ++ [x] } else t

/-- The node where an input meets its partner. -/
def CombineNode.meets (n : CombineNode) (x : CollInput) : Bool :=
  n.cid == x.cid && n.level == x.level + 1 && n.index == x.index / 2

/-- The state without a node. -/
def State.dropNode (s : State) (n : CombineNode) : State := { s with nodes := s.nodes.filter (fun m => m != n) }

/-- The state with a node more. -/
def State.addNode (s : State) (n : CombineNode) : State := { s with nodes := s.nodes ++ [n] }

/-- A node has waited FTO since its first input (R390). -/
def State.overdue (s : State) (n : CombineNode) : Bool := decide (n.firstAt + s.fto ≤ s.baseClock)

/-- The base clocks after which no member of a collective of n + 1 ranks waits any more (R390). -/
def State.limitOf (s : State) (nr : Nat) : Nat := s.fto * (levelsOf (nr + 1) + 2)

/-- A node of a collective whose members no longer wait: what it holds concerns no later one (R9, R390, log 62). -/
def State.spent (s : State) (n : CombineNode) : Bool :=
  decide (n.firstAt + s.limitOf ((n.inputs.map (fun x => x.nr)).headD 0) ≤ s.baseClock)

/-- An input reaches its node at this router: the state, and what the node sends up. The first input starts the node's
clock and the second completes it. Once FTO has passed, what has not arrived is absent: the input that stands goes on alone,
and one that comes late is dropped. An input in the place of one that such a node has counted belongs to a later collective
of the CID, and starts the node anew; nothing of the earlier one goes up any more (R9, R390, log 62). -/
def State.atNode (s : State) (x : CollInput) : State × Option CollInput :=
  let fresh : CombineNode :=
    { cid := x.cid, level := x.level + 1, index := x.index / 2, inputs := [x], firstAt := s.baseClock, closed := false }
  match s.nodes.find? (fun m => m.meets x && !s.spent m) with
  | none => ({ s with nodes := s.nodes.filter (fun m => !m.meets x) }.addNode fresh, none)
  | some m =>
    let again := m.inputs.any (fun y => y.index == x.index)
    if m.closed || s.overdue m then
      if again then ((s.dropNode m).addNode fresh, none)
      else if m.closed then (s, none)
      else ((s.dropNode m).addNode { m with closed := true }, (m.inputs.head?).map inputUp)
    else if again then (s, none)
    else (s.dropNode m, (m.inputs.head?).bind (fun y => inputJoin y x))

/-- An input goes on in its tree: as the result at the root, to the router of its next node, or to that node when it is
this module's. -/
def State.forward : Nat → State → CollInput → State
  | 0, s, _ => s
  | n + 1, s, x =>
    let y := inputClimb 9 x
    let home := Config.combineHome y.cid (y.level + 1) (y.index / 2)
    if inputWidth y ≤ 1 then s.deliver y
    else if home ≠ s.fabric.ident then s.send (.combine home y)
    else
      match s.atNode y with
      | (t, some z) => t.forward n z
      | (t, none) => t

/-- The most steps that inputs make at one router: the tree of 256 ranks has nine levels. -/
def treeFuel : Nat := 32

/-- COMBINE_INPUT: an input arrives at the router of its next node. -/
def execCombineInput (inp : CollInput) (s : State) : Out :=
  if !s.fabricOn then s.stall
  else
    match s.atNode inp with
    | (t, some z) => .next (t.forward treeFuel z)
    | (t, none) => .next t

/-- A node closes with the input that has arrived: it goes on alone, while a member may still wait for it (R390). -/
def State.closeNode (s : State) (m : CombineNode) : State :=
  if s.spent m then s.dropNode m
  else
    let t := (s.dropNode m).addNode { m with closed := true }
    match m.inputs.head? with
    | some x => t.forward treeFuel (inputUp x)
    | none => t

/-- COMBINE_NODE_TIMEOUT: FTO after the first input, what has not arrived is absent. -/
def execCombineNodeTimeout (node : NodeKey) (s : State) : Out :=
  match s.nodes.find? (fun n => n.cid == node.cid && n.level == node.level && n.index == node.index && !n.closed) with
  | some n => if s.overdue n then .next (s.closeNode n) else s.stall
  | none => s.stall

/-! ### The result at a member (R389 to R391) -/

/-- The rank of this module among those of a collective. -/
def State.rankIn (s : State) (ranks : List Byte) : Nat := (ranks.findIdx? (fun m => m == s.fabric.ident)).getD 0

/-- The router of the root of a collective's tree is this module's (R389). -/
def State.rootHere (s : State) (c : Collective) : Bool :=
  c.nr == 0 || Config.combineHome c.cid (levelsOf (c.nr + 1)) 0 == s.fabric.ident

/-- A root result is one of this collective: its parameters, ranks in order, this module among them, whose own triple it is
when it is alone, and the result that this module's router formed when the root is there (R9, R10, R389). -/
def State.resultFor (s : State) (c : Collective) (x : CollInput) : Bool :=
  x.cid == c.cid && x.nr == c.nr && x.len == c.len && x.ranks == c.ranks &&
    x.present == (List.range (c.nr + 1)).filter (fun r => x.present.contains r) && (inputMembers x).contains s.fabric.ident &&
    x.triple.all (fun t => t.v.length == c.len) && (x.present != [s.rankIn c.ranks] || x.triple == c.own) &&
    (if s.rootHere c then s.roots.contains x else s.fabricOn)

/-- A triple in memory: m, s, then v. -/
def tripleBytes (t : Triple) : List Byte := (t.m :: t.s :: t.v).flatMap (fun w => leBytes 4 w.toNat)

/-- Doubleword 0 of the status record. -/
def statusWord (status : Nat) (present : Nat) : Word := BitVec.ofNat 64 (present * 2 ^ 16 + status)

/-- The status record (R391). -/
def statusRecord (w : Word) (present : List Nat) : List Byte :=
  leBytes 8 w.toNat ++ leBytes 32 ((present.map (fun r => 2 ^ r)).sum) ++ List.replicate 24 0

/-! ### Writes of the base die for a member -/

/-- What stops a walk of the base die at an entry: a locked line, which it waits for, or uncorrectable data. -/
def State.baseStop (s : State) (pa : Nat) : Option Stop := if s.lineHeld pa then some (.wait s) else s.spoiled [] pa

/-- Where a byte of a member's address space lies for a write of the base die: on a writable page, with the leaf to mark. -/
def State.memberPage (s : State) (asid : BitVec 16) (ptbase : Word) (va : Nat) : Option (Nat × PageMark) :=
  if 2 ^ 48 ≤ va ∨ isLocal va then none
  else
    match s.walk s.baseStop (ptbase.toNat / 2 ^ 15) va with
    | .leaf pte pteAddr big =>
      if pte.getLsbD 2 then
        some (leafAddr pte big va,
          { entry := { asid := asid, vpn := BitVec.ofNat 33 (va / 2 ^ 15), big := big, pte := pte ||| pteMarks, pteAddr := pteAddr },
            old := pte })
      else none
    | _ => none

/-- Bytes written at a virtual address of a member, all at once, with A and D set in their pages (R198, R346); a byte that no
page lets it write is not written. -/
def State.memberWrite (s : State) (asid : BitVec 16) (ptbase : Word) (va : Word) (bs : List Byte) : State :=
  let xs := ((addrsFrom va bs.length).zip bs).filterMap (fun b => (s.memberPage asid ptbase b.1.toNat).map (fun p => (p, b.2)))
  let t := ((xs.map (fun x => x.1.2)).eraseDups).foldl State.markPage s
  t.campPut (xs.map (fun x => { pa := x.1.1, val := x.2, mask := 0xFF }))

/-- A line that a member's write or its walk would touch is locked (R252). -/
def State.memberHeld (s : State) (ptbase : Word) (va : Word) (n : Nat) : Bool :=
  (List.range n).any (fun i => match s.walk s.baseStop (ptbase.toNat / 2 ^ 15) (va.toNat + i) with
    | .leaf pte pteAddr big => s.lineHeld (leafAddr pte big (va.toNat + i)) || s.lineHeld pteAddr
    | .stop (.wait _) => true
    | _ => false)

/-- The collective with a key. -/
def State.collective (s : State) (k : CollKey) : Option Collective := s.collectives.find? (fun c => c.key == k)

/-- STAT is written: the collective holds its doubleword 0 for RWAIT. -/
def State.closeCollective (s : State) (k : CollKey) (w : Word) : State :=
  { s with collectives := s.collectives.map (fun c => if c.key == k then { c with status := some w } else c) }

/-- The root results of a collective are no longer kept. -/
def State.dropRoots (s : State) (cid : BitVec 32) : State := { s with roots := s.roots.filter (fun x => x.cid != cid) }

/-- The base clocks after which a member gives up (R390). -/
def State.memberLimit (s : State) (c : Collective) : Nat := s.limitOf c.nr

/-- A member's time for its result has passed. -/
def State.tooLate (s : State) (c : Collective) : Bool := decide (c.issuedAt + s.memberLimit c ≤ s.baseClock)

/-- COLLECTIVE_RESULT: a present member receives the root result and writes DST and then STAT. A result of a tree whose root
is at this module's router stands in `roots`; any other comes over the fabric. -/
def execCollectiveResult (result : MemberResult) (s : State) : Out :=
  match s.collective result.key with
  | none => s.stall
  | some c =>
    let t := result.root.triple.getD (tripleIdent c.len)
    if c.status.isSome || s.tooLate c || !s.resultFor c result.root ||
        s.memberHeld c.ptbase c.dst (tripleBytes t).length || s.memberHeld c.ptbase c.stat 64 then s.stall
    else
      let w := statusWord (if result.root.present.length = c.nr + 1 then 1 else 2) result.root.present.length
      let u := (s.memberWrite c.asid c.ptbase c.dst (tripleBytes t)).memberWrite c.asid c.ptbase c.stat
        (statusRecord w result.root.present)
      .next ((u.closeCollective result.key w).dropRoots c.cid)

/-- COLLECTIVE_MEMBER_TIMEOUT: STAT gets TIMEOUT and a zero bitmap, and DST stays. -/
def execCollectiveMemberTimeout (key : CollKey) (s : State) : Out :=
  match s.collective key with
  | none => s.stall
  | some c =>
    if c.status.isSome || !s.tooLate c || s.memberHeld c.ptbase c.stat 64 then s.stall
    else
      let w := statusWord 3 0
      .next (((s.memberWrite c.asid c.ptbase c.stat (statusRecord w [])).closeCollective key w).dropRoots c.cid)

/-! ### RCOMB (R389) -/

/-- NR and LEN of a descriptor. -/
def rcombNr (d : Vector Word 8) : Nat := d[4].toNat / 2 ^ 16 % 2 ^ 9
/-- LEN. -/
def rcombLen (d : Vector Word 8) : Nat := d[4].toNat % 2 ^ 16

/-- The first bad doubleword of an RCOMB descriptor, with its RANKS read; the ranks of an NR out of range name no tree
and are not judged. -/
def State.rcombBad (s : State) (d : Vector Word 8) (ranks : List Byte) : Option Nat :=
  if d[2].toNat % 64 ≠ 0 then some 2
  else if rcombNr d ≤ 255 ∧ (ranks.eraseDups.length ≠ ranks.length ∨ !ranks.contains s.fabric.ident) then some 3
  else if d[4].toNat / 2 ^ 25 % 2 ^ 7 ≠ 0 ∨ 255 < rcombNr d ∨ 16384 < rcombLen d then some 4
  else if d[5].toNat / 4 ≠ 0 then some 5
  else if d[6] ≠ 0 then some 6
  else if d[7] ≠ 0 then some 7
  else none

/-- The key of a tag of the executing hart. -/
def State.tagKey (s : State) (tag : Nat) : CollKey :=
  { launch := s.me.launch, rank := s.me.rank, tag := BitVec.ofNat 2 tag }

/-- A binary32 of source bytes. -/
def sourceWord (bs : List Byte) (i : Nat) : BitVec 32 := BitVec.ofNat 32 (leNat ((bs.drop (4 * i)).take 4))

/-- The triple of source bytes. -/
def tripleOf (bs : List Byte) (len : Nat) : Triple :=
  { m := sourceWord bs 0, s := sourceWord bs 1, v := (List.range len).map (fun i => sourceWord bs (2 + i)) }

/-- Nodes of this router that hold this module's input of an earlier collective of a CID are no longer kept (R9, log 62). -/
def State.dropOwn (s : State) (cid : BitVec 32) (r : Nat) : State :=
  { s with nodes := s.nodes.filter (fun n => !(n.cid == cid && n.inputs.any (fun x => x.present.contains r))) }

/-- The collective starts: its state stands on the base die, and its input goes to the routers. -/
def State.startCollective (s : State) (d : Vector Word 8) (ranks : List Byte) (t : Option Triple) : Out :=
  let cid : BitVec 32 := d[4].extractLsb' 32 32
  let c : Collective :=
    { key := s.tagKey (d[5].toNat % 4), cid := cid, nr := rcombNr d, len := rcombLen d, ranks := ranks, dst := d[1],
      stat := d[2], asid := s.me.asid, ptbase := s.me.ptbase, issuedAt := s.baseClock, own := t, status := none }
  let r := s.rankIn ranks
  let inp : CollInput :=
    { cid := cid, nr := rcombNr d, len := rcombLen d, ranks := ranks, level := 0, index := r, present := [r], triple := t }
  let u := (s.endRemote.dropRoots cid).dropOwn cid r
  ({ u with collectives := u.collectives ++ [c] }.forward treeFuel inp).done

/-- The descriptor and RANKS are known: the checks of R386, then the source is read. -/
def State.rcombRun (s : State) (d : Vector Word 8) (ranks : List Byte) : Out :=
  match s.rcombBad d ranks with
  | some i => s.trap Cause.fabDesc (BitVec.ofNat 64 i)
  | none =>
    match ranks.find? (fun m => !s.reachable m) with
    | some m => s.trap Cause.fabModule (m.setWidth 64)
    | none =>
      if (s.collective (s.tagKey (d[5].toNat % 4))).isSome then s.trap Cause.fabDesc 8
      else if d[0] = 0 then s.startCollective d ranks none
      else s.loadRun d[0] (8 + 4 * rcombLen d) (fun t bs => t.startCollective d ranks (some (tripleOf bs (rcombLen d))))

/-- RCOMB. -/
def execRcomb (a : Reg) (s : State) : Out :=
  s.fabDesc (packR 0x37 0 a 0 2) a (fun t d => t.loadRun d[3] (rcombNr d + 1) (fun u ranks => u.rcombRun d ranks))

/-! ### RWAIT (R391) -/

/-- An RWAIT that has issued: 0 when no collective is in flight on the tag; STAT doubleword 0 once it is written, and the tag
is free. -/
def State.rwait (s : State) (d a : Reg) : Out :=
  let key := s.tagKey ((s.me.xr a).toNat % 4)
  match s.collective key with
  | none => s.finish (fun h => { h with status := .running }.setX d 0)
  | some c =>
    match c.status with
    | some w =>
      { s with collectives := s.collectives.filter (fun c => c.key != key) }.finish (fun h =>
        { h with status := .running }.setX d w)
    | none => s.waitIn (.rwait d a)

/-- RWAIT: its issue is a release at .s (R386). -/
def execRwait (d a : Reg) (s : State) : Out := if s.quiet s.cur then s.rwait d a else s.waitQuiet

/-- RWAIT_RETURN. -/
def execRwaitReturn (h : HartId) (s : State) : Out :=
  let x := s.hart h
  match x.status with
  | .blocked (.rwait d a) =>
    match s.collective { launch := x.launch, rank := x.rank, tag := BitVec.ofNat 2 (x.xr a).toNat } with
    | some c => if c.status.isSome then s.asHart h (fun t => t.rwait d a) else s.stall
    | none => s.stall
  | _ => s.stall

end Sys2Proof.Machine
end

