-- ==== Sys2Proof/Machine/Activity.lean ====
section
/-! DEFINITION. The activity estimate of a core (R398): the bit-steps that an instruction spends on its element groups
(Tables 4.7, 5.7 and 6.9, R124, R125), and the lanes that performed them for active elements. -/

namespace Sys2Proof.Machine

/-- nb of R125 for a multiplication on element group g: the planes of a vector b that hold a 1 in some lane of the group,
or the 1 bits of a scalar or immediate b. -/
def Hart.planesUsed (h : Hart) (b : BSrc) (g : Nat) : Nat :=
  match b with
  | .vec n => ((List.range h.vt.wb).filter (fun p => (List.range' (1024 * g) 1024).any (fun i => h.bit n p i))).length
  | .scalar r => countOnes (lowBits (h.xr r) h.vt.wb) h.vt.wb
  | .imm v => countOnes (lowBits (immWord v) h.vt.wb) h.vt.wb

/-- The bit-steps of a shift on an element group (Table 4.7). -/
def Hart.shiftSteps (h : Hart) (b : BSrc) : Nat :=
  match b with
  | .vec _ => h.vt.wd * min h.vt.wb 7
  | _ => h.vt.wd

/-- The bit-steps of vrsh on an element group. -/
def Hart.roundSteps (h : Hart) (b : BSrc) : Nat :=
  match b with
  | .vec _ => h.vt.wd * min h.vt.wb 7
  | _ => h.vt.wd + 1

/-- What an instruction spends in the lane clusters: its bit-steps on element group g, and the mask field whose elements
are active; none for an instruction of another unit. -/
def Hart.bitSteps (h : Hart) (g : Nat) : Instr → Option (Nat × KReg)
  | .vand _ _ _ m | .vor _ _ _ m | .vxor _ _ _ m | .vmv _ _ m | .vid _ m => some (h.vt.wd, m)
  | .vmerge _ _ _ _ => some (h.vt.wd, 0)
  | .vadd _ _ _ m | .vsub _ _ _ m | .vrsub _ _ _ m => some (h.vt.wd + (if h.vt.sat then 1 else 0), m)
  | .vmin _ _ _ m | .vmax _ _ _ m | .vminu _ _ _ m | .vmaxu _ _ _ m => some (max h.vt.wa h.vt.wb + h.vt.wd, m)
  | .vsll _ _ b m | .vsrl _ _ b m | .vsra _ _ b m => some (h.shiftSteps b, m)
  | .vrsh _ _ b m => some (h.roundSteps b, m)
  | .vmul _ _ b m => some (max 1 (h.vt.wa * h.planesUsed b g), m)
  | .vmulh _ _ b m | .vmulq _ _ b m | .vmac _ _ b m => some (h.vt.wa * h.planesUsed b g + h.vt.wd, m)
  | .vsat _ _ m | .vabs _ _ m | .vplanes _ _ _ _ m => some (h.vt.wa + h.vt.wd, m)
  | .vcmpeq _ _ _ m | .vcmpne _ _ _ m | .vcmplt _ _ _ m | .vcmple _ _ _ m | .vcmpltu _ _ _ m | .vcmpleu _ _ _ m =>
    some (max h.vt.wa h.vt.wb + 1, m)
  | .kand _ _ _ | .kor _ _ _ | .kxor _ _ _ | .kandn _ _ _ | .knot _ _ | .kmov _ _ | .kset _ _ => some (1, 0)
  | .kpopc _ _ m | .kfirst _ _ m => some (1, m)
  | .vslideup _ _ _ m | .vslidedn _ _ _ m | .vbcast _ _ _ m => some (h.vt.wd + 2, m)
  | .vprefpop _ _ m => some (h.vt.wd + 11, m)
  | .vredsum _ _ _ m | .vredmax _ _ _ m | .vredmin _ _ _ m | .vredmaxu _ _ _ m | .vredminu _ _ _ m | .vredand _ _ _ m
  | .vredor _ _ _ m => some (h.vt.wa + 10, m)
  | .vscan _ _ _ m | .vscanSeg _ _ _ m => some ((h.vt.wd + 1) * levelsOf h.vl.toNat, m)
  | _ => none

/-- The lanes that perform a bit-step of an instruction for an active element, summed over its bit-steps (R398). -/
def Hart.laneWork (h : Hart) (i : Instr) : Nat :=
  ((List.range (min 32 (progOf h.vl))).map (fun g =>
    match h.bitSteps g i with
    | none => 0
    | some (n, m) =>
      n * ((List.range' (1024 * g) 1024).filter (fun e => (h.inBody e).isSome && h.active m e)).length)).sum

/-- Whether the instruction that hart h executed from state s has completed in t: the hart runs on, and took no trap. -/
def State.completedFrom (t s : State) (h : HartId) : Bool :=
  (t.hart h).status == .running && (t.hart h).inh == (s.hart h).inh

/-- The lane work of an instruction that has completed is counted in the clock of its issue (log 5); counts of the last
65,536 clocks are kept. -/
def State.noteWork (t s : State) (i : Instr) : State :=
  let n := s.me.laneWork i
  if n = 0 || !t.completedFrom s s.cur then t
  else
    t.modCore (coreOf s.cur) (fun c => { c with
      work := (c.cycle.toNat, n) :: c.work.filter (fun w => decide (c.cycle.toNat < w.1 + 65536)) })

/-- ACT: the mean over the last 65,536 clocks, at most 32,768 (R398, Table 17.3). -/
def Core.act (c : Core) : Nat :=
  min 32768 (((c.work.filter (fun w => decide (c.cycle.toNat < w.1 + 65536))).map (fun w => w.2)).sum / 65536)

end Sys2Proof.Machine
end

