-- ==== Sys2Proof/Machine/Trust.lean ====
section
/-! DEFINITION. What the Umawyn trust engine computes (R400, R401): SHA-384, ECDSA on brainpoolP384r1, and the big-endian
octet strings of scalars and coordinates. The manual names the algorithms; their steps are those of FIPS 180-4, FIPS 186
and RFC 5639 (log 4). -/

namespace Sys2Proof.Machine

/-! ### Octet strings (R401) -/

/-- A scalar or coordinate as n big-endian octets. -/
def beBytes (n x : Nat) : List Byte := (leBytes n x).reverse
/-- The number that big-endian octets give. -/
def beNat (l : List Byte) : Nat := leNat l.reverse

/-! ### SHA-384 -/

/-- The 80 round constants. -/
def shaConstants : List Word :=
    [0x428A2F98D728AE22, 0x7137449123EF65CD, 0xB5C0FBCFEC4D3B2F, 0xE9B5DBA58189DBBC, 0x3956C25BF348B538,
    0x59F111F1B605D019, 0x923F82A4AF194F9B, 0xAB1C5ED5DA6D8118, 0xD807AA98A3030242, 0x12835B0145706FBE,
    0x243185BE4EE4B28C, 0x550C7DC3D5FFB4E2, 0x72BE5D74F27B896F, 0x80DEB1FE3B1696B1, 0x9BDC06A725C71235,
    0xC19BF174CF692694, 0xE49B69C19EF14AD2, 0xEFBE4786384F25E3, 0x0FC19DC68B8CD5B5, 0x240CA1CC77AC9C65] ++
    [0x2DE92C6F592B0275, 0x4A7484AA6EA6E483, 0x5CB0A9DCBD41FBD4, 0x76F988DA831153B5, 0x983E5152EE66DFAB,
    0xA831C66D2DB43210, 0xB00327C898FB213F, 0xBF597FC7BEEF0EE4, 0xC6E00BF33DA88FC2, 0xD5A79147930AA725,
    0x06CA6351E003826F, 0x142929670A0E6E70, 0x27B70A8546D22FFC, 0x2E1B21385C26C926, 0x4D2C6DFC5AC42AED,
    0x53380D139D95B3DF, 0x650A73548BAF63DE, 0x766A0ABB3C77B2A8, 0x81C2C92E47EDAEE6, 0x92722C851482353B] ++
    [0xA2BFE8A14CF10364, 0xA81A664BBC423001, 0xC24B8B70D0F89791, 0xC76C51A30654BE30, 0xD192E819D6EF5218,
    0xD69906245565A910, 0xF40E35855771202A, 0x106AA07032BBD1B8, 0x19A4C116B8D2D0C8, 0x1E376C085141AB53,
    0x2748774CDF8EEB99, 0x34B0BCB5E19B48A8, 0x391C0CB3C5C95A63, 0x4ED8AA4AE3418ACB, 0x5B9CCA4F7763E373,
    0x682E6FF3D6B2B8A3, 0x748F82EE5DEFB2FC, 0x78A5636F43172F60, 0x84C87814A1F0AB72, 0x8CC702081A6439EC] ++
    [0x90BEFFFA23631E28, 0xA4506CEBDE82BDE9, 0xBEF9A3F7B2C67915, 0xC67178F2E372532B, 0xCA273ECEEA26619C,
    0xD186B8C721C0C207, 0xEADA7DD6CDE0EB1E, 0xF57D4F7FEE6ED178, 0x06F067AA72176FBA, 0x0A637DC5A2C898A6,
    0x113F9804BEF90DAE, 0x1B710B35131C471B, 0x28DB77F523047D84, 0x32CAAB7B40C72493, 0x3C9EBE0A15C9BEBC,
    0x431D67C49C100D4C, 0x4CC5D4BECB3E42B6, 0x597F299CFC657E2A, 0x5FCB6FAB3AD6FAEC, 0x6C44198C4A475817]

/-- The eight words that a digest starts from. -/
def shaStart : Vector Word 8 :=
  #v[0xCBBB9D5DC1059ED8, 0x629A292A367CD507, 0x9159015A3070DD17, 0x152FECD8F70E5939, 0x67332667FFC00B31,
  0x8EB44A8768581511, 0xDB0C2E0D64F98FA7, 0x47B5481DBEFA4FA4]

/-- The message schedule's words mixed into a later one. -/
def shaSmall0 (x : Word) : Word := x.rotateRight 1 ^^^ x.rotateRight 8 ^^^ x >>> 7
/-- The same for the second of them. -/
def shaSmall1 (x : Word) : Word := x.rotateRight 19 ^^^ x.rotateRight 61 ^^^ x >>> 6

/-- One round with its constant and schedule word. -/
def shaRound (h : Vector Word 8) (k w : Word) : Vector Word 8 :=
  let e := h[4]
  let a := h[0]
  let t1 := h[7] + (e.rotateRight 14 ^^^ e.rotateRight 18 ^^^ e.rotateRight 41) + ((e &&& h[5]) ^^^ (~~~e &&& h[6])) + k + w
  let t2 := (a.rotateRight 28 ^^^ a.rotateRight 34 ^^^ a.rotateRight 39) +
    ((a &&& h[1]) ^^^ (a &&& h[2]) ^^^ (h[1] &&& h[2]))
  #v[t1 + t2, a, h[1], h[2], h[3] + t1, e, h[5], h[6]]

/-- The rounds of a block; `w` holds the next sixteen schedule words. -/
def shaRounds : List Word → List Word → Vector Word 8 → Vector Word 8
  | [], _, h => h
  | k :: ks, w, h =>
    let next := shaSmall1 (w.getD 14 0) + w.getD 9 0 + shaSmall0 (w.getD 1 0) + w.getD 0 0
    shaRounds ks (w.drop 1 ++ [next]) (shaRound h k (w.getD 0 0))

/-- The sixteen words of a block of 128 bytes. -/
def shaWords (block : List Byte) : List Word :=
  (List.range 16).map (fun i => BitVec.ofNat 64 (beNat ((block.drop (8 * i)).take 8)))

/-- A block enters the digest. -/
def shaBlock (h : Vector Word 8) (block : List Byte) : Vector Word 8 :=
  let r := shaRounds shaConstants (shaWords block) h
  Vector.ofFn (fun i => h.get i + r.get i)

/-- n blocks enter the digest. -/
def shaBlocks : Nat → Vector Word 8 → List Byte → Vector Word 8
  | 0, h, _ => h
  | n + 1, h, l => shaBlocks n (shaBlock h (l.take 128)) (l.drop 128)

/-- A message filled to whole blocks, its length in bits at the end. -/
def shaPad (m : List Byte) : List Byte :=
  m ++ (0x80 : Byte) :: List.replicate ((239 - m.length % 128) % 128) 0 ++ beBytes 16 (8 * m.length)

/-- SHA-384: 48 bytes. -/
def sha384 (m : List Byte) : List Byte :=
  let p := shaPad m
  ((shaBlocks (p.length / 128) shaStart p).toList.take 6).flatMap (fun w => beBytes 8 w.toNat)

/-! ### brainpoolP384r1 -/

/-- The prime of the field. -/
def curveP : Nat := 0x8CB91E82A3386D280F5D6F7E50E641DF152F7109ED5456B412B1DA197FB71123ACD3A729901D1A71874700133107EC53
/-- The coefficient A of y² = x³ + A·x + B. -/
def curveA : Nat := 0x7BC382C63D8C150C3C72080ACE05AFA0C2BEA28E4FB22787139165EFBA91F90F8AA5814A503AD4EB04A8C7DD22CE2826
/-- The order of the base point. -/
def curveN : Nat := 0x8CB91E82A3386D280F5D6F7E50E641DF152F7109ED5456B31F166E6CAC0425A7CF3AB6AF6B7FC3103B883202E9046565

/-- A point: none at infinity, else its coordinates. -/
abbrev CurvePoint := Option (Nat × Nat)

/-- The base point. -/
def curveG : CurvePoint :=
  some (0x1D1C64F068CF45FFA2A63A81B7C13F6B8847A3E77EF14FE3DB7FCAFE0CBD10E8E826E03436D646AAEF87B2E247D4AF1E,
    0x8ABE1D7520F9C2A45CB1EB8E95CFD55262B70B29FEEC5864E19C054FF99129280E4646217791811142820341263C5315)

/-- b^e mod m for an e below 2^n. -/
def powMod (m b : Nat) : Nat → Nat → Nat
  | 0, _ => 1
  | n + 1, e =>
    let r := powMod m (b * b % m) n (e / 2)
    if e % 2 = 1 then b * r % m else r

/-- The inverse modulo a prime of 384 bits. -/
def invMod (m x : Nat) : Nat := powMod m (x % m) 384 (m - 2)

/-- The sum of two points. -/
def pointAdd (a b : CurvePoint) : CurvePoint :=
  match a, b with
  | none, q => q
  | some q, none => some q
  | some (x1, y1), some (x2, y2) =>
    if x1 = x2 ∧ (y1 + y2) % curveP = 0 then none
    else
      let num := if x1 = x2 then 3 * x1 * x1 + curveA else y2 + (curveP - y1)
      let den := if x1 = x2 then 2 * y1 else x2 + (curveP - x1)
      let l := num * invMod curveP den % curveP
      let x3 := (l * l + (curveP - x1) + (curveP - x2)) % curveP
      some (x3, (l * (x1 + (curveP - x3)) + (curveP - y1)) % curveP)

/-- k · q for a k below 2^n. -/
def pointMul (q : CurvePoint) : Nat → Nat → CurvePoint
  | 0, _ => none
  | n + 1, k =>
    let r := pointMul (pointAdd q q) n (k / 2)
    if k % 2 = 1 then pointAdd q r else r

/-! ### ECDSA -/

/-- A public key or a signature: two numbers of 48 octets each (R401). -/
def octetPair (l : List Byte) : Nat × Nat := (beNat (l.take 48), beNat ((l.drop 48).take 48))

/-- The number that ECDSA takes from a digest of 384 bits. -/
def digestNat (m : List Byte) : Nat := beNat (sha384 m)

/-- A signature of a message verifies against a public key. -/
def verifies (key : List Byte) (m sig : List Byte) : Bool :=
  let (r, s) := octetPair sig
  let w := invMod curveN s
  let p := pointAdd (pointMul curveG 384 (digestNat m * w % curveN)) (pointMul (some (octetPair key)) 384 (r * w % curveN))
  decide (0 < r ∧ r < curveN ∧ 0 < s ∧ s < curveN) && (match p with
    | none => false
    | some (x, _) => x % curveN == r)

/-- The signature of a message under a private key with the secret number k (FIPS 186): r and s as octets. -/
def signs (d k : Nat) (m : List Byte) : List Byte :=
  let r := match pointMul curveG 384 k with
    | none => 0
    | some (x, _) => x % curveN
  beBytes 48 r ++ beBytes 48 (invMod curveN k * (digestNat m + r * d) % curveN)

end Sys2Proof.Machine
end

