-- ==== Sys2Proof/Machine/Power.lean ====
section
/-! DEFINITION. Bring-up (R393 to R395), the clock steps (R397), the management status word (Table 17.3), and the Umawyn
trust engine (R400 to R402). -/

namespace Sys2Proof.Machine

/-! ### Power-on and power loss -/

/-- A firmware bank is valid: its signature over header and body verifies against the vendor key, and its SVN is at least
the fused minimum (R400). -/
def bankValid (image : List Byte) : Bool :=
  verifies Config.vendorKey (Config.signedPart image) (Config.signaturePart image) && decide (Config.fusedSvn.toNat ≤ (Config.imageSvn image).toNat)

/-- The bank Umawyn takes: the one the marker names, else the other, when valid (R400). -/
def Flash.choose (f : Flash) : Option (Fin 2) :=
  if bankValid (f.banks.get f.marker) then some f.marker
  else if bankValid (f.banks.get (1 - f.marker)) then some (1 - f.marker)
  else none

/-- The module with nothing but its flash: every other state at reset; what the model adds runs on (R402). -/
def State.bare (s : State) : State :=
  { State.reset with part := s.part, flash := s.flash, agenda := s.agenda, tick := s.tick, group := s.group }

/-- The module after power-on reached a step of Table 17.1. -/
def State.poweredTo (s : State) (bank : Fin 2) (stage : BitVec 5) (memErr base : Bool) : State :=
  { s.bare with
    flash := { s.flash with marker := bank }
    mgmt := { Management.initial with powered := true, memErr := memErr, base := base, stage := stage, bank := bank } }

/-- POWER_ON: the steps of Table 17.1 up to base die ready; `stop` is a step, 2 to 4, that fails. -/
def execPowerOn (stop : Nat) (s : State) : Out :=
  if s.mgmt.powered then s.stall
  else
    match s.flash.choose with
    | none => .next { s.bare with mgmt := { Management.initial with powered := true, recov := true, stage := 1 } }
    | some b =>
      match stop with
      | 2 => .next (s.poweredTo b 2 false false)
      | 3 => .next (s.poweredTo b 3 true false)
      | 4 => .next (s.poweredTo b 4 true false)
      | _ => .next (s.poweredTo b 5 false true)

/-- POWER_LOSS: all activity ends; the flash keeps its banks and its marker (R402). -/
def execPowerLoss (s : State) : Out := .next s.bare

/-! ### Chiplets (R394, R395) -/

/-- A core that joins: empty, with cycle 0 and the clock step of PROVISIONAL service; its local memories are zero. -/
def State.joinCore (s : State) (c : CoreId) : State :=
  (s.clearLocal c).setCore c { Core.initial with clockStep := 8, temp := (s.core c).temp }

/-- Chiplets join in the order 0, 1, …: no lower one of the part is still OFF (Table 17.1, step 6). -/
def State.joinsNext (s : State) (c : ChipletId) : Bool :=
  (List.finRange 8).all (fun k : ChipletId => decide (c.val ≤ k.val) || !s.present k || (s.chiplet k).st != .off)

/-- CHIPLET_JOIN: a chiplet whose link and lane self-test passes enters PROVISIONAL service under its current
generation; one whose test fails stays FENCED with reason 0x64 (Table 17.1, step 6). -/
def execChipletJoin (c : ChipletId) (pass : Bool) (s : State) : Out :=
  let st := (s.chiplet c).st
  if !s.mgmt.base || !s.present c || !(st == .fenced || (st == .off && s.joinsNext c)) then s.stall
  else
    let s := { s with mgmt := { s.mgmt with stage := 6 } }
    if pass then
      let t := (coresOf c).foldl State.joinCore s
      let t := (hartsOf c).foldl (fun t h => t.modHart h Hart.vacant) t
      .next (t.modChiplet c (fun k => { k with st := .provisional, reports := [] }))
    else .next (s.modChiplet c (fun k => { k with st := .fenced, reason := 0x64 }))

/-- TILE_SELF_TEST: at a decision boundary of base camp, every 8 base clocks (R318), it moves a PROVISIONAL chiplet to
FULL service, and nothing else changes; a test that fails fences it (R395). -/
def execTileSelfTest (c : ChipletId) (pass : Bool) (s : State) : Out :=
  if (s.chiplet c).st ≠ .provisional then s.stall
  else if !pass then .next (s.fence c 0x64)
  else if s.baseClock % 8 = 0 then .next (s.modChiplet c (fun k => { k with st := .full }))
  else s.stall

/-! ### Clock steps (R397) -/

/-- The greatest clock step in a chiplet's service state. -/
def stepLimit (st : ChipletState) : Nat := if st = .provisional then 8 else 16

/-- A core's clock step may change: its chiplet is in service, and 2^16 clocks have passed since it last did. -/
def State.stepDue (s : State) (c : CoreId) : Bool :=
  s.inService (chipletOf c) && decide ((s.core c).stepAt + 2 ^ 16 ≤ (s.core c).cycle.toNat)

/-- A core's step becomes k at this cycle. -/
def Core.step (c : Core) (k : Nat) : Core := { c with clockStep := k, stepAt := c.cycle.toNat }

/-- CLOCK_STEP_DECREASE: the sensor reads above THI, or supply droop exceeds its limit. -/
def execClockStepDecrease (c : CoreId) (temp : Byte) (droop : Bool) (s : State) : Out :=
  if !s.present (chipletOf c) then s.stall
  else
    let t := s.readTemp c temp
    if t.stepDue c && (decide (95 < temp.toNat) || droop) then
      .next (t.modCore c (fun k => k.step (max 4 (k.clockStep - 1))))
    else .next t

/-- CLOCK_STEP_INCREASE: the sensor reads below TLO, and supply is within its limit. -/
def execClockStepIncrease (c : CoreId) (temp : Byte) (droop : Bool) (s : State) : Out :=
  if !s.present (chipletOf c) then s.stall
  else
    let t := s.readTemp c temp
    if t.stepDue c && decide (temp.toNat < 85) && !droop then
      .next (t.modCore c (fun k => k.step (min (stepLimit (t.chiplet (chipletOf c)).st) (k.clockStep + 1))))
    else .next t

/-! ### Management status (Table 17.3) -/

/-- The code of a chiplet state (Table 17.2). -/
def ChipletState.code : ChipletState → BitVec 2
  | .off => 0 | .fenced => 1 | .provisional => 2 | .full => 3

/-- MSTAT: a chiplet absent from the part reads OFF. -/
def State.mstat (s : State) : Word :=
  let m := s.mgmt
  let ch (c : ChipletId) : BitVec 2 := if s.present c then (s.chiplet c).st.code else 0
  (0 : BitVec 40) ++ boolBit m.recov ++ boolBit m.memErr ++ boolBit m.base ++ m.stage ++ ch 7 ++ ch 6 ++ ch 5 ++ ch 4 ++
    ch 3 ++ ch 2 ++ ch 1 ++ ch 0

/-! ### The trust mailbox (R402, Table 17.6) -/

/-- The host port is up: step 2 of Table 17.1 has passed, or the module is in recovery. -/
def State.hostUp (s : State) : Bool := s.mgmt.recov || decide (3 ≤ s.mgmt.stage.toNat)

/-- The device memory window works: the stacks have trained. -/
def State.memoryUp (s : State) : Bool := s.mgmt.recov || decide (4 ≤ s.mgmt.stage.toNat)

/-- A CMD write with an op: while a command runs it is ignored and sets OVR; else the command starts. -/
def State.command (s : State) (op : Byte) (f : Mailbox → Mailbox) : State :=
  if s.mailbox.busy then { s with mailbox := { s.mailbox with ovr := true } }
  else { s with mailbox := f { s.mailbox with busy := true, op := op } }

/-- A command writes the buffer of 4096 bytes. -/
def Mailbox.output (m : Mailbox) (bytes : List Byte) : Mailbox :=
  { m with buf := bytes.take 4096, len := BitVec.ofNat 32 (min 4096 bytes.length) }

/-- A command op finishes at once as bad. -/
def State.badCommand (s : State) (op : Byte) : State :=
  if s.mailbox.busy then s.command op id
  else { s with mailbox := { s.mailbox with op := op, res := 2 } }.signal 18

/-- GETCERT: the certificate goes to BUF. In recovery only LOADFW is served. -/
def execGetcert (s : State) : Out :=
  if !s.hostUp then s.stall
  else if s.mgmt.recov then .next (s.badCommand 1)
  else .next (s.command 1 (fun m => m.output Config.certificate))

/-- The image of the bank in use. -/
def State.running (s : State) : List Byte := s.flash.banks.get s.mgmt.bank

/-- The signed part of an attestation report (Table 17.7). -/
def State.reportBody (s : State) : List Byte :=
  let img := s.running
  leBytes 8 (featWord s.part).toNat ++
    leBytes 8 ((Config.imageFwver img).toNat * 2 ^ 32 + (Config.imageSvn img).toNat * 2 ^ 16) ++
    sha384 img ++ s.mailbox.nonce.toList ++ leBytes 8 s.mstat.toNat ++
    leBytes 8 s.fabric.ident.toNat

/-- ATTEST: the report, with MSTAT and FABID as at the command's start, and its signature. -/
def execAttest (s : State) : Out :=
  if !s.hostUp then s.stall
  else if s.mgmt.recov then .next (s.badCommand 2)
  else
    let body := s.reportBody
    .next (s.command 2 (fun m => m.output (body ++ signs Config.identityKey (Config.signatureSecret body) body)))

/-- Bytes of device memory, as the host would read them: none beyond its end, or when a line has bad data. -/
def State.hostBytes (s : State) (off n : Nat) : Option (List Byte) :=
  if Config.memBytes s.part < off + n ∨
      s.badLines.any (fun b => decide (off < b.line * 128 + 128) && decide (b.line * 128 < off + n)) then none
  else some ((List.range n).map (fun i => memGet s.mem (off + i)))

/-- The image LOADFW names, when it is good: at most 16 MiB, readable, verified (R400). -/
def State.newImage (s : State) : Option (List Byte) :=
  if 2 ^ 24 < s.mailbox.arg1.toNat then none
  else
    match s.hostBytes s.mailbox.arg0.toNat s.mailbox.arg1.toNat with
    | some img => if bankValid img then some img else none
    | none => none

/-- The bank not in use; in recovery, the one the marker does not name. -/
def State.spareBank (s : State) : Fin 2 := if s.mgmt.recov then 1 - s.flash.marker else 1 - s.mgmt.bank

/-- LOADFW: the command starts; its image is read, verified and written before it completes. -/
def execLoadfw (s : State) : Out := if s.hostUp then .next (s.command 3 id) else s.stall

/-- How a running command ends, with RES: a good image of LOADFW is written to the bank not in use and then named by the
marker, and a refused one changes neither (R402, log 70). -/
def State.endCommand (s : State) : State × Byte :=
  if s.mailbox.op ≠ 3 then (s, 0)
  else
    match s.newImage with
    | none => (s, 1)
    | some img =>
      let b := s.spareBank
      ({ s with flash := { banks := s.flash.banks.set b.val img b.isLt, marker := b } }, 0)

/-- MAILBOX_BAD_COMMAND: an op that is no command finishes at once with RES = 2. -/
def execMailboxBadCommand (op : Byte) (s : State) : Out :=
  if s.hostUp && !decide (1 ≤ op.toNat ∧ op.toNat ≤ 3) then .next (s.badCommand op) else s.stall

/-- MAILBOX_COMMAND_COMPLETE: BUSY clears, RES says how the command ended, and vector 18 is signalled; the image of a
LOADFW is read at its home once none of its lines is locked (R241, R252). -/
def execMailboxCommandComplete (s : State) : Out :=
  let m := s.mailbox
  if !m.busy || (m.op == 3 && s.rangeHeld m.arg0.toNat m.arg1.toNat) then s.stall
  else
    match s.endCommand with
    | (t, res) => .next ({ t with mailbox := { m with busy := false, res := res } }.signal 18)

end Sys2Proof.Machine
end

