-- ==== Sys2Proof/Machine/HostPort.lean ====
section
/-! DEFINITION. The host port (R378 to R382): the device memory window, and the registers of the control BAR (Tables
16.1, 16.2, 17.3 and 17.6) as the host reads and writes them. -/

namespace Sys2Proof.Machine

/-! ### The device memory window (R380, R241, R346) -/

/-- HOST_MEMORY_WRITE: bytes at an offset of global memory; a request that reaches beyond its end is dropped whole. -/
def execHostMemoryWrite (off : Nat) (bytes : List Byte) (s : State) : Out :=
  if !s.memoryUp || s.rangeHeld off bytes.length then s.stall
  else if Config.memBytes s.part < off + bytes.length then .next s
  else .next (s.home (writesAt off bytes))

/-- The first line of a range with uncorrectable data. -/
def State.badLineIn (s : State) (off n : Nat) : Option Nat :=
  (List.range (n / 128 + 2)).findSome? (fun i =>
    let line := off / 128 + i
    if line * 128 < off + n ∧ s.badLines.any (fun b => b.line == line) then some line else none)

/-- The host's read of n bytes ends in a reply. -/
def State.replyHost (s : State) (r : HostReply) : State := { s with hostReplies := s.hostReplies ++ [r] }

/-- HOST_MEMORY_READ: the bytes; Unsupported Request beyond the end of memory; Completer Abort, and an entry in the error
log, for uncorrectable data. -/
def execHostMemoryRead (off n : Nat) (s : State) : Out :=
  if !s.memoryUp || s.rangeHeld off n then s.stall
  else if Config.memBytes s.part < off + n then .next (s.replyHost .unsupported)
  else
    match s.badLineIn off n with
    | some line => .next ((s.replyHost .abort).logError 8 0 line)
    | none => .next (s.replyHost (.data ((List.range n).map (fun i => memGet s.mem (off + i)))))

/-! ### Reads of the control BAR -/

/-- FENCE as read: the chiplets of the part that are fenced. -/
def State.fenceMask (s : State) : Word :=
  BitVec.ofNat 64 (((List.finRange 8).map (fun c : ChipletId =>
    if s.present c && (s.chiplet c).st == .fenced then 2 ^ c.val else 0)).sum)

/-- FSTAT. -/
def Fabric.stat (f : Fabric) : Word := (0 : BitVec 46) ++ boolBit f.dup ++ boolBit f.done ++ f.up

/-- A route entry. -/
def routeWord (r : Option (BitVec 4)) : Word :=
  match r with
  | none => 0
  | some p => (0 : BitVec 56) ++ (8 : BitVec 4) ++ p

/-- FLOGP or ELOGP. -/
def LogRing.pointer (r : LogRing) : Word := (0 : BitVec 59) ++ boolBit r.ovf ++ r.next

/-- CACT of core c: a core absent from the part reads 0 (R25). -/
def State.cact (s : State) (c : CoreId) : Word :=
  let k := s.core c
  if s.present (chipletOf c) then
    (0 : BitVec 32) ++ BitVec.ofNat 16 k.act ++ (0 : BitVec 4) ++ BitVec.ofNat 4 (k.clockStep - 1) ++ k.temp
  else 0

/-- MBSTAT. -/
def Mailbox.stat (m : Mailbox) : Word := m.len ++ (0 : BitVec 22) ++ boolBit m.ovr ++ boolBit m.busy ++ m.res

/-- A doubleword of the mailbox: CMD reads 0. -/
def Mailbox.read (m : Mailbox) (off : Nat) : Word :=
  if off = 0x008 then m.stat
  else if off = 0x010 then m.arg0
  else if off = 0x018 then m.arg1.setWidth 64
  else if 0x040 ≤ off ∧ off < 0x060 then BitVec.ofNat 64 (leNat ((m.nonce.toList.drop (off - 0x040)).take 8))
  else if 0x100 ≤ off ∧ off < 0x1100 then BitVec.ofNat 64 (leNat (((m.buf.drop (off - 0x100)).take 8)))
  else 0

/-- A doubleword of the fabric registers; a part without ports has none (R12, Table 16.2). -/
def State.fabricWord (s : State) (off : Nat) : Word :=
  if !Config.hasFab s.part then 0
  else if off = 0x40000 then s.fabric.ident.setWidth 64
  else if off = 0x40008 then (boolBit s.fabric.en).setWidth 64
  else if off = 0x40010 then s.fabric.fto.setWidth 64
  else if off = 0x40018 then s.fabric.stat
  else if 0x41000 ≤ off ∧ off < 0x41800 then routeWord (s.fabric.routes.get (Fin.ofNat 256 ((off - 0x41000) / 8)))
  else 0

/-- A doubleword of the MSI-X table or its PBA (R378, R382, log 63). -/
def State.msixWord (s : State) (off : Nat) : Word :=
  if off = 0x301000 then s.msixPending.setWidth 64
  else if off < 0x300200 then
    let e := s.msixTable.get (Fin.ofNat 32 ((off - 0x300000) / 16))
    if off % 16 = 0 then e.addr else if off % 16 = 8 then (0 : BitVec 31) ++ boolBit e.masked ++ e.data else 0
  else 0

/-- A doubleword of the control BAR once the base die is ready (Tables 16.1, 16.2, 17.3). -/
def State.barWord (s : State) (off : Nat) : Word :=
  if off = 0x10000 then s.camp.astab
  else if off = 0x10008 then s.camp.drops.setWidth 64
  else if off = 0x20000 then s.fenceMask
  else if 0x30000 ≤ off ∧ off < 0x30200 then
    let a := s.apertures.get (Fin.ofNat 16 ((off - 0x30000) / 32))
    if off % 32 = 0 then a.hbase else if off % 32 = 8 then a.size.setWidth 64 else 0
  else if 0x40000 ≤ off ∧ off < 0x42000 then s.fabricWord off
  else if off = 0x100000 then s.mstat
  else if 0x100100 ≤ off ∧ off < 0x100200 then s.cact (Fin.ofNat 32 ((off - 0x100100) / 8))
  else if off = 0x100200 then (Config.milliwatts s.tick).setWidth 64
  else if 0x100400 ≤ off ∧ off < 0x100480 then s.mgmt.flog.entries.get (Fin.ofNat 16 ((off - 0x100400) / 8))
  else if off = 0x100480 then s.mgmt.flog.pointer
  else if 0x100500 ≤ off ∧ off < 0x100580 then s.mgmt.elog.entries.get (Fin.ofNat 16 ((off - 0x100500) / 8))
  else if off = 0x100580 then s.mgmt.elog.pointer
  else if 0x300000 ≤ off then s.msixWord off
  else 0

/-- The doubleword a host read of the control BAR returns: before the base die is ready, only the mailbox answers
(R393). -/
def State.barRead (s : State) (off : Nat) : Word :=
  if 0x200000 ≤ off ∧ off < 0x300000 then (if s.hostUp then s.mailbox.read (off - 0x200000) else 0)
  else if s.mgmt.base then s.barWord off
  else 0

/-! ### Writes of the control BAR -/

/-- 32 bytes of NONCE with the eight at an offset replaced. -/
def Mailbox.putNonce (m : Mailbox) (off : Nat) (v : Word) : Mailbox :=
  let bs := leBytes 8 v.toNat
  { m with nonce := Vector.ofFn (fun i : Fin 32 =>
      if off ≤ i.val ∧ i.val < off + 8 then bs.getD (i.val - off) 0 else m.nonce.get i) }

/-- A write of MBSTAT, ARG0, ARG1 or NONCE: OVR is RW1C, and arguments are ignored while BUSY = 1 (R402). -/
def Mailbox.put (m : Mailbox) (off : Nat) (v : Word) : Mailbox :=
  if off = 0x008 then { m with ovr := m.ovr && !v.getLsbD 9 }
  else if m.busy then m
  else if off = 0x010 then { m with arg0 := v }
  else if off = 0x018 then { m with arg1 := v.setWidth 32 }
  else if 0x040 ≤ off ∧ off < 0x060 ∧ off % 8 = 0 then m.putNonce (off - 0x040) v
  else m

/-- OVF of a log pointer is RW1C. -/
def LogRing.clear (r : LogRing) (v : Word) : LogRing := { r with ovf := r.ovf && !v.getLsbD 4 }

/-- A write of an aperture register (R381). -/
def State.putAperture (s : State) (off : Nat) (v : Word) : State :=
  let n : Fin 16 := Fin.ofNat 16 (off / 32)
  let a := s.apertures.get n
  let b : Aperture := if off % 32 = 0 then { a with hbase := v } else if off % 32 = 8 then { a with size := v.setWidth 8 } else a
  { s with apertures := s.apertures.set n.val b n.isLt }

/-- An entry of the MSI-X table as a write of a doubleword at its offset 0 or 8 leaves it: the two low bits of the address
and the vector control but for its mask bit stay 0 (log 63). -/
def MsixEntry.put (e : MsixEntry) (off : Nat) (v : Word) : MsixEntry :=
  if off % 16 = 0 then { e with addr := v &&& ~~~3 }
  else if off % 16 = 8 then { e with data := v.setWidth 32, masked := v.getLsbD 32 }
  else e

/-- A write of the MSI-X table: the message of a vector that is pending goes out once its entry is unmasked (R382). -/
def State.putMsix (s : State) (off : Nat) (v : Word) : State :=
  if 0x300200 ≤ off then s
  else
    let n : Fin 32 := Fin.ofNat 32 ((off - 0x300000) / 16)
    let t := { s with msixTable := s.msixTable.set n.val ((s.msixTable.get n).put off v) n.isLt }
    if t.msixPending.getLsbD n.val && !(t.msixTable.get n).masked then
      { t with msixPending := t.msixPending &&& ~~~BitVec.twoPow 32 n.val }.signal n.val
    else t

/-- A write of a register of the control BAR that has no behaviour of its own. -/
def State.barPut (s : State) (off : Nat) (v : Word) : State :=
  if off = 0x10000 then { s with camp := { s.camp with astab := v &&& 0x000FFFFFFFFFFFE0 } }
  else if off = 0x10008 then { s with camp := { s.camp with drops := s.camp.drops &&& ~~~(v.setWidth 32) } }
  else if 0x30000 ≤ off ∧ off < 0x30200 then s.putAperture (off - 0x30000) v
  else if off = 0x40000 then
    if Config.hasFab s.part then s.modFabric (fun f => if f.en then f else { f with ident := v.setWidth 8 }) else s
  else if off = 0x40010 then if Config.hasFab s.part then s.modFabric (fun f => { f with fto := v.setWidth 32 }) else s
  else if 0x300000 ≤ off then s.putMsix off v
  else if off = 0x100480 then { s with mgmt := { s.mgmt with flog := s.mgmt.flog.clear v } }
  else if off = 0x100580 then { s with mgmt := { s.mgmt with elog := s.mgmt.elog.clear v } }
  else s

/-- CONTROL_REGISTER_WRITE: the registers with a behaviour of their own act as their events do (PREEMPT, HSIG, FENCE,
FCTL and CMD); eight bytes written to an enqueue window are no record (R379); before the base die is ready only the
mailbox takes a write (R393). -/
def execControlRegisterWrite (off : Nat) (v : Word) (s : State) : Out :=
  if off < 0x10000 ∧ off % 0x1000 < 64 then
    execHostEnqueue (Fin.ofNat 16 (off / 0x1000)) (off % 0x1000) (leBytes 8 v.toNat) s
  else if off = 0x10010 then execHostPreempt v s
  else if off = 0x10018 then execHsig v s
  else if off = 0x20000 then execHostFence v s
  else if off = 0x40008 then execFabricEnable v s
  else if off = 0x200000 then
    match v.toNat % 256 with
    | 1 => execGetcert s
    | 2 => execAttest s
    | 3 => execLoadfw s
    | _ => execMailboxBadCommand (v.setWidth 8) s
  else if 0x200000 ≤ off ∧ off < 0x300000 then
    if s.hostUp then .next { s with mailbox := s.mailbox.put (off - 0x200000) v } else s.stall
  else if s.mgmt.base then .next (s.barPut off v)
  else s.stall

end Sys2Proof.Machine
end

