-- ==== Sys2Proof/Machine/Dispatch.lean ====
section
/-! DEFINITION. The meaning of each instruction and event: one arm for each row of spec/opcode_table.json. -/

namespace Sys2Proof.Machine

/-- What an instruction of the executing hart, or an event, does. -/
def exec (i : Instr) (s : State) : Host.Outcome State Fault Refusal :=
  match i with
  | .add d a b => Sys2Proof.Machine.execAdd d a b s
  | .sub d a b => Sys2Proof.Machine.execSub d a b s
  | .and d a b => Sys2Proof.Machine.execAnd d a b s
  | .or d a b => Sys2Proof.Machine.execOr d a b s
  | .xor d a b => Sys2Proof.Machine.execXor d a b s
  | .nor d a b => Sys2Proof.Machine.execNor d a b s
  | .sll d a b => Sys2Proof.Machine.execSll d a b s
  | .srl d a b => Sys2Proof.Machine.execSrl d a b s
  | .sra d a b => Sys2Proof.Machine.execSra d a b s
  | .rol d a b => Sys2Proof.Machine.execRol d a b s
  | .ror d a b => Sys2Proof.Machine.execRor d a b s
  | .slt d a b => Sys2Proof.Machine.execSlt d a b s
  | .sltu d a b => Sys2Proof.Machine.execSltu d a b s
  | .min d a b => Sys2Proof.Machine.execMin d a b s
  | .max d a b => Sys2Proof.Machine.execMax d a b s
  | .minu d a b => Sys2Proof.Machine.execMinu d a b s
  | .maxu d a b => Sys2Proof.Machine.execMaxu d a b s
  | .mul d a b => Sys2Proof.Machine.execMul d a b s
  | .mulh d a b => Sys2Proof.Machine.execMulh d a b s
  | .mulhu d a b => Sys2Proof.Machine.execMulhu d a b s
  | .div d a b => Sys2Proof.Machine.execDiv d a b s
  | .divu d a b => Sys2Proof.Machine.execDivu d a b s
  | .rem d a b => Sys2Proof.Machine.execRem d a b s
  | .remu d a b => Sys2Proof.Machine.execRemu d a b s
  | .clz d a => Sys2Proof.Machine.execClz d a s
  | .ctz d a => Sys2Proof.Machine.execCtz d a s
  | .popc d a => Sys2Proof.Machine.execPopc d a s
  | .bext d a b => Sys2Proof.Machine.execBext d a b s
  | .bins d a b => Sys2Proof.Machine.execBins d a b s
  | .addi d a imm => Sys2Proof.Machine.execAddi d a imm s
  | .andi d a imm => Sys2Proof.Machine.execAndi d a imm s
  | .ori d a imm => Sys2Proof.Machine.execOri d a imm s
  | .xori d a imm => Sys2Proof.Machine.execXori d a imm s
  | .slti d a imm => Sys2Proof.Machine.execSlti d a imm s
  | .sltiu d a imm => Sys2Proof.Machine.execSltiu d a imm s
  | .slli d a n => Sys2Proof.Machine.execSlli d a n s
  | .srli d a n => Sys2Proof.Machine.execSrli d a n s
  | .srai d a n => Sys2Proof.Machine.execSrai d a n s
  | .rori d a n => Sys2Proof.Machine.execRori d a n s
  | .li d sh imm => Sys2Proof.Machine.execLi d sh imm s
  | .lik d sh imm => Sys2Proof.Machine.execLik d sh imm s
  | .addpc d off => Sys2Proof.Machine.execAddpc d off s
  | .beq a b off => Sys2Proof.Machine.execBeq a b off s
  | .bne a b off => Sys2Proof.Machine.execBne a b off s
  | .blt a b off => Sys2Proof.Machine.execBlt a b off s
  | .bge a b off => Sys2Proof.Machine.execBge a b off s
  | .bltu a b off => Sys2Proof.Machine.execBltu a b off s
  | .bgeu a b off => Sys2Proof.Machine.execBgeu a b off s
  | .bmnone k off => Sys2Proof.Machine.execBmnone k off s
  | .bmany k off => Sys2Proof.Machine.execBmany k off s
  | .bmall k off => Sys2Proof.Machine.execBmall k off s
  | .jal d off => Sys2Proof.Machine.execJal d off s
  | .jalr d a imm => Sys2Proof.Machine.execJalr d a imm s
  | .loop a len => Sys2Proof.Machine.execLoop a len s
  | .ldb d a imm => Sys2Proof.Machine.execLdb d a imm s
  | .ldh d a imm => Sys2Proof.Machine.execLdh d a imm s
  | .ldw d a imm => Sys2Proof.Machine.execLdw d a imm s
  | .ldd d a imm => Sys2Proof.Machine.execLdd d a imm s
  | .ldbu d a imm => Sys2Proof.Machine.execLdbu d a imm s
  | .ldhu d a imm => Sys2Proof.Machine.execLdhu d a imm s
  | .ldwu d a imm => Sys2Proof.Machine.execLdwu d a imm s
  | .stb c a imm => Sys2Proof.Machine.execStb c a imm s
  | .sth c a imm => Sys2Proof.Machine.execSth c a imm s
  | .stw c a imm => Sys2Proof.Machine.execStw c a imm s
  | .std c a imm => Sys2Proof.Machine.execStd c a imm s
  | .flw d a imm => Sys2Proof.Machine.execFlw d a imm s
  | .fld d a imm => Sys2Proof.Machine.execFld d a imm s
  | .fsw c a imm => Sys2Proof.Machine.execFsw c a imm s
  | .fsd c a imm => Sys2Proof.Machine.execFsd c a imm s
  | .amoadd d a b aw sc o => Sys2Proof.Machine.execAmoadd d a b aw sc o s
  | .amoand d a b aw sc o => Sys2Proof.Machine.execAmoand d a b aw sc o s
  | .amoor d a b aw sc o => Sys2Proof.Machine.execAmoor d a b aw sc o s
  | .amoxor d a b aw sc o => Sys2Proof.Machine.execAmoxor d a b aw sc o s
  | .amomin d a b aw sc o => Sys2Proof.Machine.execAmomin d a b aw sc o s
  | .amomax d a b aw sc o => Sys2Proof.Machine.execAmomax d a b aw sc o s
  | .amominu d a b aw sc o => Sys2Proof.Machine.execAmominu d a b aw sc o s
  | .amomaxu d a b aw sc o => Sys2Proof.Machine.execAmomaxu d a b aw sc o s
  | .amoswap d a b aw sc o => Sys2Proof.Machine.execAmoswap d a b aw sc o s
  | .amocas d a b aw sc o => Sys2Proof.Machine.execAmocas d a b aw sc o s
  | .fadd d a b r p => Sys2Proof.Machine.execFadd d a b r p s
  | .fsub d a b r p => Sys2Proof.Machine.execFsub d a b r p s
  | .fmul d a b r p => Sys2Proof.Machine.execFmul d a b r p s
  | .fdiv d a b r p => Sys2Proof.Machine.execFdiv d a b r p s
  | .fsqrt d a r p => Sys2Proof.Machine.execFsqrt d a r p s
  | .ffma d a b r p => Sys2Proof.Machine.execFfma d a b r p s
  | .fmin d a b p => Sys2Proof.Machine.execFmin d a b p s
  | .fmax d a b p => Sys2Proof.Machine.execFmax d a b p s
  | .feq d a b p => Sys2Proof.Machine.execFeq d a b p s
  | .flt d a b p => Sys2Proof.Machine.execFlt d a b p s
  | .fle d a b p => Sys2Proof.Machine.execFle d a b p s
  | .fcvtFf d a r p => Sys2Proof.Machine.execFcvtFf d a r p s
  | .fcvtFL d a r p => Sys2Proof.Machine.execFcvtFL d a r p s
  | .fcvtFLu d a r p => Sys2Proof.Machine.execFcvtFLu d a r p s
  | .fcvtLF d a r p => Sys2Proof.Machine.execFcvtLF d a r p s
  | .fcvtLuF d a r p => Sys2Proof.Machine.execFcvtLuF d a r p s
  | .fmvxf d a p => Sys2Proof.Machine.execFmvxf d a p s
  | .fmvfx d a p => Sys2Proof.Machine.execFmvfx d a p s
  | .fclass d a p => Sys2Proof.Machine.execFclass d a p s
  | .trap n => Sys2Proof.Machine.execTrap n s
  | .tret => Sys2Proof.Machine.execTret s
  | .brk => Sys2Proof.Machine.execBrk s
  | .fence set sc => Sys2Proof.Machine.execFence set sc s
  | .fencei => Sys2Proof.Machine.execFencei s
  | .park => Sys2Proof.Machine.execPark s
  | .retire => Sys2Proof.Machine.execRetire s
  | .ctxs a => Sys2Proof.Machine.execCtxs a s
  | .ctxl a => Sys2Proof.Machine.execCtxl a s
  | .csrr d n => Sys2Proof.Machine.execCsrr d n s
  | .csrw a n => Sys2Proof.Machine.execCsrw a n s
  | .csrs a n => Sys2Proof.Machine.execCsrs a n s
  | .csrc a n => Sys2Proof.Machine.execCsrc a n s
  | .csrrw d a n => Sys2Proof.Machine.execCsrrw d a n s
  | .tcinvPage asid vpn => Sys2Proof.Machine.execTcinvPage asid vpn s
  | .tcinvAsid asid => Sys2Proof.Machine.execTcinvAsid asid s
  | .tcinvAll => Sys2Proof.Machine.execTcinvAll s
  | .tcinvNoAction => Sys2Proof.Machine.execTcinvNoAction s
  | .post a => Sys2Proof.Machine.execPost a s
  | .waitRope a => Sys2Proof.Machine.execWaitRope a s
  | .waitBarrier d a b => Sys2Proof.Machine.execWaitBarrier d a b s
  | .vwait a m => Sys2Proof.Machine.execVwait a m s
  | .bara d a b => Sys2Proof.Machine.execBara d a b s
  | .barw d a => Sys2Proof.Machine.execBarw d a s
  | .waitm d k b => Sys2Proof.Machine.execWaitm d k b s
  | .setvl d a b => Sys2Proof.Machine.execSetvl d a b s
  | .settype d a => Sys2Proof.Machine.execSettype d a s
  | .setfmt d a => Sys2Proof.Machine.execSetfmt d a s
  | .endstrip d => Sys2Proof.Machine.execEndstrip d s
  | .vadd d a b m => Sys2Proof.Machine.execVadd d a b m s
  | .vsub d a b m => Sys2Proof.Machine.execVsub d a b m s
  | .vrsub d a b m => Sys2Proof.Machine.execVrsub d a b m s
  | .vmul d a b m => Sys2Proof.Machine.execVmul d a b m s
  | .vmulh d a b m => Sys2Proof.Machine.execVmulh d a b m s
  | .vmac d a b m => Sys2Proof.Machine.execVmac d a b m s
  | .vmin d a b m => Sys2Proof.Machine.execVmin d a b m s
  | .vmax d a b m => Sys2Proof.Machine.execVmax d a b m s
  | .vminu d a b m => Sys2Proof.Machine.execVminu d a b m s
  | .vmaxu d a b m => Sys2Proof.Machine.execVmaxu d a b m s
  | .vand d a b m => Sys2Proof.Machine.execVand d a b m s
  | .vor d a b m => Sys2Proof.Machine.execVor d a b m s
  | .vxor d a b m => Sys2Proof.Machine.execVxor d a b m s
  | .vsll d a b m => Sys2Proof.Machine.execVsll d a b m s
  | .vsrl d a b m => Sys2Proof.Machine.execVsrl d a b m s
  | .vsra d a b m => Sys2Proof.Machine.execVsra d a b m s
  | .vrsh d a b m => Sys2Proof.Machine.execVrsh d a b m s
  | .vmulq d a b m => Sys2Proof.Machine.execVmulq d a b m s
  | .vsat d a m => Sys2Proof.Machine.execVsat d a m s
  | .vabs d a m => Sys2Proof.Machine.execVabs d a m s
  | .vmerge d a b m => Sys2Proof.Machine.execVmerge d a b m s
  | .vmv d b m => Sys2Proof.Machine.execVmv d b m s
  | .vid d m => Sys2Proof.Machine.execVid d m s
  | .vfadd d a b m => Sys2Proof.Machine.execVfadd d a b m s
  | .vfsub d a b m => Sys2Proof.Machine.execVfsub d a b m s
  | .vfmul d a b m => Sys2Proof.Machine.execVfmul d a b m s
  | .vfdiv d a b m => Sys2Proof.Machine.execVfdiv d a b m s
  | .vffma d a b m => Sys2Proof.Machine.execVffma d a b m s
  | .vfmin d a b m => Sys2Proof.Machine.execVfmin d a b m s
  | .vfmax d a b m => Sys2Proof.Machine.execVfmax d a b m s
  | .vfsqrt d a m => Sys2Proof.Machine.execVfsqrt d a m s
  | .vfexp2 d a m => Sys2Proof.Machine.execVfexp2 d a m s
  | .vfrcp d a m => Sys2Proof.Machine.execVfrcp d a m s
  | .vfabs d a m => Sys2Proof.Machine.execVfabs d a m s
  | .vfneg d a m => Sys2Proof.Machine.execVfneg d a m s
  | .vcmpeq d a b m => Sys2Proof.Machine.execVcmpeq d a b m s
  | .vcmpne d a b m => Sys2Proof.Machine.execVcmpne d a b m s
  | .vcmplt d a b m => Sys2Proof.Machine.execVcmplt d a b m s
  | .vcmple d a b m => Sys2Proof.Machine.execVcmple d a b m s
  | .vcmpltu d a b m => Sys2Proof.Machine.execVcmpltu d a b m s
  | .vcmpleu d a b m => Sys2Proof.Machine.execVcmpleu d a b m s
  | .vfcmpeq d a b m => Sys2Proof.Machine.execVfcmpeq d a b m s
  | .vfcmplt d a b m => Sys2Proof.Machine.execVfcmplt d a b m s
  | .vfcmple d a b m => Sys2Proof.Machine.execVfcmple d a b m s
  | .vfcmpuo d a b m => Sys2Proof.Machine.execVfcmpuo d a b m s
  | .kand d a b => Sys2Proof.Machine.execKand d a b s
  | .kor d a b => Sys2Proof.Machine.execKor d a b s
  | .kxor d a b => Sys2Proof.Machine.execKxor d a b s
  | .kandn d a b => Sys2Proof.Machine.execKandn d a b s
  | .knot d a => Sys2Proof.Machine.execKnot d a s
  | .kmov d a => Sys2Proof.Machine.execKmov d a s
  | .kpopc d a m => Sys2Proof.Machine.execKpopc d a m s
  | .kfirst d a m => Sys2Proof.Machine.execKfirst d a m s
  | .kset d a => Sys2Proof.Machine.execKset d a s
  | .vcompress d a m => Sys2Proof.Machine.execVcompress d a m s
  | .vexpand d a m => Sys2Proof.Machine.execVexpand d a m s
  | .vslideup d a b m => Sys2Proof.Machine.execVslideup d a b m s
  | .vslidedn d a b m => Sys2Proof.Machine.execVslidedn d a b m s
  | .vperm d a b m => Sys2Proof.Machine.execVperm d a b m s
  | .vprefpop d a m => Sys2Proof.Machine.execVprefpop d a m s
  | .vconflict d a m => Sys2Proof.Machine.execVconflict d a m s
  | .vbcast d a b m => Sys2Proof.Machine.execVbcast d a b m s
  | .vext d a b => Sys2Proof.Machine.execVext d a b s
  | .vins d a b m => Sys2Proof.Machine.execVins d a b m s
  | .vredsum d a b m => Sys2Proof.Machine.execVredsum d a b m s
  | .vredmax d a b m => Sys2Proof.Machine.execVredmax d a b m s
  | .vredmin d a b m => Sys2Proof.Machine.execVredmin d a b m s
  | .vredmaxu d a b m => Sys2Proof.Machine.execVredmaxu d a b m s
  | .vredminu d a b m => Sys2Proof.Machine.execVredminu d a b m s
  | .vredand d a b m => Sys2Proof.Machine.execVredand d a b m s
  | .vredor d a b m => Sys2Proof.Machine.execVredor d a b m s
  | .vfredsum d a b m => Sys2Proof.Machine.execVfredsum d a b m s
  | .vfredmax d a b m => Sys2Proof.Machine.execVfredmax d a b m s
  | .vfredmin d a b m => Sys2Proof.Machine.execVfredmin d a b m s
  | .vscan d a b m => Sys2Proof.Machine.execVscan d a b m s
  | .vscanSeg d a h m => Sys2Proof.Machine.execVscanSeg d a h m s
  | .vfscan d a b => Sys2Proof.Machine.execVfscan d a b s
  | .vfscanSeg d a h => Sys2Proof.Machine.execVfscanSeg d a h s
  | .rshsave a => Sys2Proof.Machine.execRshsave a s
  | .rshload a => Sys2Proof.Machine.execRshload a s
  | .vcvt d a b m => Sys2Proof.Machine.execVcvt d a b m s
  | .vquant d a b => Sys2Proof.Machine.execVquant d a b s
  | .vdeq d a b m => Sys2Proof.Machine.execVdeq d a b m s
  | .vplanes d a u p m => Sys2Proof.Machine.execVplanes d a u p m s
  | .vsetq q b => Sys2Proof.Machine.execVsetq q b s
  | .vqmvQv d a => Sys2Proof.Machine.execVqmvQv d a s
  | .vqmvVq d a => Sys2Proof.Machine.execVqmvVq d a s
  | .vld v a m => Sys2Proof.Machine.execVld v a m s
  | .vlds v a x m => Sys2Proof.Machine.execVlds v a x m s
  | .vldx v a x m => Sys2Proof.Machine.execVldx v a x m s
  | .vldff v a m => Sys2Proof.Machine.execVldff v a m s
  | .vldc v a x m => Sys2Proof.Machine.execVldc v a x m s
  | .vldp v a m p => Sys2Proof.Machine.execVldp v a m p s
  | .vst v a m => Sys2Proof.Machine.execVst v a m s
  | .vsts v a x m => Sys2Proof.Machine.execVsts v a x m s
  | .vstx v a x m => Sys2Proof.Machine.execVstx v a x m s
  | .vstxu v a x m => Sys2Proof.Machine.execVstxu v a x m s
  | .vamoadd v a x m nr => Sys2Proof.Machine.execVamoadd v a x m nr s
  | .vamomin v a x m nr => Sys2Proof.Machine.execVamomin v a x m nr s
  | .vamomax v a x m nr => Sys2Proof.Machine.execVamomax v a x m nr s
  | .vamoand v a x m nr => Sys2Proof.Machine.execVamoand v a x m nr s
  | .vamoor v a x m nr => Sys2Proof.Machine.execVamoor v a x m nr s
  | .vamoxor v a x m nr => Sys2Proof.Machine.execVamoxor v a x m nr s
  | .vamoswap v a x m nr => Sys2Proof.Machine.execVamoswap v a x m nr s
  | .qld q a imm => Sys2Proof.Machine.execQld q a imm s
  | .qst q a imm => Sys2Proof.Machine.execQst q a imm s
  | .kld k a imm => Sys2Proof.Machine.execKld k a imm s
  | .kst k a imm => Sys2Proof.Machine.execKst k a imm s
  | .mton => Sys2Proof.Machine.execMton s
  | .mtoff => Sys2Proof.Machine.execMtoff s
  | .mzero z => Sys2Proof.Machine.execMzero z s
  | .mcfg a => Sys2Proof.Machine.execMcfg a s
  | .tshape d sl => Sys2Proof.Machine.execTshape d sl s
  | .mopa z a b r c => Sys2Proof.Machine.execMopa z a b r c s
  | .mrd z v x m c => Sys2Proof.Machine.execMrd z v x m c s
  | .mwr z v x m c => Sys2Proof.Machine.execMwr z v x m c s
  | .cpy k a => Sys2Proof.Machine.execCpy k a s
  | .cpyq k a => Sys2Proof.Machine.execCpyq k a s
  | .cpyx k a => Sys2Proof.Machine.execCpyx k a s
  | .cpyw k a => Sys2Proof.Machine.execCpyw k a s
  | .wvopen d a sl => Sys2Proof.Machine.execWvopen d a sl s
  | .wvstep h a b sl => Sys2Proof.Machine.execWvstep h a b sl s
  | .wvsplit d a b sl => Sys2Proof.Machine.execWvsplit d a b sl s
  | .wvsave a sl => Sys2Proof.Machine.execWvsave a sl s
  | .wvload a sl => Sys2Proof.Machine.execWvload a sl s
  | .wvclose sl => Sys2Proof.Machine.execWvclose sl s
  | .farm d a b => Sys2Proof.Machine.execFarm d a b s
  | .strip d => Sys2Proof.Machine.execStrip d s
  | .scommit => Sys2Proof.Machine.execScommit s
  | .sdep a b => Sys2Proof.Machine.execSdep a b s
  | .farmw d a => Sys2Proof.Machine.execFarmw d a s
  | .rscat v a n => Sys2Proof.Machine.execRscat v a n s
  | .rmcast a => Sys2Proof.Machine.execRmcast a s
  | .rcomb a => Sys2Proof.Machine.execRcomb a s
  | .rwait d a => Sys2Proof.Machine.execRwait d a s
  | .pfx p neg cp d2 => Sys2Proof.Machine.execPfx p neg cp d2 s
  | .preempt h => Sys2Proof.Machine.execPreempt h s
  | .contextSaveComplete h => Sys2Proof.Machine.execContextSaveComplete h s
  | .hostSignal h => Sys2Proof.Machine.execHostSignal h s
  | .saturationEvent h => Sys2Proof.Machine.execSaturationEvent h s
  | .localAlarm h => Sys2Proof.Machine.execLocalAlarm h s
  | .asyncErrorReport h => Sys2Proof.Machine.execAsyncErrorReport h s
  | .chunkLand c n => Sys2Proof.Machine.execChunkLand c n s
  | .copyErrorStop c n e tval => Sys2Proof.Machine.execCopyErrorStop c n e tval s
  | .restoredCopyStart c n => Sys2Proof.Machine.execRestoredCopyStart c n s
  | .storeQueueWriteHome c n => Sys2Proof.Machine.execStoreQueueWriteHome c n s
  | .pageWalk h va => Sys2Proof.Machine.execPageWalk h va s
  | .lockedLineGrant line => Sys2Proof.Machine.execLockedLineGrant line s
  | .lockReservationGrant slice => Sys2Proof.Machine.execLockReservationGrant slice s
  | .hostEnqueue q off bytes => Sys2Proof.Machine.execHostEnqueue q off bytes s
  | .rotationDecision => Sys2Proof.Machine.execRotationDecision s
  | .contextRestore h => Sys2Proof.Machine.execContextRestore h s
  | .queueHeadWaitLimit q => Sys2Proof.Machine.execQueueHeadWaitLimit q s
  | .completionWordWrite l => Sys2Proof.Machine.execCompletionWordWrite l s
  | .teamHartStop h => Sys2Proof.Machine.execTeamHartStop h s
  | .waitmReturn h => Sys2Proof.Machine.execWaitmReturn h s
  | .stripBlockEnd h => Sys2Proof.Machine.execStripBlockEnd h s
  | .postWindowResume h => Sys2Proof.Machine.execPostWindowResume h s
  | .scommitWindowResume h => Sys2Proof.Machine.execScommitWindowResume h s
  | .ropeWaitReturn h => Sys2Proof.Machine.execRopeWaitReturn h s
  | .vwaitReturn h => Sys2Proof.Machine.execVwaitReturn h s
  | .barrierWaitReturn h => Sys2Proof.Machine.execBarrierWaitReturn h s
  | .farmwReturn h => Sys2Proof.Machine.execFarmwReturn h s
  | .farmQueueRoom h => Sys2Proof.Machine.execFarmQueueRoom h s
  | .rwaitReturn h => Sys2Proof.Machine.execRwaitReturn h s
  | .hostPreempt v => Sys2Proof.Machine.execHostPreempt v s
  | .hsig v => Sys2Proof.Machine.execHsig v s
  | .hostFence v => Sys2Proof.Machine.execHostFence v s
  | .laneSramReportLimit c => Sys2Proof.Machine.execLaneSramReportLimit c s
  | .chipletStateUncorrectable c => Sys2Proof.Machine.execChipletStateUncorrectable c s
  | .ucieLinkFailure c => Sys2Proof.Machine.execUcieLinkFailure c s
  | .managementFenceRequest c => Sys2Proof.Machine.execManagementFenceRequest c s
  | .thermalTcrit c temp => Sys2Proof.Machine.execThermalTcrit c temp s
  | .supplyLimit c => Sys2Proof.Machine.execSupplyLimit c s
  | .clockStepDecrease c temp droop => Sys2Proof.Machine.execClockStepDecrease c temp droop s
  | .clockStepIncrease c temp droop => Sys2Proof.Machine.execClockStepIncrease c temp droop s
  | .powerOn stop => Sys2Proof.Machine.execPowerOn stop s
  | .chipletJoin c pass => Sys2Proof.Machine.execChipletJoin c pass s
  | .tileSelfTest c pass => Sys2Proof.Machine.execTileSelfTest c pass s
  | .hostMemoryWrite off bytes => Sys2Proof.Machine.execHostMemoryWrite off bytes s
  | .hostMemoryRead off n => Sys2Proof.Machine.execHostMemoryRead off n s
  | .controlRegisterWrite off v => Sys2Proof.Machine.execControlRegisterWrite off v s
  | .explore map => Sys2Proof.Machine.execExplore map s
  | .fabricEnable v => Sys2Proof.Machine.execFabricEnable v s
  | .portTrained p => Sys2Proof.Machine.execPortTrained p s
  | .portTrainingLost p => Sys2Proof.Machine.execPortTrainingLost p s
  | .flitCrcRetry p => Sys2Proof.Machine.execFlitCrcRetry p s
  | .remoteAccess msg => Sys2Proof.Machine.execRemoteAccess msg s
  | .fabricTrain src load count => Sys2Proof.Machine.execFabricTrain src load count s
  | .fabricAck h m => Sys2Proof.Machine.execFabricAck h m s
  | .fabricTimeout h => Sys2Proof.Machine.execFabricTimeout h s
  | .combineInput inp => Sys2Proof.Machine.execCombineInput inp s
  | .combineNodeTimeout node => Sys2Proof.Machine.execCombineNodeTimeout node s
  | .collectiveResult result => Sys2Proof.Machine.execCollectiveResult result s
  | .collectiveMemberTimeout key => Sys2Proof.Machine.execCollectiveMemberTimeout key s
  | .getcert => Sys2Proof.Machine.execGetcert s
  | .attest => Sys2Proof.Machine.execAttest s
  | .loadfw => Sys2Proof.Machine.execLoadfw s
  | .mailboxBadCommand op => Sys2Proof.Machine.execMailboxBadCommand op s
  | .mailboxCommandComplete => Sys2Proof.Machine.execMailboxCommandComplete s
  | .illegalOp w => Sys2Proof.Machine.execIllegalOp w s
  | .fetchFault => Sys2Proof.Machine.execFetchFault s
  | .powerLoss => Sys2Proof.Machine.execPowerLoss s

end Sys2Proof.Machine
end

