-- ==== Sys2Proof/Machine/Issue.lean ====
section
/-! DEFINITION. Fetch, decode and issue of a hart's head instruction (R31, R39, R42), what a hart does at a boundary
before it issues (R344), the choice of the hart that issues (R56 to R58), and the turns of the model's agenda. -/

namespace Sys2Proof.Machine

/-! ### One instruction -/

/-- ILLEGAL_PAIR at the successor of a live prefix: epc at the PFX, tval the word, PEND 0 (R45). -/
def State.pairTrap (s : State) (w : BitVec 32) : Out :=
  let pc := s.me.pc - 4
  .next ((s.modMe (fun h => { h with pfxLive := false, pfxst := { h.pfxst with pend := false } })).trapHart s.cur
    Cause.illegalPair (wordVal w) pc)

/-- The pair check of a word that is the successor of a live prefix (R42). -/
def State.pairBad (s : State) (w : BitVec 32) (i : Instr) : Bool :=
  s.me.pfxLive && pairForbidden (fOp w).toNat i (s.me.pfxst.cp == 1) s.me.pfxst.d2

/-- A decoded instruction of the executing hart: the pair check and the privilege check, then a successor whose
condition is false completes without effect, and any other instruction executes, with its lane work counted (Table 2.2,
R39, R40, R398). -/
def State.runInstr (s : State) (w : BitVec 32) (i : Instr) : Out :=
  if s.pairBad w i then s.pairTrap w
  else if isPrivileged i && !s.me.supervisor then s.trap Cause.privilege (wordVal w)
  else if s.me.pfxLive && !s.me.pfxst.c then s.done
  else andThen (exec i s) (fun t => .next (t.noteWork s i))

/-- The word at the executing hart's pc is decoded and runs (R31). -/
noncomputable def State.runWord (s : State) (w : BitVec 32) : Out :=
  match decodeWord s.part w with
  | .error e => s.trap (decodeCause e) (wordVal w)
  | .ok i => s.runInstr w i

/-- The executing hart fetches and runs the word at its pc (R31). -/
noncomputable def State.issue (s : State) : Out :=
  match s.fetch s.cur with
  | .stop e => e.out s
  | .word w t => t.runWord w

/-! ### What is due at a hart's boundary (R344) -/

/-- What hart h does before it issues: it stops with its failed launch, takes a report, a PREEMPT or an interrupt. -/
def State.dueAt (s : State) (h : HartId) : Option Out :=
  if (s.hart h).stopReq && (s.hart h).preemptible then some (execTeamHartStop h s)
  else if s.reportDue h then some (execAsyncErrorReport h s)
  else if s.preemptDue h then some (execPreempt h s)
  else if s.signalDue h then some (execHostSignal h s)
  else if s.saturationDue h then some (execSaturationEvent h s)
  else if s.alarmDue h then some (execLocalAlarm h s)
  else none

/-! ### The hart that issues (R57, R58) -/

/-- A hart can issue: RUNNING, and not waiting for another module. -/
def Hart.canIssue (x : Hart) : Bool :=
  x.status == .running && (match x.remote with
    | .idle | .answered _ | .trains [] | .reading [] _ => true
    | .storing r => !r.away
    | _ => false)

/-- The head of hart h is a copy instruction that would take a transposer while none of its core is free: it is not ready
(R284). -/
def State.waitsEngine (s : State) (h : HartId) : Bool :=
  let x := s.hart h
  !s.engineFree (coreOf h) && !(x.pfxLive && !x.pfxst.c) &&
    match s.fetch h with
    | .word w _ => (fOp w).toNat == 0x34 && (decodeFault s.part w).isNone
    | .stop _ => false

/-- R58's order: whether hart a comes before hart b. `cycle` bounds the head clocks. -/
def Hart.before (a b : Hart) : Bool :=
  let sa := decide (252 ≤ a.starve)
  let sb := decide (252 ≤ b.starve)
  if sa != sb then sa
  else if sa then decide (b.starve < a.starve)
  else if a.hp != b.hp then a.hp
  else decide (a.headAt < b.headAt)

/-- The first of the ready harts in R58's order; a tie goes to the lower h. -/
def State.firstReady (s : State) : List HartId → Option HartId
  | [] => none
  | h :: rest =>
    match s.firstReady rest with
    | none => some h
    | some g => if (s.hart g).before (s.hart h) then some g else some h

/-- The harts of a core. -/
def hartsAt (c : CoreId) : List HartId := (List.finRange 4).map (hartOf c)

/-- The harts of a core that are ready in a clock, as far as the model decides it: `ready` says whose source registers
and unit queue allow it (R57), and a hart with something due at its boundary has no head to issue. -/
def State.readyHarts (s : State) (c : CoreId) (ready : BitVec 4) (due : List HartId) : List HartId :=
  ((List.finRange 4).filter (fun n => ready.getLsbD n.val && (s.hart (hartOf c n)).canIssue)).map (hartOf c) |>.filter
    (fun h => !due.contains h && !s.waitsEngine h)

/-- The clocks each hart of a core has waited, after a clock in which `who` issued (R58). -/
def State.countWaits (s : State) (c : CoreId) (ready : List HartId) (who : Option HartId) : State :=
  (hartsAt c).foldl (fun t h =>
    t.modHart h (fun x => { x with starve := if ready.contains h && some h != who then x.starve + 1 else 0 })) s

/-- A core's clock passes (R69). -/
def State.passClock (s : State) (c : CoreId) : State := s.modCore c (fun k => { k with cycle := k.cycle + 1 })

/-- The state in which hart h issues: it executes, its core notes the address space of its local window (R191), its
instruction may run `units` units, and its writes carry a new number. -/
def State.turnOf (s : State) (h : HartId) (units : Nat) : State :=
  { (s.modHart h (fun x => { x with held := false })).noteWindow h with cur := h, slice := units, group := s.group + 1 }

/-- Hart h takes what is due at its boundary, if anything is. -/
def State.boundary (s : State) (h : HartId) : Out := (s.dueAt h).getD (.next s)

/-- The harts of a list take what is due at their boundaries, one after the other. -/
def State.boundaries (s : State) : List HartId → Out
  | [] => .next s
  | h :: rest => andThen (s.boundary h) (fun t => t.boundaries rest)

/-- The first of the ready harts issues, and the others wait (R58). -/
noncomputable def State.issueFirst (s : State) (c : CoreId) (rs : List HartId) (units : Nat) : Out :=
  match s.firstReady rs with
  | none => .next (s.countWaits c rs none)
  | some h => andThen (((s.countWaits c rs (some h)).turnOf h units).issue) (fun t => .next (t.settled h))

/-- One clock of a core in service: its harts take what is due at their boundaries, then the first ready one of the others
issues. -/
noncomputable def State.clock (s : State) (c : CoreId) (ready : BitVec 4) (units : Nat) : Out :=
  if !s.inService (chipletOf c) then s.stall
  else
    let s := s.passClock c
    let due := (hartsAt c).filter (fun h => (s.dueAt h).isSome)
    andThen (s.boundaries (hartsAt c)) (fun t => t.issueFirst c (t.readyHarts c ready due) units)

/-! ### The other turns -/

/-- A row of the table that a turn of the agenda may be: an agent's step, not an instruction of a hart, and not the trap
of a word or of a fetch. -/
def isEvent : Instr → Bool
  | .preempt _ | .contextSaveComplete _ | .hostSignal _ | .saturationEvent _ | .localAlarm _ | .asyncErrorReport _
  | .chunkLand _ _ | .copyErrorStop _ _ _ _ | .restoredCopyStart _ _ | .storeQueueWriteHome _ _ | .pageWalk _ _
  | .lockedLineGrant _ | .lockReservationGrant _ | .hostEnqueue _ _ _ | .rotationDecision | .contextRestore _
  | .queueHeadWaitLimit _ | .completionWordWrite _ | .teamHartStop _ | .waitmReturn _ | .stripBlockEnd _
  | .postWindowResume _ | .scommitWindowResume _ | .ropeWaitReturn _ | .vwaitReturn _ | .barrierWaitReturn _
  | .farmwReturn _ | .farmQueueRoom _ | .rwaitReturn _ | .hostPreempt _ | .hsig _ | .hostFence _
  | .laneSramReportLimit _ | .chipletStateUncorrectable _ | .ucieLinkFailure _ | .managementFenceRequest _
  | .thermalTcrit _ _ | .supplyLimit _ | .clockStepDecrease _ _ _ | .clockStepIncrease _ _ _ | .powerOn _
  | .chipletJoin _ _ | .tileSelfTest _ _ | .hostMemoryWrite _ _ | .hostMemoryRead _ _ | .controlRegisterWrite _ _
  | .explore _ | .fabricEnable _ | .portTrained _ | .portTrainingLost _ | .flitCrcRetry _ | .remoteAccess _
  | .fabricTrain _ _ _ | .fabricAck _ _ | .fabricTimeout _ | .combineInput _ | .combineNodeTimeout _
  | .collectiveResult _ | .collectiveMemberTimeout _ | .getcert | .attest | .loadfw | .mailboxBadCommand _
  | .mailboxCommandComplete | .powerLoss => true
  | _ => false

/-- A line of global memory goes bad (R345). -/
def State.spoilLine (s : State) (b : BadLine) : State :=
  if b.line * 128 < Config.memBytes s.part && !s.badLines.any (fun x => x.line == b.line) then
    { s with badLines := s.badLines ++ [b] }
  else s

/-- A word of a hart's registers, of its shadow or of its tile goes bad. -/
def State.spoilLane (s : State) (h : HartId) (m : LaneMark) : State :=
  if (s.hart h).live && decide (m.unit.toNat ≤ 4) && (m.unit != 3 || s.hasTile h) then
    s.modHart h (fun x => { x with marks := x.marks ++ [m] })
  else s

/-- A word of a core's scratchpad (unit 5) or scalar data memory (unit 6) goes bad. -/
def State.spoilLocal (s : State) (c : CoreId) (m : LaneMark) : State :=
  if s.inService (chipletOf c) && (m.unit == 5 || m.unit == 6) then
    s.modCore c (fun k => { k with marks := k.marks ++ [m] })
  else s

/-- A line that an open strip has staged goes bad (R345, R347). -/
def State.spoilStaged (s : State) (l rank line : Nat) : State :=
  s.modLaunch l (fun x => { x with opens := x.opens.map (fun o =>
    if o.rank == rank && o.lines.contains line && !o.bad.any (fun b => b.line == line) then
      { o with bad := o.bad ++ [{ line := line, llc := true }] }
    else o) })

/-- The chiplet that an error log entry comes from: none, which the log orders last, for a line of the LLC (R399). -/
def errorChip (src : BitVec 2) (c : CoreId) : Nat := if src = 3 then 8 else (chipletOf c).val

/-- An error that no hart is told of: an instruction cache line is fetched again, a translation walked again, a clean
LLC line fetched again; the error log receives it (Tables 13.3 and 17.5, R399). -/
def State.unreported (s : State) (src : BitVec 2) (c : CoreId) (line : Nat) : State :=
  if !s.inService (chipletOf c) || src == 0 then s
  else
    let s := if src = 1 then s.modCore c (fun k => { k with icache := k.icache.filter (fun e => e.1 / 128 != line) })
      else if src = 2 then s.modCore c (fun k => { k with tcache := k.tcache.filter (fun e => e.pteAddr / 128 != line) })
      else s
    s.logError (errorChip src c) src.toNat line

/-- A base clock passes that is not the one of a decision (R318). -/
def State.passBase (s : State) : Out :=
  if s.mgmt.powered && (s.baseClock + 1) % 8 != 0 then .next { s with baseClock := s.baseClock + 1 } else s.stall

/-- One turn. -/
noncomputable def State.turn (s : State) : Turn → Out
  | .clock c ready units => s.clock c ready units
  | .event i => if isEvent i then exec i s else s.stall
  | .baseClock => s.passBase
  | .evict c i => .next (s.modCore c (fun k => { k with tcache := k.tcache.eraseIdx i }))
  | .badLine b => .next (s.spoilLine b)
  | .badStaged l rank line => .next (s.spoilStaged l rank line)
  | .badLane h m => .next (s.spoilLane h m)
  | .badLocal c m => .next (s.spoilLocal c m)
  | .unreported src c line => .next (s.unreported src c line)

/-! ### When the agenda is empty (log 18) -/

/-- The step that takes a chiplet on: its reports fence it, it joins, or its tile self-test ends. -/
def State.chipletAgent (s : State) (c : ChipletId) : Option Out :=
  if !s.present c then none
  else if (s.chiplet c).limit then some (execLaneSramReportLimit c s)
  else
    match (s.chiplet c).st with
    | .off | .fenced => some (execChipletJoin c true s)
    | .provisional => some (execTileSelfTest c true s)
    | .full => none

/-- The event in which a BLOCKED hart goes on (Table 13.4). -/
def State.returnAgent (s : State) (h : HartId) : Waiting → Out
  | .waitm _ _ _ => execWaitmReturn h s
  | .strip _ => execStripBlockEnd h s
  | .post _ => execPostWindowResume h s
  | .waitRope _ => execRopeWaitReturn h s
  | .waitBarrier _ _ _ => execBarrierWaitReturn h s
  | .vwait _ _ _ => execVwaitReturn h s
  | .farmw _ _ => execFarmwReturn h s
  | .rwait _ _ => execRwaitReturn h s
  | .farm _ _ _ => execFarmQueueRoom h s
  | .scommit | .retire => execScommitWindowResume h s

/-- The step, other than an issue, that takes a hart on: its save or restore ends, its wait ends, or its request of
another module times out. -/
def State.hartAgent (s : State) (h : HartId) : Option Out :=
  let x := s.hart h
  match x.status with
  | .saving => some (if x.stopReq then execTeamHartStop h s else execContextSaveComplete h s)
  | .restoring => some (if x.stopReq then execTeamHartStop h s else execContextRestore h s)
  | .blocked w => some (s.returnAgent h w)
  | .running =>
    if x.canIssue then none else some (execFabricTimeout h s)
  | _ => none

/-- A core with a hart that can issue or that has something due has its clock. -/
noncomputable def State.coreAgent (s : State) (c : CoreId) : Option Out :=
  if s.inService (chipletOf c) && (hartsAt c).any (fun h => (s.hart h).canIssue || (s.dueAt h).isSome) then
    some (s.clock c 0xF 0)
  else none

/-- A queued write of a core goes home. -/
def State.queueAgent (s : State) (c : CoreId) : Option Out := (s.nextLeaving c).map (fun i => .next (s.drain c i))

/-- Copy i of a core goes on: it starts again, stops with its error, or lands a chunk; one whose chunk another module has not
answered in time stops with a timeout. -/
def State.copyAgent (s : State) (c : CoreId) (i : Nat) : Option Out :=
  ((s.core c).copies[i]?).map (fun x =>
    if !x.engine then execRestoredCopyStart c i s
    else
      let io := s.chunkIO c x
      match s.chunkErrors c io, (if s.chunkLate x then io.all.find? (fun p => isRemote p.pa) else none) with
      | (e, v) :: _, _ => execCopyErrorStop c i e v s
      | [], some p => execCopyErrorStop c i .fabricTimeout (BitVec.ofNat 64 p.pa) s
      | [], none => execChunkLand c i s)

/-- An open collective goes on: its root result is here, or its member's limit passes. -/
def State.collectiveAgent (s : State) (c : Collective) : Out :=
  if s.tooLate c then execCollectiveMemberTimeout c.key s
  else
    match s.roots.find? (s.resultFor c) with
    | some x => execCollectiveResult ⟨c.key, x⟩ s
    | none => s.stall

/-- A node of this module's router whose FTO has passed closes. -/
def State.nodeAgent (s : State) : Option Out :=
  (s.nodes.find? (fun n => !n.closed && s.overdue n)).map (fun n => execCombineNodeTimeout ⟨n.cid, n.level, n.index⟩ s)

/-- How many agents the module has in the numbering of `State.agent`. -/
def agents : Nat := 413

/-- What agent n does next, if it has anything to do: a chiplet (8), a hart's own event (128), a core's clock (32), its
queue (32), its copies 0 to 3 (128), base camp's queue (16), a slice with a VAMO that waits for room (64), a launch that has ended,
an open collective, a node of a collective, a finished mailbox command, and last base camp's decision, which ends a base
period. -/
noncomputable def State.agent (s : State) (n : Nat) : Option Out :=
  if n < 8 then s.chipletAgent (Fin.ofNat 8 n)
  else if n < 136 then s.hartAgent (Fin.ofNat 128 (n - 8))
  else if n < 168 then s.coreAgent (Fin.ofNat 32 (n - 136))
  else if n < 200 then s.queueAgent (Fin.ofNat 32 (n - 168))
  else if n < 328 then s.copyAgent (Fin.ofNat 32 ((n - 200) / 4)) ((n - 200) % 4)
  else if n < 344 then
    let q := Fin.ofNat 16 (n - 328)
    if (s.queue q).records.any (fun r => decide (r.headAt + 2 ^ 20 ≤ s.baseClock)) then some (execQueueHeadWaitLimit q s)
    else none
  else if n < 408 then
    if s.reservations.any (fun r => r.slice == n - 344 && !r.granted) then some (execLockReservationGrant (n - 344) s)
    else none
  else if n = 408 then (s.camp.launches.find? (fun x => s.launchEnded x)).map (fun x => execCompletionWordWrite x.ident s)
  else if n = 409 then (s.collectives.find? (fun c => c.status.isNone)).map s.collectiveAgent
  else if n = 410 then s.nodeAgent
  else if n = 411 then if s.mailbox.busy then some (execMailboxCommandComplete s) else none
  else if s.mgmt.base then some (execRotationDecision s)
  else none

/-- The first of the agents n, n + 1, ... that has something to do takes its step, and the one after it goes on first
next time. -/
noncomputable def State.agentFrom (s : State) : Nat → Nat → Option Out
  | 0, _ => none
  | k + 1, n =>
    match { s with nextAgent := (n + 1) % agents }.agent n with
    | some o => some o
    | none => s.agentFrom k ((n + 1) % agents)

/-- With no turn given the module powers on, and then its agents move in turn. -/
noncomputable def State.idle (s : State) : Out :=
  if !s.mgmt.powered then execPowerOn 0 s
  else (s.agentFrom agents (s.nextAgent % agents)).getD s.stall

end Sys2Proof.Machine
end

