-- ==== Sys2Proof/Machine/Step.lean ====
section
/-! DEFINITION. One step of the module, and the state in which the next step fetches a given word. -/

namespace Sys2Proof.Machine

/-- One step: the next turn of the agenda, or what goes on without one. -/
noncomputable def step (s : State) : Host.Outcome State Fault Refusal :=
  match s.agenda with
  | [] => s.idle
  | t :: rest => { s with agenda := rest }.turn t

/-- The state with hart 0 of core 0 RUNNING at pc 0, virtual page 0 translated to frame 0 for fetching, and the word at
physical address 0, where the next turn, a clock of core 0 in which hart 0 is ready, fetches it (log 17). -/
def State.withFetchWord (s : State) (nbits w : Nat) : State :=
  let s := s.modChiplet 0 (fun c => { c with st := .full })
  let s := s.modHart 0 (fun h => { h with status := .running, pc := 0 })
  let leaf : TEntry := { asid := (s.hart 0).asid, vpn := 0, big := false, pte := 0x59, pteAddr := 0 }
  let s := s.modCore 0 (fun c => { c with tcache := leaf :: c.tcache, icache := [], queue := [] })
  { s with mem := memPuts s.mem (writesAt 0 (leBytes 4 (w % 2 ^ nbits))), agenda := .clock 0 1 0 :: s.agenda }

end Sys2Proof.Machine
end

