-- ==== Sys2Proof/Safety.lean ====
section
/-! DEFINITION. What counts as a safe run, and the words the statements are made of: the frames of an instruction, the
conditions under which it executes normally, and the results the manual's tables give. -/

namespace Sys2Proof.Machine

/-! ### Runs -/

/-- The outcome of n steps. -/
def stepsOf (f : State → Out) : Nat → State → Out
  | 0, s => .next s
  | n + 1, s =>
    match f s with
    | .next t => stepsOf f n t
    | o => o

/-- A run of n steps is safe: no step of it stops the machine. -/
def State.safeFor (s : State) (n : Nat) : Prop := ∃ t, stepsOf step n s = .next t

/-- If an outcome is a next state, it meets P. -/
def Out.all (o : Out) (P : State → Prop) : Prop := ∀ t, o = .next t → P t

/-! ### Frames -/

/-- Every byte of the module's memory reads as before. -/
def State.sameMemory (s t : State) : Prop := ∀ a, memGet t.mem a = memGet s.mem a

/-- Every store queue holds what it held. -/
def State.sameQueues (s t : State) : Prop := ∀ c, (t.core c).queue = (s.core c).queue

/-- Every hart but the executing one is as before. -/
def State.sameOthers (s t : State) : Prop := ∀ h, h ≠ s.cur → t.hart h = s.hart h

/-- The hart y has the registers of x but for the pc, the prefix register, the loop counts and the masks that an instruction
in progress has sampled (R39, R83, R133). -/
def Hart.sameButPc (x y : Hart) : Prop :=
  y = { x with pc := y.pc, pfxLive := y.pfxLive, pfxst := y.pfxst, lrem := y.lrem, ld := y.ld, kept := y.kept }

/-- Only the executing hart changes between s and t. -/
def State.onlyMe (s t : State) : Prop := t = s.setMe t.me

/-- A trap at the executing instruction stops it: its outcome, and nothing else, is the trap's entry (R343). -/
def State.trapped (s : State) (c : BitVec 7) (v : Word) : Out := .next (s.trapHart s.cur c v s.me.pc)

/-! ### When an instruction executes normally -/

/-- A vector instruction may execute: vl is not 0, vtype is legal and of a kind the instruction admits, the registers it
names and the copy register of a live prefix are multiples of the group size, vstart is below vl, and no lane SRAM word
of the hart is uncorrectable (R119, R41, R131). -/
structure Hart.VectorReady (h : Hart) (kindOk : Bool) (groups : List Reg) (writes : Bool) : Prop where
  vl : h.vl ≠ 0
  legal : h.vtype.getLsbD 20 = false
  kind : kindOk = true
  aligned : ∀ r ∈ groups, r.toNat % 2 ^ h.vt.ig = 0
  copy : writes = true → ∀ d2, h.copyReg = some d2 → d2.toNat % 2 ^ h.vt.ig = 0
  start : h.vstart.toNat < h.vl.toNat
  marks : h.marks = []

/-- A scalar access of n bytes at ea may perform at places ps of this module: the hart does not wait at another module,
the address is canonical and aligned, every byte translates, no belay or lock stops it, and memory is in its canonical
form (R87). -/
structure State.AccessReady (s : State) (a : Acc) (hu : HostUse) (n : Nat) (ea : Word) (w : BitVec 32)
    (ps : List Place) : Prop where
  idle : s.me.remote = .idle
  low : ea.toNat < 2 ^ 48
  high : (ea + BitVec.ofNat 64 (n - 1)).toNat < 2 ^ 48
  aligned : ea.toNat % n = 0
  places : s.locateAll (s.ctx s.cur) a hu ea n = .ok ps
  belay : s.belayCheck s.cur a w ps = none
  locks : s.lockCheck s.cur ps = none
  own : remoteOf ps = none
  canonical : s.mem.wf = true

/-- A scalar access of n bytes at ea may be sent to another module: the address is canonical and aligned, every byte
translates, no belay or lock stops it, and `pa` is its first byte of another module (R87, R242). -/
structure State.AccessAway (s : State) (a : Acc) (n : Nat) (ea : Word) (w : BitVec 32) (ps : List Place) (pa : Nat) :
    Prop where
  low : ea.toNat < 2 ^ 48
  high : (ea + BitVec.ofNat 64 (n - 1)).toNat < 2 ^ 48
  aligned : ea.toNat % n = 0
  places : s.locateAll (s.ctx s.cur) a .opened ea n = .ok ps
  belay : s.belayCheck s.cur a w ps = none
  locks : s.lockCheck s.cur ps = none
  away : remoteOf ps = some pa

/-- An address is a byte of a page table leaf whose A and D bits the access at `ps` sets (R198). -/
def leafByte (ps : List Place) (a : Nat) : Prop := ∃ p ∈ ps, ∃ m, p.mark = some m ∧ m.entry.pteAddr ≤ a ∧ a < m.entry.pteAddr + 8

/-- The bytes of an access lie together from `pa` up. -/
def runFrom (ps : List Place) (pa n : Nat) : Prop := ps.map (fun p => p.pa) = (List.range n).map (fun i => pa + i)

/-! ### Successors of a prefix and the supervisor's words (R42, R65) -/

/-- The instructions that name no x, f, v or k register as their destination, of the majors that may follow a prefix: the
list of R42. -/
def namesNoDestination : Instr → Bool
  | .stb _ _ _ | .sth _ _ _ | .stw _ _ _ | .std _ _ _ | .fsw _ _ _ | .fsd _ _ _ => true
  | .qld _ _ _ | .qst _ _ _ | .kst _ _ _ | .vst _ _ _ | .vsts _ _ _ _ | .vstx _ _ _ _ | .vstxu _ _ _ _ => true
  | .vamoadd _ _ _ _ nr | .vamomin _ _ _ _ nr | .vamomax _ _ _ _ nr | .vamoand _ _ _ _ nr | .vamoor _ _ _ _ nr
  | .vamoxor _ _ _ _ nr | .vamoswap _ _ _ _ nr => nr
  | .rshsave _ | .rshload _ | .mopa _ _ _ _ _ | .mzero _ | .mwr _ _ _ _ _ | .mcfg _ | .mton | .mtoff => true
  | .vsetq _ _ | .vqmvVq _ _ | .csrw _ _ | .csrs _ _ | .csrc _ _ => true
  | .cpy _ _ | .cpyq _ _ | .cpyx _ _ | .cpyw _ _ | .wvsave _ _ | .wvload _ _ | .wvclose _ => true
  | .rscat _ _ _ | .rmcast _ | .rcomb _ => true
  | _ => false

/-- The instructions whose destination is a k register: the compares, the mask operations and KLD (R134, R138, R142). -/
def namesMaskDestination : Instr → Bool
  | .vcmpeq _ _ _ _ | .vcmpne _ _ _ _ | .vcmplt _ _ _ _ | .vcmple _ _ _ _ | .vcmpltu _ _ _ _ | .vcmpleu _ _ _ _ => true
  | .vfcmpeq _ _ _ _ | .vfcmplt _ _ _ _ | .vfcmple _ _ _ _ | .vfcmpuo _ _ _ _ => true
  | .kand _ _ _ | .kor _ _ _ | .kxor _ _ _ | .kandn _ _ _ | .knot _ _ | .kmov _ _ | .kset _ _ | .kld _ _ _ => true
  | _ => false

/-- The control register that a CSR instruction names. -/
def namesControlRegister : Instr → Option (BitVec 12)
  | .csrr _ n | .csrw _ n | .csrs _ n | .csrc _ n | .csrrw _ _ n => some n
  | _ => none

/-! ### The scalar results of Tables 3.10 and 3.11 and R73 to R78, in whole numbers -/

/-- The register an integer instruction writes and its result. -/
def aluValue (s : State) : Instr → Option (Reg × Word)
  | .add d a b => some (d, BitVec.ofInt 64 ((s.me.xr a).toInt + (s.me.xr b).toInt))
  | .sub d a b => some (d, BitVec.ofInt 64 ((s.me.xr a).toInt - (s.me.xr b).toInt))
  | .and d a b => some (d, BitVec.ofNat 64 ((s.me.xr a).toNat &&& (s.me.xr b).toNat))
  | .or d a b => some (d, BitVec.ofNat 64 ((s.me.xr a).toNat ||| (s.me.xr b).toNat))
  | .xor d a b => some (d, BitVec.ofNat 64 ((s.me.xr a).toNat ^^^ (s.me.xr b).toNat))
  | .nor d a b => some (d, BitVec.ofNat 64 (2 ^ 64 - 1 - ((s.me.xr a).toNat ||| (s.me.xr b).toNat)))
  | .sll d a b => some (d, BitVec.ofNat 64 ((s.me.xr a).toNat * 2 ^ ((s.me.xr b).toNat % 64)))
  | .srl d a b => some (d, BitVec.ofNat 64 ((s.me.xr a).toNat / 2 ^ ((s.me.xr b).toNat % 64)))
  | .sra d a b => some (d, BitVec.ofInt 64 ((s.me.xr a).toInt / 2 ^ ((s.me.xr b).toNat % 64)))
  | .rol d a b =>
    let n := (s.me.xr b).toNat % 64
    some (d, BitVec.ofNat 64 ((s.me.xr a).toNat * 2 ^ n + (s.me.xr a).toNat / 2 ^ (64 - n)))
  | .ror d a b =>
    let n := (s.me.xr b).toNat % 64
    some (d, BitVec.ofNat 64 ((s.me.xr a).toNat / 2 ^ n + (s.me.xr a).toNat * 2 ^ (64 - n)))
  | .slt d a b => some (d, if (s.me.xr a).toInt < (s.me.xr b).toInt then 1 else 0)
  | .sltu d a b => some (d, if (s.me.xr a).toNat < (s.me.xr b).toNat then 1 else 0)
  | .min d a b => some (d, BitVec.ofInt 64 (min (s.me.xr a).toInt (s.me.xr b).toInt))
  | .max d a b => some (d, BitVec.ofInt 64 (max (s.me.xr a).toInt (s.me.xr b).toInt))
  | .minu d a b => some (d, BitVec.ofNat 64 (min (s.me.xr a).toNat (s.me.xr b).toNat))
  | .maxu d a b => some (d, BitVec.ofNat 64 (max (s.me.xr a).toNat (s.me.xr b).toNat))
  | .mul d a b => some (d, BitVec.ofInt 64 ((s.me.xr a).toInt * (s.me.xr b).toInt))
  | .mulh d a b => some (d, BitVec.ofInt 64 ((s.me.xr a).toInt * (s.me.xr b).toInt / 2 ^ 64))
  | .mulhu d a b => some (d, BitVec.ofNat 64 ((s.me.xr a).toNat * (s.me.xr b).toNat / 2 ^ 64))
  | .div d a b =>
    some (d, if (s.me.xr b).toInt = 0 then BitVec.ofInt 64 (-1)
      else BitVec.ofInt 64 ((s.me.xr a).toInt.tdiv (s.me.xr b).toInt))
  | .divu d a b =>
    some (d, if (s.me.xr b).toNat = 0 then BitVec.ofInt 64 (-1)
      else BitVec.ofNat 64 ((s.me.xr a).toNat / (s.me.xr b).toNat))
  | .rem d a b =>
    some (d, if (s.me.xr b).toInt = 0 then s.me.xr a
      else BitVec.ofInt 64 ((s.me.xr a).toInt.tmod (s.me.xr b).toInt))
  | .remu d a b =>
    some (d, if (s.me.xr b).toNat = 0 then s.me.xr a
      else BitVec.ofNat 64 ((s.me.xr a).toNat % (s.me.xr b).toNat))
  | .clz d a =>
    some (d, BitVec.ofNat 64 (if (s.me.xr a).toNat = 0 then 64 else 63 - Nat.log2 (s.me.xr a).toNat))
  | .ctz d a =>
    some (d, BitVec.ofNat 64 (((List.range 64).find? (fun i => (s.me.xr a).toNat.testBit i)).getD 64))
  | .popc d a => some (d, BitVec.ofNat 64 ((List.range 64).filter (fun i => (s.me.xr a).toNat.testBit i)).length)
  | .bext d a b =>
    let pos := (s.me.xr b).toNat % 64
    let f := (s.me.xr b).toNat / 256 % 64
    let len := if f = 0 then 64 else f
    some (d, BitVec.ofNat 64 ((s.me.xr a).toNat / 2 ^ pos % 2 ^ len))
  | .bins d a b =>
    let pos := (s.me.xr b).toNat % 64
    let f := (s.me.xr b).toNat / 256 % 64
    let len := if f = 0 then 64 else f
    let old := (s.me.xr d).toNat
    some (d, BitVec.ofNat 64 (old % 2 ^ pos + (s.me.xr a).toNat % 2 ^ len * 2 ^ pos +
      old / 2 ^ (pos + len) * 2 ^ (pos + len)))
  | .addi d a imm => some (d, BitVec.ofInt 64 ((s.me.xr a).toInt + imm.toInt))
  | .andi d a imm => some (d, BitVec.ofNat 64 ((s.me.xr a).toNat &&& imm.toNat))
  | .ori d a imm => some (d, BitVec.ofNat 64 ((s.me.xr a).toNat ||| imm.toNat))
  | .xori d a imm => some (d, BitVec.ofNat 64 ((s.me.xr a).toNat ^^^ imm.toNat))
  | .slti d a imm => some (d, if (s.me.xr a).toInt < imm.toInt then 1 else 0)
  | .sltiu d a imm => some (d, if (s.me.xr a).toNat < (BitVec.ofInt 64 imm.toInt).toNat then 1 else 0)
  | .slli d a n => some (d, BitVec.ofNat 64 ((s.me.xr a).toNat * 2 ^ n.toNat))
  | .srli d a n => some (d, BitVec.ofNat 64 ((s.me.xr a).toNat / 2 ^ n.toNat))
  | .srai d a n => some (d, BitVec.ofInt 64 ((s.me.xr a).toInt / 2 ^ n.toNat))
  | .rori d a n =>
    some (d, BitVec.ofNat 64 ((s.me.xr a).toNat / 2 ^ n.toNat + (s.me.xr a).toNat * 2 ^ (64 - n.toNat)))
  | .li d sh imm => some (d, BitVec.ofNat 64 (imm.toNat * 2 ^ (16 * sh.toNat)))
  | .lik d sh imm =>
    let old := (s.me.xr d).toNat
    let lo := 16 * sh.toNat
    some (d, BitVec.ofNat 64 (old % 2 ^ lo + imm.toNat * 2 ^ lo + old / 2 ^ (lo + 16) * 2 ^ (lo + 16)))
  | .addpc d off => some (d, BitVec.ofInt 64 (s.me.pc.toInt + 4096 * off.toInt))
  | _ => none

/-- Whether a branch is taken, and its offset in words (R79, R80). -/
def branchOf (s : State) : Instr → Option (Bool × BitVec 16)
  | .beq a b off => some (decide ((s.me.xr a).toNat = (s.me.xr b).toNat), off)
  | .bne a b off => some (decide ((s.me.xr a).toNat ≠ (s.me.xr b).toNat), off)
  | .blt a b off => some (decide ((s.me.xr a).toInt < (s.me.xr b).toInt), off)
  | .bge a b off => some (decide ((s.me.xr b).toInt ≤ (s.me.xr a).toInt), off)
  | .bltu a b off => some (decide ((s.me.xr a).toNat < (s.me.xr b).toNat), off)
  | .bgeu a b off => some (decide ((s.me.xr b).toNat ≤ (s.me.xr a).toNat), off)
  | .bmnone k off => some ((List.range s.me.vl.toNat).all (fun i => !(s.me.kr k).getLsbD i), off)
  | .bmany k off => some ((List.range s.me.vl.toNat).any (fun i => (s.me.kr k).getLsbD i), off)
  | .bmall k off => some ((List.range s.me.vl.toNat).all (fun i => (s.me.kr k).getLsbD i), off)
  | _ => none

/-! ### Scalar memory (R86) -/

/-- The low n bytes of a number as a signed value. -/
def signedBytes (n v : Nat) : Word :=
  BitVec.ofInt 64 (if v % 2 ^ (8 * n) < 2 ^ (8 * n - 1) then (v % 2 ^ (8 * n) : Nat) else (v % 2 ^ (8 * n) : Nat) - 2 ^ (8 * n))

/-- What a scalar load reads and what it does with the number its bytes hold. -/
structure LoadSpec where
  bytes : Nat
  ea : Word
  word : BitVec 32
  put : Nat → Hart → Hart

/-- The scalar loads (R86). -/
def loadSpec (s : State) : Instr → Option LoadSpec
  | .ldb d a imm => some ⟨1, s.me.xr a + imm.signExtend 64, packM13 0x1A d a 0 imm, fun v h => h.setX d (signedBytes 1 v)⟩
  | .ldh d a imm => some ⟨2, s.me.xr a + imm.signExtend 64, packM13 0x1A d a 1 imm, fun v h => h.setX d (signedBytes 2 v)⟩
  | .ldw d a imm => some ⟨4, s.me.xr a + imm.signExtend 64, packM13 0x1A d a 2 imm, fun v h => h.setX d (signedBytes 4 v)⟩
  | .ldd d a imm => some ⟨8, s.me.xr a + imm.signExtend 64, packM13 0x1A d a 3 imm, fun v h => h.setX d (BitVec.ofNat 64 v)⟩
  | .ldbu d a imm => some ⟨1, s.me.xr a + imm.signExtend 64, packM13 0x1A d a 4 imm, fun v h => h.setX d (BitVec.ofNat 64 v)⟩
  | .ldhu d a imm => some ⟨2, s.me.xr a + imm.signExtend 64, packM13 0x1A d a 5 imm, fun v h => h.setX d (BitVec.ofNat 64 v)⟩
  | .ldwu d a imm => some ⟨4, s.me.xr a + imm.signExtend 64, packM13 0x1A d a 6 imm, fun v h => h.setX d (BitVec.ofNat 64 v)⟩
  | .flw d a imm =>
    some ⟨4, s.me.xr a + imm.signExtend 64, packM13 0x1E d a 0 imm,
      fun v h => h.setF d (BitVec.ofNat 64 ((2 ^ 32 - 1) * 2 ^ 32 + v))⟩
  | .fld d a imm => some ⟨8, s.me.xr a + imm.signExtend 64, packM13 0x1E d a 1 imm, fun v h => h.setF d (BitVec.ofNat 64 v)⟩
  | _ => none

/-- The scalar stores (R86): bytes, address, word and the register value stored. -/
def storeSpec (s : State) : Instr → Option (Nat × Word × BitVec 32 × Word)
  | .stb c a imm => some (1, s.me.xr a + imm.signExtend 64, packM13 0x1B c a 0 imm, s.me.xr c)
  | .sth c a imm => some (2, s.me.xr a + imm.signExtend 64, packM13 0x1B c a 1 imm, s.me.xr c)
  | .stw c a imm => some (4, s.me.xr a + imm.signExtend 64, packM13 0x1B c a 2 imm, s.me.xr c)
  | .std c a imm => some (8, s.me.xr a + imm.signExtend 64, packM13 0x1B c a 3 imm, s.me.xr c)
  | .fsw c a imm => some (4, s.me.xr a + imm.signExtend 64, packM13 0x1E c a 2 imm, s.me.fr c)
  | .fsd c a imm => some (8, s.me.xr a + imm.signExtend 64, packM13 0x1E c a 3 imm, s.me.fr c)
  | _ => none

/-- The operands of an AMO (R245). -/
structure AmoSpec where
  op : AmoOp
  d : Reg
  a : Reg
  b : Reg
  width : AmoWidth
  scope : Scope
  order : Order
  word : BitVec 32

/-- The scalar atomics (Table 2.3, R245). -/
def amoSpec : Instr → Option AmoSpec
  | .amoadd d a b wd sc o => some ⟨.add, d, a, b, wd, sc, o, amoWord 0 d a b wd sc o⟩
  | .amoand d a b wd sc o => some ⟨.and, d, a, b, wd, sc, o, amoWord 1 d a b wd sc o⟩
  | .amoor d a b wd sc o => some ⟨.or, d, a, b, wd, sc, o, amoWord 2 d a b wd sc o⟩
  | .amoxor d a b wd sc o => some ⟨.xor, d, a, b, wd, sc, o, amoWord 3 d a b wd sc o⟩
  | .amomin d a b wd sc o => some ⟨.min, d, a, b, wd, sc, o, amoWord 4 d a b wd sc o⟩
  | .amomax d a b wd sc o => some ⟨.max, d, a, b, wd, sc, o, amoWord 5 d a b wd sc o⟩
  | .amominu d a b wd sc o => some ⟨.minu, d, a, b, wd, sc, o, amoWord 6 d a b wd sc o⟩
  | .amomaxu d a b wd sc o => some ⟨.maxu, d, a, b, wd, sc, o, amoWord 7 d a b wd sc o⟩
  | .amoswap d a b wd sc o => some ⟨.swap, d, a, b, wd, sc, o, amoWord 8 d a b wd sc o⟩
  | .amocas d a b wd sc o => some ⟨.cas, d, a, b, wd, sc, o, amoWord 9 d a b wd sc o⟩
  | _ => none

/-- The number an n-bit pattern holds as a signed value. -/
def asSigned (n u : Nat) : Int := if u < 2 ^ (n - 1) then u else u - 2 ^ n

/-- The value an AMO leaves in memory, for patterns of n bits (R246). -/
def amoResult (op : AmoOp) (n old src cmp : Nat) : Nat :=
  match op with
  | .add => (old + src) % 2 ^ n
  | .and => old &&& src
  | .or => old ||| src
  | .xor => old ^^^ src
  | .min => if asSigned n src ≤ asSigned n old then src else old
  | .max => if asSigned n src ≤ asSigned n old then old else src
  | .minu => if src ≤ old then src else old
  | .maxu => if src ≤ old then old else src
  | .swap => src
  | .cas => if old = cmp then src else old

/-! ### Exact numbers and their rounding (R89, R162 to R165) -/

/-- The exact number m × 2^e. -/
def dyadic (m : Nat) (e : Int) : ℚ := m * 2 ^ e

/-- The exact number that a magnitude pattern of a format stands for (R162); 0 for one that is not finite. -/
def Fmt.magOf (f : Fmt) (u : Nat) : ℚ :=
  match f.decode u with
  | .num _ m e => dyadic m e
  | _ => 0

/-- The formats of Table 6.1. -/
def allFormats : List Fmt :=
  [Fmt.bf16, Fmt.fp16, Fmt.fp32, Fmt.fp64, Fmt.e4m3, Fmt.e5m2, Fmt.e2m3, Fmt.e3m2, Fmt.e2m1]

/-- The magnitude x is given exactly by m × 2^e, or, with a tail below enough bits for the format, lies strictly between
m × 2^e and the next multiple of 2^e. -/
def Fmt.given (f : Fmt) (m : Nat) (e : Int) (tail : Bool) (x : ℝ) : Prop :=
  if tail = true then ((dyadic m e : ℚ) : ℝ) < x ∧ x < ((dyadic (m + 1) e : ℚ) : ℝ) ∧ 2 ^ (f.frac + 2) ≤ m
  else x = ((dyadic m e : ℚ) : ℝ) ∧ m ≠ 0

/-- The rounding takes a number of a sign to the magnitude at or below its own. -/
def roundsDown (r : Rnd) (neg : Bool) : Prop := r = .rtz ∨ (r = .rdn ∧ neg = false) ∨ (r = .rup ∧ neg = true)

/-- The rounding takes a number of a sign to the magnitude at or above its own. -/
def roundsAway (r : Rnd) (neg : Bool) : Prop := (r = .rdn ∧ neg = true) ∨ (r = .rup ∧ neg = false)

/-- The magnitude pattern p of a format is x rounded: the largest finite pattern at or below x, the smallest at or above it,
or the nearest, a tie going to the even pattern or to the larger one (R89). -/
def Fmt.isRounded (f : Fmt) (r : Rnd) (neg : Bool) (x : ℝ) (p : Nat) : Prop :=
  let val := fun u => ((f.magOf u : ℚ) : ℝ)
  p ≤ f.maxPat ∧
  (roundsDown r neg → val p ≤ x ∧ ∀ q, q ≤ f.maxPat → val q ≤ x → q ≤ p) ∧
  (roundsAway r neg → x ≤ val p ∧ ∀ q, q ≤ f.maxPat → x ≤ val q → p ≤ q) ∧
  ((r = .rne ∨ r = .rmm) → ∀ q, q ≤ f.maxPat → |x - val p| ≤ |x - val q| ∧
    (q ≠ p → |x - val p| = |x - val q| → (r = .rne → p % 2 = 0) ∧ (r = .rmm → q < p)))

/-- x, rounded with an unbounded exponent, is below the smallest normal of the format (R89). -/
def Fmt.isTiny (f : Fmt) (r : Rnd) (neg : Bool) (x : ℝ) : Prop :=
  let normal : ℝ := ((dyadic 1 f.emin : ℚ) : ℝ)
  let unit : ℝ := ((dyadic 1 (f.emin - f.frac - 1) : ℚ) : ℝ)
  (roundsDown r neg → x < normal) ∧ (roundsAway r neg → x ≤ normal - unit) ∧
    ((r = .rne ∨ r = .rmm) → x < normal - unit / 2)

/-- x overflows a format with infinities: it rounds past the largest finite number (R89). -/
def Fmt.overflows (f : Fmt) (r : Rnd) (neg : Bool) (x : ℝ) : Prop :=
  let top : ℝ := ((f.magOf f.maxPat : ℚ) : ℝ)
  let unit : ℝ := top - ((f.magOf (f.maxPat - 1) : ℚ) : ℝ)
  (roundsDown r neg → top + unit ≤ x) ∧ (roundsAway r neg → top < x) ∧ ((r = .rne ∨ r = .rmm) → top + unit / 2 ≤ x)

/-- The sign and magnitude of a finite value. -/
def Val.exact : Val → ℚ
  | .num neg m e => if neg then -dyadic m e else dyadic m e
  | _ => 0

/-! ### Control registers (Table 3.4) -/

/-- The bits of a control register that a write sets; the registers whose written value has a rule of its own (vtype's
VILL, satcnt's EVP, lcnt0's LD, pfxst) are left out. -/
def csrWritable : Nat → Option Word
  | 0x001 => some 0x7FFF
  | 0x003 => some 0x3
  | 0x004 | 0x005 | 0x010 | 0x012 | 0x023 | 0x202 | 0x203 | 0x207 => some 0xFFFFFFFFFFFFFFFF
  | 0x009 => some 0xFFFFFFFF
  | 0x00A => some 0x1F1F
  | 0x013 => some 0xFFFFFFFF0000FFFF
  | 0x200 => some 0xC71E
  | 0x201 => some 0x7F
  | 0x204 => some 0xFFFFFFFFFFFC
  | 0x205 => some 0xFFFF
  | 0x206 => some 0xFFFFFFFFF8000
  | 0x000 | 0x006 | 0x007 | 0x020 | 0x021 | 0x022 | 0x024 => some 0
  | n => if 0x040 ≤ n ∧ n ≤ 0x07F then some 0 else none

/-! ### Vector results, element by element -/

/-- What a vector instruction that writes group d under a mask computes: whether vtype's kind admits it, the vector groups
it reads, whether it writes masked-off elements too, the block origin it stamps, exceptions recorded once, and the result
of an element. -/
structure VecSpec where
  kindOk : Bool
  d : Reg
  srcs : List Reg
  mask : KReg
  all : Bool
  borg : BitVec 13
  exc0 : Exc
  elem : Nat → Elem

/-- An element-by-element instruction with a masked destination, no block origin and no exceptions of its own. -/
def plainSpec (kindOk : Bool) (d : Reg) (srcs : List Reg) (m : KReg) (elem : Nat → Elem) : VecSpec :=
  { kindOk := kindOk, d := d, srcs := srcs, mask := m, all := false, borg := 0, exc0 := .none, elem := elem }

/-- The nearest integer to x / 2^s, ties to even (R127, R128). -/
def nearestEven (x : Int) (s : Nat) : Int :=
  let q := x / 2 ^ s
  let r := 2 * (x % 2 ^ s)
  if 2 ^ s < r ∨ (r = 2 ^ s ∧ q % 2 = 1) then q + 1 else q

/-- The shift amount of R128: source b read as a signed number and clamped to 0 … 64. -/
def shiftBy (h : Hart) (t : VT) (b : BSrc) (i : Nat) : Nat :=
  (max 0 (min (match b with
    | .vec n => h.rd t n i t.wb
    | .scalar r => (h.xr r).toInt
    | .imm v => v.toInt) 64)).toNat

/-- The integer instructions of Table 4.9 and R127 to R129, and VPLANES (R184). -/
def vintSpec (s : State) : Instr → Option VecSpec :=
  let h := s.me
  let t := h.vt
  let read := fun (a : Reg) (i : Nat) => h.rd t a i t.wa
  let bin := fun (d a : Reg) (b : BSrc) (m : KReg) (f : Nat → Int) =>
    some (plainSpec t.isInt d (a :: (bVec b).toList) m (fun i => t.wr (f i) true))
  let bits := fun (d a : Reg) (b : BSrc) (m : KReg) (f : Nat → Nat → Nat) =>
    some (plainSpec t.isInt d (a :: (bVec b).toList) m (fun i =>
      t.put (f (read a i % 2 ^ t.wd).toNat (h.bval t b i % 2 ^ t.wd).toNat)))
  fun i => match i with
  | .vadd d a b m => bin d a b m (fun i => read a i + h.bval t b i)
  | .vsub d a b m => bin d a b m (fun i => read a i - h.bval t b i)
  | .vrsub d a b m => bin d a b m (fun i => h.bval t b i - read a i)
  | .vmul d a b m => bin d a b m (fun i => read a i * h.bval t b i)
  | .vmulh d a b m => bin d a b m (fun i => read a i * h.bval t b i / 2 ^ t.wd)
  | .vmac d a b m =>
    some (plainSpec t.isInt d (a :: ((bVec b).toList ++ [d])) m (fun i =>
      t.wr (h.rd t d i t.wd + read a i * h.bval t b i) true))
  | .vmin d a b m => bin d a b m (fun i => min (extPat true (h.pat a i t.wa) t.wa) (extPat true (h.bpat t b i) t.wb))
  | .vmax d a b m => bin d a b m (fun i => max (extPat true (h.pat a i t.wa) t.wa) (extPat true (h.bpat t b i) t.wb))
  | .vminu d a b m => bin d a b m (fun i => (min (h.pat a i t.wa) (h.bpat t b i) : Nat))
  | .vmaxu d a b m => bin d a b m (fun i => (max (h.pat a i t.wa) (h.bpat t b i) : Nat))
  | .vand d a b m => bits d a b m (fun x y => x &&& y)
  | .vor d a b m => bits d a b m (fun x y => x ||| y)
  | .vxor d a b m => bits d a b m (fun x y => x ^^^ y)
  | .vsll d a b m => bin d a b m (fun i => read a i * 2 ^ shiftBy h t b i)
  | .vsrl d a b m => bin d a b m (fun i => (h.pat a i t.wa / 2 ^ shiftBy h t b i : Nat))
  | .vsra d a b m => bin d a b m (fun i => extPat true (h.pat a i t.wa) t.wa / 2 ^ shiftBy h t b i)
  | .vrsh d a b m => bin d a b m (fun i => nearestEven (read a i) (shiftBy h t b i))
  | .vmulq d a b m =>
    let n : Int := t.wa + t.wb - t.wd - (if t.signed then 1 else 0)
    bin d a b m (fun i => if 0 ≤ n then nearestEven (read a i * h.bval t b i) n.toNat
      else read a i * h.bval t b i * 2 ^ (-n).toNat)
  | .vsat d a m => some (plainSpec t.isInt d [a] m (fun i => { t with sat := true }.wr (read a i) true))
  | .vabs d a m => some (plainSpec t.isInt d [a] m (fun i => t.wr |read a i| true))
  | .vmerge d a b m =>
    some { plainSpec true d (a :: (bVec b).toList) m (fun i =>
      t.wr (if (h.kr m).getLsbD i then h.bval t b i else read a i) false) with all := true, borg := (h.vr a).desc.borg }
  | .vmv d b m =>
    some { plainSpec true d (bVec b).toList m (fun i => t.wr (h.bval t b i) false) with
      borg := match b with
        | .vec n => (h.vr n).desc.borg
        | _ => 0 }
  | .vid d m => some (plainSpec t.isInt d [] m (fun i => t.wr i true))
  | .vplanes d a u p m =>
    some (plainSpec t.isInt d [a] m (fun i =>
      let n := t.wa - (p.toNat + 1)
      t.wr (read a i / 2 ^ n * 2 ^ n + (if u = 1 ∧ 1 ≤ n then 2 ^ (n - 1) else 0)) true))
  | _ => none

/-- The floating instructions of Table 6.6 (R174 to R177). -/
def vfpSpec (s : State) : Instr → Option VecSpec :=
  let h := s.me
  let t := h.vt
  let elem := fun (r : Nat × Exc) => ({ t.put r.1 with exc := r.2 } : Elem)
  let bin := fun (op : FOp) (d a : Reg) (b : VsSrc) (m : KReg) (acc : Bool) =>
    let extra := if acc then [d] else []
    let third := fun i => if acc then h.pat d i t.wd else 0
    match b with
    | .vec n => some (plainSpec t.isFp d (a :: n :: extra) m (fun i =>
        elem (fpOp t.fmt .rne op (h.pat a i t.wa) (h.pat n i t.wb) (third i))))
    | .scalar r => some { plainSpec t.isFp d (a :: extra) m (fun i =>
        elem (fpOp t.fmt .rne op (h.pat a i t.wa) (h.fscalar t r).1 (third i))) with exc0 := (h.fscalar t r).2 }
  let un := fun (op : FOp) (d a : Reg) (m : KReg) =>
    some (plainSpec t.isFp d [a] m (fun i => elem (fpOp t.fmt .rne op (h.pat a i t.wa) 0 0)))
  fun i => match i with
  | .vfadd d a b m => bin .add d a b m false
  | .vfsub d a b m => bin .sub d a b m false
  | .vfmul d a b m => bin .mul d a b m false
  | .vfdiv d a b m => bin .div d a b m false
  | .vffma d a b m => bin .ffma d a b m true
  | .vfmin d a b m => bin .min d a b m false
  | .vfmax d a b m => bin .max d a b m false
  | .vfsqrt d a m => un .sqrt d a m
  | .vfexp2 d a m => un .exp2 d a m
  | .vfrcp d a m => un .rcp d a m
  | .vfabs d a m => some (plainSpec t.isFp d [a] m (fun i => t.put (h.pat a i t.wa % 2 ^ (t.wa - 1))))
  | .vfneg d a m => some (plainSpec t.isFp d [a] m (fun i =>
      t.put (if (h.pat a i t.wa).testBit (t.wa - 1) then h.pat a i t.wa - 2 ^ (t.wa - 1)
        else h.pat a i t.wa + 2 ^ (t.wa - 1))))
  | _ => none

/-- The hart after a vector instruction with an element-by-element result: body elements that are active, or all of them,
hold the result, masked-off ones zeros when MZ = 1; descriptors, counts and exceptions as R107, R166 and R168 give. -/
def VecSpec.after (v : VecSpec) (h : Hart) : Hart :=
  let o := h.frame h.vt v.mask v.all v.elem
  { (h.writeGroup v.d h.vt v.borg o.writes).countSat o.count with
    vstart := 0, fflags := fflagsVector h.fflags (v.exc0.or o.exc) }

/-- What an instruction with a mask destination computes: the bit and the exceptions of a body element. -/
structure MaskSpec where
  kindOk : Bool
  d : KReg
  srcs : List Reg
  mask : KReg
  bit : Nat → Bool × Exc

/-- The compares of Table 5.1 and the mask operations of Table 5.2. -/
def maskSpec (s : State) : Instr → Option MaskSpec :=
  let h := s.me
  let t := h.vt
  let int := fun (d : KReg) (a : Reg) (b : BSrc) (m : KReg) (f : Nat → Bool) =>
    some (MaskSpec.mk t.isInt d (a :: (bVec b).toList) m (fun i => (f i, .none)))
  let flt := fun (d : KReg) (a : Reg) (b : VsSrc) (m : KReg) (f : Val → Val → Bool × Exc) =>
    match b with
    | .vec n => some (MaskSpec.mk t.cmpKind d [a, n] m (fun i =>
        f (t.fmt.decode (h.pat a i t.wa)) (t.fmt.decode (h.pat n i t.wb))))
    | .scalar r => some (MaskSpec.mk t.cmpKind d [a] m (fun i =>
        f (t.fmt.decode (h.pat a i t.wa)) (t.fmt.decode ((h.xr r).toNat % 2 ^ t.wb))))
  let order := fun (quiet : Bool) (rel : Int → Bool) (x y : Val) =>
    if x.isNan ∨ y.isNan then (false, Exc.nvIf (!quiet || x.isSnan || y.isSnan)) else (rel (cmpVal x y), Exc.none)
  let mask := fun (d : KReg) (f : Nat → Bool) => some (MaskSpec.mk true d [] 0 (fun i => (f i, .none)))
  fun i => match i with
  | .vcmpeq d a b m => int d a b m (fun i => decide (h.rd t a i t.wa = h.bval t b i))
  | .vcmpne d a b m => int d a b m (fun i => decide (h.rd t a i t.wa ≠ h.bval t b i))
  | .vcmplt d a b m =>
    int d a b m (fun i => decide (extPat true (h.pat a i t.wa) t.wa < extPat true (h.bpat t b i) t.wb))
  | .vcmple d a b m =>
    int d a b m (fun i => decide (extPat true (h.pat a i t.wa) t.wa ≤ extPat true (h.bpat t b i) t.wb))
  | .vcmpltu d a b m => int d a b m (fun i => decide (h.pat a i t.wa < h.bpat t b i))
  | .vcmpleu d a b m => int d a b m (fun i => decide (h.pat a i t.wa ≤ h.bpat t b i))
  | .vfcmpeq d a b m => flt d a b m (order true (fun c => decide (c = 0)))
  | .vfcmplt d a b m => flt d a b m (order false (fun c => decide (c < 0)))
  | .vfcmple d a b m => flt d a b m (order false (fun c => decide (c ≤ 0)))
  | .vfcmpuo d a b m => flt d a b m (fun x y => (x.isNan || y.isNan, Exc.nvIf (x.isSnan || y.isSnan)))
  | .kand d a b => mask d (fun i => (h.kr a).getLsbD i && (h.kr b).getLsbD i)
  | .kor d a b => mask d (fun i => (h.kr a).getLsbD i || (h.kr b).getLsbD i)
  | .kxor d a b => mask d (fun i => (h.kr a).getLsbD i ^^ (h.kr b).getLsbD i)
  | .kandn d a b => mask d (fun i => (h.kr a).getLsbD i && !(h.kr b).getLsbD i)
  | .knot d a => mask d (fun i => !(h.kr a).getLsbD i)
  | .kmov d a => mask d (fun i => (h.kr a).getLsbD i)
  | .kset d a => mask d (fun i => decide (i < (h.xr a).toNat))
  | _ => none

/-- A mask destination is free of copies in flight, and so is the copy register's mask (R134, R294). -/
def State.MaskFree (s : State) (k : KReg) : Prop :=
  s.maskOwned s.cur k = false ∧ ∀ d2, s.me.copyReg = some d2 → s.maskOwned s.cur (kOf d2) = false

/-- The integer reductions of Table 5.5 as one fold over the active elements, from x[b] (R147, R150). -/
def reduceSpec (s : State) : Instr → Option (Reg × Reg × KReg × Word) :=
  let h := s.me
  let t := h.vt
  let on := fun (m : KReg) => (List.range h.vl.toNat).filter (fun i => h.active m i)
  let low := fun (a : Reg) (i : Nat) => h.pat a i t.wa
  fun i => match i with
  | .vredsum d a b m =>
    some (d, a, m, BitVec.ofInt 64 ((h.xr b).toInt + ((on m).map (fun i => h.rd t a i t.wa)).sum))
  | .vredmax d a b m =>
    some (d, a, m, BitVec.ofInt 64 (((on m).map (fun i => extPat true (low a i) t.wa)).foldl max (h.xr b).toInt))
  | .vredmin d a b m =>
    some (d, a, m, BitVec.ofInt 64 (((on m).map (fun i => extPat true (low a i) t.wa)).foldl min (h.xr b).toInt))
  | .vredmaxu d a b m => some (d, a, m, BitVec.ofNat 64 (((on m).map (low a)).foldl max (h.xr b).toNat))
  | .vredminu d a b m => some (d, a, m, BitVec.ofNat 64 (((on m).map (low a)).foldl min (h.xr b).toNat))
  | .vredand d a b m =>
    some (d, a, m, ((on m).map (fun i => BitVec.ofInt 64 (h.rd t a i t.wa))).foldl (fun x y => x &&& y) (h.xr b))
  | .vredor d a b m =>
    some (d, a, m, ((on m).map (fun i => BitVec.ofInt 64 (h.rd t a i t.wa))).foldl (fun x y => x ||| y) (h.xr b))
  | _ => none

/-- The permutations of R144: the vector groups read, the mask, and the elements written. -/
def permSpec (s : State) : Instr → Option (Reg × List Reg × List (Nat × Elem)) :=
  let h := s.me
  let t := h.vt
  let n := h.vl.toNat
  let value := fun (a : Reg) (j : Nat) => if j < 32768 then h.rd t a j t.wa else 0
  let masked := fun (m : KReg) (from_ : Nat) (f : Nat → Elem) =>
    (List.range' from_ (n - from_)).filterMap (fun i =>
      if h.active m i then some (i, f i) else if t.mz then some (i, ({ pat := 0 } : Elem)) else none)
  let on := fun (m : KReg) => (List.range n).filter (fun i => (h.kr m).getLsbD i)
  fun i => match i with
  | .vcompress d a m =>
    some (d, [a], (List.range (on m).length).map (fun c => (c, t.wr (h.rd t a ((on m).getD c 0) t.wa) false)) ++
      (if t.mz then (List.range' (on m).length (n - (on m).length)).map (fun i => (i, ({ pat := 0 } : Elem))) else []))
  | .vexpand d a m =>
    some (d, [a], (List.range (on m).length).map (fun c => ((on m).getD c 0, t.wr (h.rd t a c t.wa) false)) ++
      (if t.mz then ((List.range n).filter (fun i => !(h.kr m).getLsbD i)).map (fun i => (i, ({ pat := 0 } : Elem)))
        else []))
  | .vslideup d a b m =>
    let k := match b with
      | .scalar r => min (h.xr r).toNat 32768
      | .imm v => (max 0 (min v.toInt 32768)).toNat
    some (d, [a], masked m k (fun i => t.wr (h.rd t a (i - k) t.wa) false))
  | .vslidedn d a b m =>
    let k := match b with
      | .scalar r => min (h.xr r).toNat 32768
      | .imm v => (max 0 (min v.toInt 32768)).toNat
    some (d, [a], masked m 0 (fun i => t.wr (value a (i + k)) false))
  | .vperm d a b m => some (d, [a, b], masked m 0 (fun i => t.wr (value a (h.pat b i t.wb)) false))
  | .vbcast d a b m => some (d, [a], masked m 0 (fun _ => t.wr (value a (h.xr b).toNat) false))
  | .vprefpop d a m =>
    if t.isInt then
      some (d, [], masked m 0 (fun i =>
        t.wr (((List.range i).filter (fun j => (h.kr a).getLsbD j)).length : Int) true))
    else none
  | .vconflict d a m =>
    some (d, [a], masked m 0 (fun i =>
      t.put ((((List.range i).filter (fun j => h.active m j && h.pat a j t.wa == h.pat a i t.wa)).getLast?).getD
        (2 ^ t.wd - 1))))
  | _ => none

/-! ### Vector memory, byte by byte (R205 to R208, R211 to R218) -/

/-- A physical address of this module's global memory or of a local memory of it (Table 7.2). -/
def State.inModule (s : State) (pa : Nat) : Bool :=
  match s.region pa with
  | .global | .spad _ _ | .sdm _ _ => true
  | _ => false

/-- Where the executing hart reads the byte at va, when nothing stops the read: it is located in this module, no belay
forbids it, its line is not locked and holds no uncorrectable word (R211, R219, R244). -/
def State.readPlace (s : State) (va : Word) : Option Place :=
  match s.probeByte .read 0 va with
  | .error _ => none
  | .ok p =>
    if s.inModule p.pa = true ∧ (s.readError s.cur [p]).isNone ∧ (s.lockCheck s.cur [p]).isNone then some p else none

/-- Where the executing hart writes the byte at va, when nothing stops the write: it is located in this module, no belay
forbids it, its line is not locked and its line or local word is sound (R211, R219, R244). -/
def State.writePlace (s : State) (va : Word) : Option Place :=
  match s.probeByte .write 0 va with
  | .error _ => none
  | .ok p =>
    if s.inModule p.pa = true ∧ (s.spoiled [] p.pa).isNone ∧ (s.lockCheck s.cur [p]).isNone then some p else none

/-- The byte the executing hart reads at va. -/
def State.vaByte (s : State) (va : Word) : Byte :=
  match s.readPlace va with
  | some p => s.readByte s.cur p.pa
  | none => 0

/-- An address is a byte of a page table leaf that an access to the addresses `vas` marks, when `f` places them (R198). -/
def markedBy (f : Word → Option Place) (vas : List Word) (a : Nat) : Prop :=
  ∃ va ∈ vas, ∃ p m, f va = some p ∧ p.mark = some m ∧ m.entry.pteAddr ≤ a ∧ a < m.entry.pteAddr + 8

/-- The bytes at virtual addresses can all be read, and none of them lies in a leaf that the read marks (R198). -/
def State.readsApart (s : State) (vas : List Word) : Prop :=
  ∀ va ∈ vas, ∃ p, s.readPlace va = some p ∧ ¬ markedBy s.readPlace vas p.pa

/-- Entry n of an array of 32-bit values at a virtual address. -/
def State.word32 (s : State) (base : Word) (n : Nat) : Nat :=
  leNat ((addrsFrom (base + BitVec.ofNat 64 (4 * n)) 4).map s.vaByte)

/-- ptrA(i): the row pointers of a CSR stream, or the ends of a list (R304). -/
def State.weavePtr (s : State) (c : Cursor) (i : Nat) : Nat :=
  if c.acsr then s.word32 (c.desc.get 2) i else if i = c.afirst then 0 else c.acount

/-- The pairs that intersect, or union, emits for a row whose A positions end at hi, from positions pa and pb on; `fuel` is at
least the number of positions left (R304). -/
def mergePairs (union : Bool) (a b : Nat → Nat) (hi blen row : Nat) : Nat → Nat → Nat → List Pair
  | 0, _, _ => []
  | fuel + 1, pa, pb =>
    if pa < hi ∧ pb < blen then
      if a pa < b pb then
        (if union then [⟨pa, noPos, row⟩] else []) ++ mergePairs union a b hi blen row fuel (pa + 1) pb
      else if b pb < a pa then
        (if union then [⟨noPos, pb, row⟩] else []) ++ mergePairs union a b hi blen row fuel pa (pb + 1)
      else ⟨pa, pb, row⟩ :: mergePairs union a b hi blen row fuel (pa + 1) (pb + 1)
    else if union then
      (List.range' pa (hi - pa)).map (fun n => ⟨n, noPos, row⟩) ++ (List.range' pb (blen - pb)).map (fun n => ⟨noPos, n, row⟩)
    else []

/-- The fixed sequence of pairs of a cursor at its start (R304). -/
def State.weavePairs (s : State) (c : Cursor) : List Pair :=
  let a := s.word32 (c.desc.get 1)
  let b := s.word32 (c.desc.get 4)
  let q := s.word32 (c.desc.get 5)
  (List.range' c.row (c.afirst + c.rows - c.row)).flatMap (fun i =>
    let lo := max (s.weavePtr c i) c.wlo
    let hi := min (s.weavePtr c (i + 1)) c.whi
    if c.mode = 2 then
      (List.range' lo (hi - lo)).flatMap (fun n =>
        if a n < c.blen then (List.range' (q (a n)) (q (a n + 1) - q (a n))).map (fun m => ⟨n, m, i⟩) else [])
    else mergePairs (c.mode == 1) a b hi c.blen i (hi + c.blen) lo 0)

/-- The addresses of every entry that the sequence of a cursor may read: A's row pointers, A in the window, and B or, in
expand, B's row pointers (R304). -/
def Cursor.entries (c : Cursor) : List Word :=
  let all := fun (base : Word) (ns : List Nat) => ns.flatMap (fun n => addrsFrom (base + BitVec.ofNat 64 (4 * n)) 4)
  (if c.acsr then all (c.desc.get 2) (List.range' c.afirst (c.acount + 1)) else []) ++
    all (c.desc.get 1) (List.range' c.wlo (c.whi - c.wlo)) ++
    (if c.mode = 2 then all (c.desc.get 5) (List.range (c.blen + 1)) else all (c.desc.get 4) (List.range c.blen))

/-- The streams of a cursor are in order: row pointers nondecreasing, and the indices that the mode compares strictly ascending
within each row (R303, R304). -/
def State.WeaveInOrder (s : State) (c : Cursor) : Prop :=
  let a := s.word32 (c.desc.get 1)
  let b := s.word32 (c.desc.get 4)
  let q := s.word32 (c.desc.get 5)
  (∀ i, c.afirst ≤ i → i < c.afirst + c.rows → s.weavePtr c i ≤ s.weavePtr c (i + 1) ∧
    (c.mode ≠ 2 → ∀ n, max (s.weavePtr c i) c.wlo < n → n < min (s.weavePtr c (i + 1)) c.whi → a (n - 1) < a n)) ∧
  (c.mode ≠ 2 → ∀ n, 0 < n → n < c.blen → b (n - 1) < b n) ∧ (c.mode = 2 → ∀ j, j < c.blen → q j ≤ q (j + 1))

/-- What runs of the loop of R307 emit one after another, each with its cap, its units and its first element, the cursor after
them, and whether none stopped. -/
def State.weaveRuns (s : State) (w : BitVec 32) : List (Nat × Nat × Nat) → Cursor → List (Nat × Pair × Bool) × Cursor × Bool
  | [], c => ([], c, true)
  | (cap, fuel, e) :: rest, c =>
    let r := s.weaveLoop w cap fuel
      { cur := c, io := { reader := s.me.reader, places := [] }, e := e, out := [], stop := none }
    let t := s.weaveRuns w rest r.cur
    (r.out.reverse ++ t.1, t.2.1, r.stop.isNone && t.2.2)

/-- The writes in a core's queue reach their homes as they stand: nothing is uncorrectable, and no write is of an earlier
fence generation or for a chiplet out of service (R227, R346, R362). -/
def State.QueueSound (s : State) (c : CoreId) : Prop :=
  s.clean = true ∧ s.inService (chipletOf c) = true ∧
  ∀ w ∈ (s.core c).queue, (s.chiplet (chipletOf (coreOf w.hart))).gen = w.gen ∧ ∀ b ∈ w.bytes, s.homeLost b.pa = false

/-- The byte at a after bytes with masks are written in order at virtual addresses. -/
def State.byteAfter (s : State) (ws : List (Word × Byte × Byte)) (a : Nat) : Byte :=
  ws.foldl (fun old w =>
    match s.writePlace w.1 with
    | some p => if p.pa = a then (old &&& ~~~w.2.2) ||| (w.2.1 &&& w.2.2) else old
    | none => old) (s.readByte s.cur a)

/-- Array element n of width w at ea in WORD layout, bit by bit: element n lies in bits n·w up (R205). -/
def State.arrayElem (s : State) (ea : Word) (w : Nat) (n : Int) : Nat :=
  ((List.range w).map (fun b : Nat =>
    if (s.vaByte (ea + BitVec.ofInt 64 ((n * w + b) / 8))).getLsbD ((n * w + b) % 8).toNat then 2 ^ b else 0)).sum

/-- Byte n of plane p's row of PLANE group g: a group holds 16 header bytes and 128 bytes for each plane, the highest plane
first (R206). -/
def rowByte (ea : Word) (w g p n : Nat) : Word :=
  ea + BitVec.ofNat 64 (g * (16 + 128 * w) + 16 + 128 * (w - 1 - p) + n)

/-- The byte that holds plane p of element i. -/
def planeByte (ea : Word) (w p i : Nat) : Word := rowByte ea w (i / 1024) p (i % 1024 / 8)

/-- Element i of PLANE groups of stored width w at ea, its planes from lo up: a plane that the group's PMASK does not name
is 0 (R206, R213, R215). -/
def State.planeElem (s : State) (ea : Word) (w lo i : Nat) : Nat :=
  let hdr := ea + BitVec.ofNat 64 (i / 1024 * (16 + 128 * w))
  let mask := (s.vaByte hdr).toNat + 256 * (s.vaByte (hdr + 1)).toNat
  ((List.range (w - lo)).map (fun j =>
    if mask.testBit (lo + j) && (s.vaByte (planeByte ea w (lo + j) i)).getLsbD (i % 8) then 2 ^ j else 0)).sum

/-- The addresses of element i in PLANE layout: its group's header and the rows of the named planes (R211). -/
def State.planeAddrs (s : State) (ea : Word) (w lo i : Nat) : List Word :=
  let hdr := ea + BitVec.ofNat 64 (i / 1024 * (16 + 128 * w))
  let mask := (s.vaByte hdr).toNat + 256 * (s.vaByte (hdr + 1)).toNat
  addrsFrom hdr 16 ++
    ((List.range' lo (w - lo)).filter (fun p => mask.testBit p)).flatMap (fun p =>
      (List.range 128).map (rowByte ea w (i / 1024) p))

/-- The chunk offset of element i in a BCF table (R208). -/
def State.bcfOffset (s : State) (tab : Word) (i : Nat) : Nat :=
  leNat ((addrsFrom (tab + BitVec.ofNat 64 (4 * (i / 128))) 4).map s.vaByte)

/-- Whether element i of a BCF array is stored, and the position of its value in the chunk. -/
def State.bcfEntry (s : State) (ea tab : Word) (i : Nat) : Option Nat :=
  let bits := leNat ((addrsFrom (ea + BitVec.ofNat 64 (s.bcfOffset tab i)) 16).map s.vaByte)
  if bits.testBit (i % 128) then some ((List.range (i % 128)).filter (fun j => bits.testBit j)).length else none

/-- A vector load: the condition on vtype, the encodings it takes, its destination, index and mask registers, the block
origin it stamps, and for element i the addresses it reads, whether its table entry is good and its planes' pattern. -/
structure VLoadForm where
  kindOk : Bool
  encs : List Enc
  d : Reg
  srcs : List Reg
  mask : KReg
  ea : Word
  tab : Option Word
  borg : BitVec 13
  addrs : Nat → List Word
  good : Nat → Bool
  pat : Nat → Nat

/-- The load forms of Table 7.8. -/
def vloadForm (s : State) : Instr → Option VLoadForm :=
  let h := s.me
  let t := h.vt
  let word := fun (encs : List Enc) (d a : Reg) (srcs : List Reg) (m : KReg) (n : Nat → Int) =>
    let ea := h.xr a
    let plane := h.enc == .plane
    some ({ kindOk := true, encs := encs, d := d, srcs := srcs, mask := m, ea := ea, tab := none,
            borg := if h.enc = .mx then BitVec.ofNat 13 (h.sidx.toNat / 32) else 0,
            addrs := fun i => if plane then s.planeAddrs ea t.wd 0 i else (wordBytes ea t.wd (n i)).2,
            good := fun _ => true,
            pat := fun i => t.spread (if plane then s.planeElem ea t.wd 0 i else s.arrayElem ea t.wd (n i)) } : VLoadForm)
  fun i => match i with
  | .vld d a m => word [.word, .plane, .mx] d a [] m (fun i => i)
  | .vldff d a m => word [.word, .mx] d a [] m (fun i => i)
  | .vlds d a x m => word [.word] d a [] m (fun i => (i : Int) * (h.xr x).toInt)
  | .vldx d a x m => word [.word] d a [x] m (fun i => h.pat x i t.wb)
  | .vldc d a x m =>
    let ea := h.xr a
    let tab := h.xr x
    let base := fun (i : Nat) => ea + BitVec.ofNat 64 (s.bcfOffset tab i)
    some { kindOk := true, encs := [.bcf], d := d, srcs := [], mask := m, ea := ea, tab := some tab, borg := 0,
           addrs := fun i => addrsFrom (tab + BitVec.ofNat 64 (4 * (i / 128))) 4 ++ addrsFrom (base i) 16 ++
             (match s.bcfEntry ea tab i with
              | some q => (wordBytes (base i + 16) t.wd q).2
              | none => []),
           good := fun i => decide (s.bcfOffset tab i < 2 ^ 31) && s.bcfOffset tab i % 16 == 0,
           pat := fun i => t.spread (match s.bcfEntry ea tab i with
             | some q => s.arrayElem (base i + 16) t.wd q
             | none => 0) }
  | .vldp d a m p =>
    let sw := h.vtype.toNat / 16 % 16 + 1
    let n := p.toNat + 1
    some { kindOk := decide (n ≤ sw) && decide (n ≤ h.vtype.toNat % 16 + 1), encs := [.plane], d := d, srcs := [],
           mask := m, ea := h.xr a, tab := none, borg := 0, addrs := s.planeAddrs (h.xr a) sw (sw - n),
           good := fun _ => true,
           pat := fun i => t.spread ((extPat t.signed (s.planeElem (h.xr a) sw (sw - n) i) n) % 2 ^ t.wd).toNat }
  | _ => none

/-- The memory checks of R210 that a vector access passes beside those of R119: its encoding, the MX origin, alignment. -/
def Hart.MemReady (h : Hart) (encs : List Enc) (ea : Word) (tab : Option Word) : Prop :=
  h.encOk encs = true ∧ (h.enc = .mx → h.sidx.toNat % 32 = 0) ∧ h.memAlign ea tab = none

/-- The active body elements of a mask, in order. -/
def Hart.activeBody (h : Hart) (m : KReg) : List Nat := h.body.filter (fun i => h.active m i)

/-- What a load writes: the elements' patterns, and zeros in masked-off elements with MZ = 1. -/
def Hart.loaded (h : Hart) (m : KReg) (pat : Nat → Nat) : List (Nat × Nat) :=
  (h.activeBody m).map (fun i => (i, pat i)) ++
    (if h.vt.mz then (h.body.filter (fun i => !h.active m i)).map (fun i => (i, 0)) else [])

/-- The bytes and masks of a w-bit pattern at array position n of WORD layout (R205). -/
def wordPut (ea : Word) (w : Nat) (n : Int) (u : Nat) : List (Word × Byte × Byte) :=
  let shift := (n * w % 8).toNat
  ((wordBytes ea w n).2.zipIdx).map (fun x =>
    (x.1, BitVec.ofNat 8 (u % 2 ^ w * 2 ^ shift / 256 ^ x.2), BitVec.ofNat 8 ((2 ^ w - 1) * 2 ^ shift / 256 ^ x.2)))

/-- The header update of a PLANE group in which the elements `is` are written: the planes that are 1 in one of them are
set in PMASK, WM1 takes w − 1, and what lies above becomes 0 (R206). -/
def headerPut (base : Word) (w : Nat) (data : Nat → Nat) (is_ : List Nat) : List (Word × Byte × Byte) :=
  let mask := ((List.range w).map (fun p => if is_.any (fun i => (data i).testBit p) then 2 ^ p else 0)).sum
  (List.range 16).map (fun j =>
    if j < 2 then (base + BitVec.ofNat 64 j, BitVec.ofNat 8 (mask / 256 ^ j), BitVec.ofNat 8 (mask / 256 ^ j))
    else (base + BitVec.ofNat 64 j, if j = 2 then BitVec.ofNat 8 (w - 1) else 0, 0xFF))

/-- A vector store: the encodings, the vector groups it reads, its mask and address, the addresses that element i
touches, and its byte writes in order. -/
structure VStoreForm where
  encs : List Enc
  srcs : List Reg
  mask : KReg
  ea : Word
  addrs : Nat → List Word
  writes : List (Word × Byte × Byte)

/-- The store forms of Table 7.8. -/
def vstoreForm (s : State) : Instr → Option VStoreForm :=
  let h := s.me
  let w := h.vt.wd
  let form := fun (encs : List Enc) (v a : Reg) (idx : List Reg) (m : KReg) (n : Nat → Int) =>
    let ea := h.xr a
    let data := fun (i : Nat) => h.pat v i w
    let on := h.activeBody m
    let hdr := fun (i : Nat) => ea + BitVec.ofNat 64 (i / 1024 * (16 + 128 * w))
    let rows := (List.range w).reverse
    if h.enc = .plane then
      some ({ encs := encs, srcs := v :: idx, mask := m, ea := ea,
              addrs := fun i => addrsFrom (hdr i) 16 ++ rows.flatMap (fun p => (List.range 128).map (rowByte ea w (i / 1024) p)),
              writes := on.flatMap (fun i =>
                (if on.find? (fun j => j / 1024 == i / 1024) = some i then
                  headerPut (hdr i) w data (on.filter (fun j => j / 1024 == i / 1024)) else []) ++
                rows.map (fun p => (planeByte ea w p i, if (data i).testBit p then BitVec.twoPow 8 (i % 8) else 0,
                  BitVec.twoPow 8 (i % 8)))) } : VStoreForm)
    else
      some { encs := encs, srcs := v :: idx, mask := m, ea := ea, addrs := fun i => (wordBytes ea w (n i)).2,
             writes := on.flatMap (fun i => wordPut ea w (n i) (data i)) }
  fun i => match i with
  | .vst v a m => form [.word, .plane, .mx] v a [] m (fun i => i)
  | .vsts v a x m => form [.word] v a [] m (fun i => (i : Int) * (h.xr x).toInt)
  | .vstx v a x m => form [.word] v a [x] m (fun i => h.pat x i h.vt.wb)
  | .vstxu v a x m => form [.word] v a [x] m (fun i => h.pat x i h.vt.wb)
  | _ => none

/-- A store's outcome: the hart x, with no translation kept, is the executing hart after it, no other hart changes, and,
where queued writes reach their homes as they stand, every byte the hart then reads is what the writes leave, but for the
leaves it marks. -/
def State.stored (s : State) (vas : List Word) (ws : List (Word × Byte × Byte)) (x : Hart) (o : Out) : Prop :=
  ∃ t, o = .next t ∧ t.me = { x with pins := [] } ∧ t.cur = s.cur ∧ s.sameOthers t ∧
    (s.QueueSound (coreOf s.cur) → ∀ a, ¬ markedBy s.writePlace vas a → t.readByte s.cur a = s.byteAfter ws a)

/-- A load's outcome: the hart x, with no translation kept, is the executing hart after it, no other hart and no queue
changes, and memory keeps every byte but those of the leaves it marks. -/
def State.loadedAs (s : State) (vas : List Word) (x : Hart) (o : Out) : Prop :=
  ∃ t, o = .next t ∧ t.me = { x with pins := [] } ∧ t.cur = s.cur ∧ s.sameOthers t ∧ s.sameQueues t ∧
    ∀ a, ¬ markedBy s.readPlace vas a → memGet t.mem a = memGet s.mem a

/-- The index of a VAMO operation (Table 8.3) and its operands: source or destination group, address, index group, mask
and the .nr bit. -/
def vamoSpec : Instr → Option (Nat × Reg × Reg × Reg × KReg × Bool)
  | .vamoadd v a x m nr => some (0, v, a, x, m, nr)
  | .vamomin v a x m nr => some (1, v, a, x, m, nr)
  | .vamomax v a x m nr => some (2, v, a, x, m, nr)
  | .vamoand v a x m nr => some (3, v, a, x, m, nr)
  | .vamoor v a x m nr => some (4, v, a, x, m, nr)
  | .vamoxor v a x m nr => some (5, v, a, x, m, nr)
  | .vamoswap v a x m nr => some (6, v, a, x, m, nr)
  | _ => none

/-! ### The checks of the vector instructions, in the manual's order (R119, R136, R180, R187, R210, R250, R272, R276) -/

/-- A run-time check: whether it fails, its cause and its tval. -/
abbrev RunCheck := Bool × BitVec 7 × Word

/-- The cause and tval of the first check that fails. -/
def firstFailing (l : List RunCheck) : Option (BitVec 7 × Word) := (l.find? (fun c => c.1)).map (fun c => c.2)

/-- VTYPE_BAD, when VILL = 1 or the kind is refused. -/
def Hart.typeCheck (h : Hart) (ok : Bool) : RunCheck := (h.vt.ill || !ok, 0x10, h.vtype.setWidth 64)
/-- VGROUP_ALIGN for registers in order, and last, for an instruction with a vector destination, the copy register of a live
prefix (R41). -/
def Hart.groupChecks (h : Hart) (dest : Bool) (rs : List Reg) : List RunCheck :=
  (rs ++ if dest then h.copyReg.toList else []).map (fun r => (r.toNat % 2 ^ h.vt.ig != 0, 0x11, r.setWidth 64))
/-- VSTART_RANGE where vstart must be below vl. -/
def Hart.belowCheck (h : Hart) : RunCheck := (decide (h.vl.toNat ≤ h.vstart.toNat), 0x13, h.vstart.setWidth 64)
/-- VSTART_RANGE where vstart must be 0. -/
def Hart.zeroCheck (h : Hart) : RunCheck := (h.vstart != 0, 0x13, h.vstart.setWidth 64)
/-- MASK_OWNED of a mask destination, and of the copy register's (R134). -/
def State.ownedChecks (s : State) (k : KReg) : List RunCheck :=
  (k :: s.me.copyReg.toList.map kOf).map (fun k => (s.maskOwned s.cur k, 0x43, k.setWidth 64))
/-- MX_SHAPE when sidx is no multiple of 32 (R170). -/
def Hart.originCheck (h : Hart) : RunCheck := (h.sidx.toNat % 32 != 0, 0x32, h.sidx)
/-- MX_SHAPE and SCALE_SKEW of a pair (vn, qn) for a number of elements (R171). -/
def Hart.pairChecks (h : Hart) (n : Reg) (len : Nat) : List RunCheck :=
  [(decide ((h.qr n).nblk.toNat < (len + 31) / 32), 0x32, (h.qr n).nblk.setWidth 64),
   ((h.vr n).desc.borg != (h.qr n).org, 0x33,
     BitVec.ofNat 64 (n.toNat * 2 ^ 32 + (h.vr n).desc.borg.toNat * 2 ^ 16 + (h.qr n).org.toNat))]
/-- The checks of a VCVT operation with a conversion word in x[b]: its kinds, its source's kinds, vd and va (R178, R180). -/
def Hart.convChecks (h : Hart) (destOk : Bool) (srcOk : BitVec 4 → Bool) (d a b : Reg) : List RunCheck :=
  let word : RunCheck := (match convOf (h.xr b) with
    | some c => !srcOk c.kind
    | none => true, 0x10, h.xr b)
  let regs := match convOf (h.xr b) with
    | some c => c.regs
    | none => 1
  [h.typeCheck destOk, word] ++ h.groupChecks false [d] ++ [(a.toNat % regs != 0, 0x11, a.setWidth 64)] ++ h.groupChecks true []
/-- The checks of a vector access (R210). -/
def Hart.accessChecks (h : Hart) (ok : Bool) (encs : List Enc) (dest : Bool) (rs : List Reg) (ea : Word)
    (tab : Option Word) : List RunCheck :=
  [h.typeCheck ok, (!h.encOk encs, 0x12, h.mfmt.setWidth 64)] ++ h.groupChecks dest rs ++
    [h.belowCheck, (h.enc == .mx && h.sidx.toNat % 32 != 0, 0x32, h.sidx),
     ((h.memAlign ea tab).isSome, 0x25, (h.memAlign ea tab).getD 0)]

/-- The run-time checks of the vector, mask, scale and tile instructions, in order. -/
def checksOf (s : State) (i : Instr) : Option (List RunCheck) :=
  let h := s.me
  let t := h.vt
  let elems := fun (v : VecSpec) => h.typeCheck v.kindOk :: (h.groupChecks true (v.d :: v.srcs) ++ [h.belowCheck])
  let perm := fun (ok dest : Bool) (rs : List Reg) => some (h.typeCheck ok :: (h.groupChecks dest rs ++ [h.zeroCheck]))
  let slice := fun (v x : Reg) (c : BitVec 1) (dest : Bool) =>
    let n := h.vl.toNat - 1
    let idx := (h.xr x).toNat % 512
    let out := if c = 1 then decide (h.tileN ≤ idx + n / h.tileM)
      else decide (h.tileN = 0) || decide (h.tileM ≤ idx + n / h.tileN)
    some ((!s.ownsTile, 0x30, 0) :: h.typeCheck true ::
      (h.groupChecks dest [v] ++ [h.belowCheck, (decide (h.tileM = 0) || out, 0x31, h.xr x)]))
  match (vintSpec s i).orElse (fun _ => vfpSpec s i), maskSpec s i, reduceSpec s i, vloadForm s i, vstoreForm s i,
      vamoSpec i with
  | some v, _, _, _, _, _ => some (elems v)
  | _, some v, _, _, _, _ =>
    some (h.typeCheck v.kindOk :: (h.groupChecks false v.srcs ++ h.belowCheck :: s.ownedChecks v.d))
  | _, _, some (_, a, _, _), _, _, _ => perm t.isInt false [a]
  | _, _, _, some f, _, _ => some (h.accessChecks f.kindOk f.encs true (f.d :: f.srcs) f.ea f.tab)
  | _, _, _, _, some f, _ => some (h.accessChecks true f.encs false f.srcs f.ea none)
  | _, _, _, _, _, some (op, v, a, x, m, nr) =>
    some ([(s.inBelay s.cur && (!nr || op == 6), 0x52,
        (packVM 0x2C v a x m (BitVec.ofNat 4 op) (boolBit nr ++ (0 : BitVec 3))).setWidth 64),
      h.typeCheck (vamoKind op t), (h.enc != .word, 0x12, h.mfmt.setWidth 64)] ++ h.groupChecks (!nr) [v, x] ++
      [h.zeroCheck, ((h.xr a).toNat % (t.wd / 8) != 0, 0x25, h.xr a)])
  | _, _, _, _, _, _ =>
    match i with
    | .vcompress d a _ | .vexpand d a _ | .vslideup d a _ _ | .vslidedn d a _ _ | .vbcast d a _ _ | .vconflict d a _ =>
      perm true true [d, a]
    | .vperm d a b _ => perm true true [d, a, b]
    | .vprefpop d _ _ => perm t.isInt true [d]
    | .vins d _ _ _ => perm true true [d]
    | .vext _ a _ => perm true false [a]
    | .kpopc _ _ _ | .kfirst _ _ _ => perm true false []
    | .vscan d a _ _ | .vscanSeg d a _ _ => perm t.isInt true [d, a]
    | .vcvt d a b _ => some (h.convChecks (decide (t.kind.toNat ≤ 11)) (fun _ => true) d a b ++ [h.belowCheck])
    | .vdeq d a b _ =>
      some (h.convChecks (isFpKind t.kind) isMxKind d a b ++ h.belowCheck :: h.pairChecks a h.vl.toNat)
    | .vquant d a b => some (h.convChecks (isMxKind t.kind) isFpKind d a b ++ [h.zeroCheck, h.originCheck])
    | .vsetq _ _ => perm (isMxKind t.kind) false []
    | .vqmvQv d _ => perm t.isInt true [d]
    | .vqmvVq _ a => perm true false [a]
    | .kld k a imm =>
      let ea := h.xr a + imm.signExtend 64
      some ([h.typeCheck true, h.belowCheck, (ea.toNat % 8 != 0, 0x25, ea)] ++ s.ownedChecks k)
    | .kst _ a imm =>
      let ea := h.xr a + imm.signExtend 64
      some [h.typeCheck true, h.belowCheck, (ea.toNat % 8 != 0, 0x25, ea)]
    | .qld _ _ _ => some [h.typeCheck (isMxKind t.kind), h.zeroCheck, h.originCheck]
    | .qst _ _ _ => some [h.typeCheck true, h.zeroCheck]
    | .mopa z a b _ _ =>
      let cfg := h.zhalf z
      let scaled := cfg.mxs && isMxKind t.kind
      some ([(!s.ownsTile, 0x30, 0), (t.ill || t.ig != 0 || !mopaKind cfg.fp32 t.kind, 0x10, h.vtype.setWidth 64),
          (decide (h.tileM = 0), 0x31, h.tshape), (scaled && h.tileK % 32 != 0, 0x32, h.tshape),
          (decide (h.tileK ≤ h.vstart.toNat), 0x13, h.vstart.setWidth 64)] ++
        if scaled then h.pairChecks a (h.tileM * h.tileK) ++ h.pairChecks b (h.tileN * h.tileK) else [])
    | .mrd _ v x _ c => slice v x c true
    | .mwr _ v x _ c => slice v x c false
    | _ => none

/-- The run-time checks of the floating reductions and VFSCAN, in order (R119, R153). -/
def fpTreeChecks (s : State) : Instr → Option (List RunCheck) :=
  let h := s.me
  let perm := fun (ok dest : Bool) (rs : List Reg) => some (h.typeCheck ok :: (h.groupChecks dest rs ++ [h.zeroCheck]))
  fun i => match i with
  | .vfredsum _ a _ _ | .vfredmax _ a _ _ | .vfredmin _ a _ _ => perm h.vt.isFp false [a]
  | .vfscan d a _ | .vfscanSeg d a _ => perm (h.vt.kind = 4 || h.vt.kind = 5) true [d, a]
  | _ => none

/-- The vector instructions whose result is a scalar register: with vl = 0 they write it too (R142, R145, R152). -/
def namesScalarResult : Instr → Bool
  | .kpopc _ _ _ | .kfirst _ _ _ | .vext _ _ _ => true
  | .vredsum _ _ _ _ | .vredmax _ _ _ _ | .vredmin _ _ _ _ | .vredmaxu _ _ _ _ | .vredminu _ _ _ _ | .vredand _ _ _ _
  | .vredor _ _ _ _ | .vfredsum _ _ _ _ | .vfredmax _ _ _ _ | .vfredmin _ _ _ _ => true
  | _ => false

/-- The permutations that write no element of the body, and so leave the descriptors of vd (R107). -/
def permIdle (s : State) : Instr → Bool
  | .vcompress _ _ m => !s.me.vt.mz && (List.range s.me.vl.toNat).all (fun i => !(s.me.kr m).getLsbD i)
  | .vslideup _ _ b _ => decide (s.me.vl.toNat ≤ match b with
      | .scalar r => min (s.me.xr r).toNat 32768
      | .imm v => (max 0 (min v.toInt 32768)).toNat)
  | _ => false

/-! ### The image of a context (Tables 11.3, 13.6 to 13.8) -/

/-- The doubleword at an offset of the header block, from 8 up, for a context that resumes at `pc` with a status
(Table 13.8). -/
def State.headerAt (s : State) (h : HartId) (pc : Word) (sr : BitVec 16) (off : Nat) : Word :=
  let y := s.hart h
  let cycle := (s.core (coreOf h)).cycle
  match off with
  | 0x008 => pc
  | 0x010 => sr.setWidth 64
  | 0x018 => s.csr h 0x208
  | 0x020 => y.vl.setWidth 64
  | 0x028 => y.vstart.setWidth 64
  | 0x030 => y.vtype.setWidth 64
  | 0x038 => y.mfmt.setWidth 64
  | 0x040 => y.avl
  | 0x048 => y.sidx
  | 0x050 => y.tshape
  | 0x058 => y.zcfg.setWidth 64
  | 0x060 => s.csr h 0x008
  | 0x068 => y.satthr.setWidth 64
  | 0x070 => y.fflags.setWidth 64
  | 0x078 => y.lbeg.get 0
  | 0x080 => s.csr h 0x011
  | 0x088 => y.lbeg.get 1
  | 0x090 => s.csr h 0x013
  | 0x098 => if y.alarm = 0 then 0 else BitVec.ofNat 64 (max (y.alarm.toNat - cycle.toNat) 1)
  | 0x0A0 => y.tvec
  | 0x0A8 => y.asid.setWidth 64
  | 0x0B0 => y.ptbase
  | 0x0B8 => y.hscratch
  | off =>
    let n := off % 0x100 / 8
    if 0x100 < off ∧ off < 0x200 then y.xr (BitVec.ofNat 5 n)
    else if 0x200 ≤ off ∧ off < 0x300 then y.f.toList.getD n 0
    else if 0x300 ≤ off ∧ off < 0x400 then ((y.v.toList[n]?).map VReg.word).getD 0
    else if 0x400 ≤ off ∧ off < 0x500 then ((y.q.toList[n]?).map QReg.word).getD 0
    else 0

/-- Doubleword n of a copy record (Table 11.3). -/
def recordAt (c : Copy) (n : Nat) : Word :=
  if n < 6 then c.d.toList.getD n 0
  else if n = 6 then BitVec.ofNat 64 (c.next % 65536 * 2 ^ 32 + (if c.loc then 128 else 0) + (if c.desc then 64 else 0) +
    8 * c.k.toNat + 4 + c.form.toNat)
  else 0

/-- Byte n of a row of bits. -/
def byteOfRow (p : Plane) (n : Nat) : Byte := BitVec.ofNat 8 (p.toNat / 256 ^ n)

/-- The byte at an offset of the save area that a save of hart h writes, but for doubleword 0; none where it writes none
(Table 13.6, R354, R355). -/
def State.savedByte (s : State) (h : HartId) (pc : Word) (sr : BitVec 16) (o : Nat) : Option Byte :=
  let y := s.hart h
  let core := s.core (coreOf h)
  let byteOf := fun (w : Word) => BitVec.ofNat 8 (w.toNat / 256 ^ (o % 8))
  if o < 8 then none
  else if o < 0x1000 then some (byteOf (s.headerAt h pc sr (o / 8 * 8)))
  else if o < 0x1110 then (if y.shadow.valid then some (y.shadow.image.getD (o - 0x1000) 0) else none)
  else if o < 0x1200 then none
  else if o < 0x1280 then
    ((core.copies.filter (fun c => c.owner == h && !c.retired))[(o - 0x1200) / 64]?).map (fun c =>
      byteOf (recordAt c (o % 64 / 8)))
  else if o < 0x1400 then none
  else if o < 0x1800 then
    match core.slots.toList.getD ((o - 0x1400) / 128) none with
    | some x => if x.owner = h then some (x.cur.image.getD (o % 128) 0) else none
    | none => none
  else if o < 0x4000 then none
  else if o < 0xC000 then (y.k.toList[(o - 0x4000) / 0x1000]?).map (fun k => byteOfRow k (o % 0x1000))
  else if o < 0x14000 then (y.q.toList[(o - 0xC000) / 0x400]?).map (fun q => q.scales.toList.getD (o % 0x400) 0)
  else if o < 0x20000 then none
  else if o < 0x220000 then
    match y.v.toList[(o - 0x20000) / 0x10000]? with
    | some v =>
      let row := v.planes.toList.getD (o / 0x1000 % 16) 0
      if v.desc.dirty ∧ row ≠ 0 ∧ o % 0x1000 < 128 * ((v.desc.vlen.toNat + 1023) / 1024) then some (byteOfRow row (o % 0x1000))
      else none
    | none => none
  else if o < 0x420000 then
    if core.tileOwner = some h then
      some (byteOf (tileGet (core.z.toList.getD ((o - 0x220000) / 0x100000) []) ((o - 0x220000) % 0x100000 / 8)))
    else none
  else none

/-- Doubleword 0 of the image of hart h (Table 13.7): the cursor slots it holds open, its copies, whether its shadow is valid
and whether it owns the tile unit, and its rank. -/
def State.headWord (s : State) (h : HartId) : Word :=
  let core := s.core (coreOf h)
  let curs := ((List.finRange 8).map (fun n : Fin 8 => match core.slots.get n with
    | some x => if x.owner = h then 2 ^ n.val else 0
    | none => 0)).sum
  BitVec.ofNat 64 (0x43 * 2 ^ 56 + 2 ^ 48 + curs * 2 ^ 40 +
    (core.copies.filter (fun c => c.owner == h && !c.retired)).length * 2 ^ 36 +
    (if (s.hart h).shadow.valid then 2 ^ 35 else 0) + (if core.tileOwner = some h then 2 ^ 34 else 0) +
    (s.hart h).rank % 128)

/-- The fields of a hart's registers hold no bit that the manual reserves, and its vector registers hold nothing at or past
VLEN, and nothing at all while they are not dirty (R105, R107, Tables 3.5, 3.9, 9.2 and 9.3): what a context has. -/
structure Hart.Regular (y : Hart) : Prop where
  x0 : y.x.get 0 = 0
  rows : ∀ (n : Fin 32) (p : Fin 16) (e : Nat), ((y.v.get n).desc.dirty = false ∨ (y.v.get n).desc.vlen.toNat ≤ e) →
    ((y.v.get n).planes.get p).getLsbD e = false
  vlen : ∀ n : Fin 32, (y.v.get n).desc.vlen.toNat ≤ 32768
  vtype : y.vtype = vtypeOf (y.vtype.setWidth 20)
  tshape : y.tshape &&& tshapeMask = y.tshape
  zcfg : y.zcfg &&& zcfgMask = y.zcfg
  fflags : y.fflags &&& 0x1F1F = y.fflags
  ld : y.ld ≠ 3
  tvec : y.tvec &&& 0x0000FFFFFFFFFFFC = y.tvec
  ptbase : y.ptbase &&& 0x000FFFFFFFFF8000 = y.ptbase

/-! ### The fabric's graph (R384) -/

/-- A path of n links, each of which P admits, from module a to module b. -/
def linkPath (P : Link → Prop) : Nat → Nat → Nat → Prop
  | 0, a, b => a = b
  | n + 1, a, b => ∃ l, P l ∧ l.src = a ∧ linkPath P n l.dst b

end Sys2Proof.Machine
end

