-- ==== Sys2Proof/Certificates/Slice0/Obligations.lean ====
section
/-! DEFINITION. The statements for the provers, from the manual's numbered rules. -/

open Sys2Proof Sys2Proof.Machine

/-! ### Encoding (chapter 2) -/

/-- Every word that the encoding tables give a well-formed instruction decodes to that instruction on every part that
has the instruction's unit (R27 to R38, Tables 2.3 to 2.7). -/
def Obligations.EncodedInstructionsDecode : Prop :=
  ∀ (p : Part) (i : Instr) (w : BitVec 32), i.wellFormed = true → encode i = some w →
    majorAbsent p (fOp w).toNat = false → decodeWord p w = .ok i

/-- Every word that decodes is the word of the instruction it decodes to: no bit of an encoding is left unread, and each
instruction has one word (R30, R31). -/
def Obligations.DecodedWordsEncode : Prop :=
  ∀ (p : Part) (w : BitVec 32) (i : Instr), decodeWord p w = .ok i → encode i = some w ∧ i.wellFormed = true

/-- Words written out from the encodings of chapter 2 decode to their instructions. -/
def Obligations.ManualWordsDecode : Prop :=
  decodeTableWord 32 0b000010_00011_00001_00010_00000000000 = some (.add 3 1 2) ∧
  decodeTableWord 32 0b000011_00101_00000_1111111111111111 = some (.addi 5 0 0xFFFF) ∧
  decodeTableWord 32 0b010000_00001_00010_0000000000000100 = some (.beq 1 2 4) ∧
  decodeTableWord 32 0b010111_00001_000000000000000001000 = some (.jal 1 8) ∧
  decodeTableWord 32 0b011010_00111_01000_011_0000000010000 = some (.ldd 7 8 16) ∧
  decodeTableWord 32 0b011011_00111_01000_011_0000000010000 = some (.std 7 8 16) ∧
  decodeTableWord 32 0b011100_00001_00010_00011_00_0_00_00_0000 = some (.amoadd 1 2 3 .w .h .none) ∧
  decodeTableWord 32 0b011101_00001_00010_00011_000_000_0_0000 = some (.fadd 1 2 3 .rne .s) ∧
  decodeTableWord 32 0b011111_00000_00000_00000_0000000_0001 = some (.tret) ∧
  decodeTableWord 32 0b100000_00000_00010_001_0_000000000011 = some (.csrw 2 3) ∧
  decodeTableWord 32 0b100010_00001_00010_00011_00000000000 = some (.setvl 1 2 3) ∧
  decodeTableWord 32 0b100100_01000_00100_01100_000_00_000000 = some (.vadd 8 4 (.vec 12) 0) ∧
  decodeTableWord 32 0b100101_01000_00100_01100_010_01_000010 = some (.vfmul 8 4 (.scalar 12) 2) ∧
  decodeTableWord 32 0b100110_00001_00100_01100_000_00_000000 = some (.vcmpeq 1 4 (.vec 12) 0) ∧
  decodeTableWord 32 0b100111_00001_00100_00010_000_01_001000 = some (.vext 1 4 2) ∧
  decodeTableWord 32 0b101000_00001_00100_00010_000_01_000000 = some (.vredsum 1 4 2 0) ∧
  decodeTableWord 32 0b101001_01000_00100_00010_000_01_000000 = some (.vcvt 8 4 2 0) ∧
  decodeTableWord 32 0b101010_01000_01001_00000_000_0000_0000 = some (.vld 8 9 0) ∧
  decodeTableWord 32 0b101011_01000_01001_00000_011_0000_0000 = some (.vst 8 9 3) ∧
  decodeTableWord 32 0b101101_00001_01001_010_0000000001000 = some (.kld 1 9 8) ∧
  decodeTableWord 32 0b110000_0_00000_00000_000_000_000000000 = some (.mton) ∧
  decodeTableWord 32 0b110001_1_00100_01000_001_010_000000000 = some (.mopa 1 4 8 1 2) ∧
  decodeTableWord 32 0b110100_00001_00010_00000_00000000000 = some (.cpy 1 2) ∧
  decodeTableWord 32 0b110110_00101_00000_00000_00000000001 = some (.strip 5) ∧
  decodeTableWord 32 0b110111_00001_00010_00000_00000000011 = some (.rwait 1 2) ∧
  decodeTableWord 32 0b000001_00110_0_0_00000_00000000000000 = some (.pfx 6 0 0 0)

/-! ### Reset (chapter 17) -/

/-- Before power-on every chiplet is OFF, no hart runs, base camp holds nothing, the fabric is off with FABTO at its reset
value, and the base die is unpowered (Tables 16.2, 17.1 to 17.3). At launch the registers of a hart hold what Tables 3.5
and 4.1 and R104, R132 and R169 give: zeros, scales of 0x7F, IE = 1 and every other status bit 0; `Hart.initial` is what
a hart starts from.
The model's choices it rests on: logs 8, 63 and 71. -/
def Obligations.ResetState : Prop :=
  (∀ c, (State.reset.chiplet c).st = .off) ∧ (∀ c, State.reset.inService c = false) ∧
  (∀ h, State.reset.hart h = Hart.initial) ∧ Hart.initial.status = .free ∧
  (∀ q, State.reset.queue q = { records := [], resume := [] }) ∧ State.reset.camp.launches = [] ∧
  State.reset.fabric.en = false ∧ State.reset.fabric.fto = 0x100000 ∧ State.reset.fabric.up = 0 ∧
  State.reset.mgmt.powered = false ∧ State.reset.mgmt.base = false ∧ State.reset.mgmt.stage = 0 ∧
  State.reset.agenda = [] ∧ State.reset.msixPending = 0 ∧ (∀ v : Fin 32, (State.reset.msixTable.get v).masked = true) ∧
  (∀ r, Hart.initial.xr r = 0) ∧ (∀ r, Hart.initial.fr r = 0) ∧ (∀ k, Hart.initial.kr k = 0) ∧
  (∀ r p, (Hart.initial.vr r).planes.get p = 0) ∧ (∀ r, (Hart.initial.vr r).word = 0) ∧
  (∀ r i, (Hart.initial.qr r).scales.get i = 0x7F) ∧
  Hart.initial.sr = 0x0004 ∧ Hart.initial.vl = 0 ∧ Hart.initial.vstart = 0 ∧ Hart.initial.ld = 0 ∧
  Hart.initial.shadow.valid = false ∧ Hart.initial.pfxst.pend = false

/-- The memory of the module at reset is in its canonical form.
The model's choices it rests on: log 6. -/
def Obligations.ResetMemoryCanonical : Prop := State.reset.mem.wf = true

/-- Every step of the module, whatever turn it takes, keeps the canonical form of its memory: addresses strictly rise and
no listed byte is 0.
The model's choices it rests on: log 6. -/
def Obligations.StepKeepsMemoryCanonical : Prop :=
  ∀ s t : State, s.mem.wf = true → step s = .next t → t.mem.wf = true

/-! ### A step (R31, R39, R42, R57, R58) -/

/-- When a core in service has its clock, nothing is due at its harts' boundaries, hart h is the first that can issue and
the word fetched at its pc decodes to an instruction that may be where it is, then the step is that instruction's
execution, in the state in which the fetch has used its page and its cache line; the hart's registers are untouched by
the fetch. After it the core's record of lane work is brought up to date (R398), and the hart, unless it holds on, waits
at no line's home (R252) and has its next instruction at its head from this clock on (R57); neither changes anything
else. The word that withFetchWord places is the word the next step decodes and runs.
The model's choices it rests on: logs 5, 17 and 18. -/
def Obligations.StepRunsDecodedInstruction : Prop :=
  (∀ (s t : State) (c : CoreId) (ready : BitVec 4) (units : Nat) (rest : List Turn) (h : HartId) (w : BitVec 32)
    (i : Instr),
    s.agenda = .clock c ready units :: rest →
    let s0 := { s with agenda := rest }.passClock c
    s0.inService (chipletOf c) = true →
    (∀ n : Fin 4, s0.dueAt (hartOf c n) = none) →
    s0.firstReady (s0.readyHarts c ready []) = some h →
    let s1 := (s0.countWaits c (s0.readyHarts c ready []) (some h)).turnOf h units
    s1.fetch h = .word w t →
    decodeWord s.part w = .ok i →
    t.pairBad w i = false → (isPrivileged i = true → t.me.supervisor = true) →
    (t.me.pfxLive = true → t.me.pfxst.c = true) →
    step s = andThen (exec i t) (fun u => .next ((u.noteWork t i).settled h)) ∧ t.me = s1.me ∧ t.cur = h) ∧
  (∀ (w : BitVec 32) (i : Instr), decodeWord .p8840 w = .ok i → isPrivileged i = false →
    ∃ t, step (State.reset.withFetchWord 32 w.toNat) = andThen (exec i t) (fun u => .next ((u.noteWork t i).settled 0)) ∧
      t.cur = 0 ∧ t.me.pc = 0 ∧ t.me.status = .running ∧ t.me.xr = Hart.initial.xr) ∧
  (∀ (s t : State) (i : Instr), t.noteWork s i = { t with cores := (t.noteWork s i).cores } ∧
    ∀ c, (t.noteWork s i).core c = { t.core c with work := ((t.noteWork s i).core c).work }) ∧
  (∀ (s : State) (h : HartId),
    let y := (s.settled h).hart h
    s.settled h = { s with harts := (s.settled h).harts, locks := (s.settled h).locks,
                           reservations := (s.settled h).reservations } ∧
    (∀ g, g ≠ h → (s.settled h).hart g = s.hart g) ∧ y = { s.hart h with headAt := y.headAt } ∧
    ((s.hart h).held = true → s.settled h = s) ∧
    ((s.hart h).held = false → ∀ l ∈ (s.settled h).locks, h ∉ l.waiting) ∧
    ((s.hart h).held = false → (s.hart h).remote = .idle → y.headAt = (s.core (coreOf h)).cycle.toNat))

/-- Checks 1 to 3 of Table 2.2, the pair check, the privilege check and the prefix's condition come in this order: a
word that does not decode traps with the word as tval; a forbidden successor of a prefix is ILLEGAL_PAIR at the PFX,
with PEND cleared and the record's other fields kept; a privileged word in user mode is PRIVILEGE; and a successor whose
condition is false has no effect (R31, R39, R40, R42, R45). ILLEGAL_OP, NO_UNIT and ILLEGAL_FIELD: the trap row of a word
that checks 1 to 3 reject enters the handler with the cause of the first check that fails and the word as tval (Table
2.2). A fetch at an address of 2^48 or more, or in the local region, raises its cause with the pc as tval: ADDR_NONCANON
before PAGE_EXEC (R189, R194). A fetch that is translated by a walk raises PAGE_EXEC for an invalid entry, PAGE_USER for
a supervisor's page in user mode, and then PAGE_EXEC without the X permission or outside global memory (R197).
The model's choices it rests on: log 33 (the epc of a pair that TRET resumes, and the record kept). -/
def Obligations.DecodeAndFetchChecks : Prop :=
  (∀ (s : State) (w : BitVec 32),
     (∀ e, decodeWord s.part w = .error e → s.runWord w = s.trapped (decodeCause e) (w.setWidth 64)) ∧
     (∀ i, decodeWord s.part w = .ok i →
       (s.pairBad w i = true → s.runWord w = .next ((s.modMe (fun h =>
           { h with pfxLive := false, pfxst := { h.pfxst with pend := false } })).trapHart s.cur 0x03 (w.setWidth 64)
           (s.me.pc - 4))) ∧
       (s.pairBad w i = false → isPrivileged i = true → s.me.supervisor = false →
         s.runWord w = s.trapped 0x04 (w.setWidth 64)) ∧
       (s.pairBad w i = false → (isPrivileged i = true → s.me.supervisor = true) → s.me.pfxLive = true →
         s.me.pfxst.c = false → s.runWord w = .next (s.setMe s.me.advance)) ∧
       (s.pairBad w i = false → (isPrivileged i = true → s.me.supervisor = true) →
         (s.me.pfxLive = true → s.me.pfxst.c = true) →
           s.runWord w = andThen (exec i s) (fun t => .next (t.noteWork s i))))) ∧
  (∀ (s : State) (w : BitVec 32),
    (majorReserved (fOp w).toNat = true → exec (.illegalOp w) s = s.trapped 0x01 (w.setWidth 64)) ∧
    (majorReserved (fOp w).toNat = false → majorAbsent s.part (fOp w).toNat = true →
      exec (.illegalOp w) s = s.trapped 0x06 (w.setWidth 64)) ∧
    (majorReserved (fOp w).toNat = false → majorAbsent s.part (fOp w).toNat = false → decodeMajor w = none →
      exec (.illegalOp w) s = s.trapped 0x02 (w.setWidth 64))) ∧
  (∀ s : State,
    (2 ^ 48 ≤ s.me.pc.toNat → exec .fetchFault s = s.trapped 0x24 s.me.pc) ∧
    (s.me.pc.toNat < 2 ^ 48 → isLocal s.me.pc.toNat = true → exec .fetchFault s = s.trapped 0x22 s.me.pc) ∧
    (s.me.pc.toNat < 2 ^ 48 → isLocal s.me.pc.toNat = false → s.me.pins = [] → s.myCore.tcache = [] →
      let walk := s.walk (s.walkStop s.cur s.me.pc.toNat) (s.me.ptbase.toNat / 2 ^ 15) s.me.pc.toNat
      (walk = .invalid → exec .fetchFault s = s.trapped 0x22 s.me.pc) ∧
      ∀ pte a big, walk = .leaf pte a big →
        let frame := pte.toNat / 2 ^ 15 % 2 ^ 37 * 2 ^ 15
        let pa := frame + s.me.pc.toNat % (if big then 2 ^ 27 else 2 ^ 15)
        (s.me.supervisor = false → pte.getLsbD 4 = false → mappable s.part (pa / 2 ^ 15 * 2 ^ 15) = true →
          exec .fetchFault s = s.trapped 0x23 s.me.pc) ∧
        ((s.me.supervisor = true ∨ pte.getLsbD 4 = true) → (pte.getLsbD 3 = false ∨ s.region pa ≠ .global) →
          exec .fetchFault s = s.trapped 0x22 s.me.pc)))

/-- The words that may not follow a prefix, and those that only the supervisor may run. Behind a live prefix the forbidden
successors are those of majors 0x10 to 0x19, another PFX, and those of majors 0x1F, 0x21 and 0x36; and with cp = 1 those
that name no x, f, v or k register as their destination, and those whose destination is a k register when d2[18:17] is
not 00 (R38, R42). The supervisor's words are TRET, CTXS and CTXL, and the CSR instructions that name tcinv or a register
from 0x200 to 0x208 (R65, R94, R200, R359, R360, Table 3.4). -/
def Obligations.PairAndPrivilegeRules : Prop :=
  ∀ (s : State) (w : BitVec 32) (i : Instr), decodeWord s.part w = .ok i →
    (s.pairBad w i = true ↔ s.me.pfxLive = true ∧
      (w.toNat / 2 ^ 26 ∈ [0x01, 0x10, 0x11, 0x12, 0x13, 0x14, 0x15, 0x16, 0x17, 0x18, 0x19, 0x1F, 0x21, 0x36] ∨
        (s.me.pfxst.cp = 1 ∧ (namesNoDestination i = true ∨
          (namesMaskDestination i = true ∧ s.me.pfxst.d2.toNat / 8 ≠ 0))))) ∧
    (isPrivileged i = true ↔ i = .tret ∨ (∃ a, i = .ctxs a ∨ i = .ctxl a) ∨
      ∃ n, namesControlRegister i = some n ∧ (n.toNat = 0x110 ∨ (0x200 ≤ n.toNat ∧ n.toNat ≤ 0x208)))

/-! ### Traps (chapter 13, R92 to R94, R99, R100, R343) -/

/-- Taking a trap with INH = 0: cause, epc, tval and pc are written; PMODE and PIE take MODE and IE, MODE and INH
become 1, IE becomes 0, every other status bit stays (R66, R343); the hart runs, its instruction waits for nothing any more
and keeps no mask it sampled, and its handler's first instruction is its head from this clock on (R57); no other register of
it changes, no other hart, no core and no byte of memory (R343). A trap with INH = 1 halts the hart: no trap register is written, and its launch, when it has not
failed before, fails with DOUBLE_TRAP (R99, R404). -/
def Obligations.TrapEntryAndDoubleTrap : Prop :=
  (∀ (s : State) (h : HartId) (c : BitVec 7) (v e : Word), (s.hart h).inh = false →
     let x := s.hart h
     let y := (s.trapHart h c v e).hart h
     y = { x with cause := c, epc := e, tval := v, sr := y.sr, pc := x.tvec, pfxLive := false, status := .running,
                  remote := .idle, pins := [], kept := none, held := false, headAt := (s.core (coreOf h)).cycle.toNat } ∧
     y.sr.getLsbD 0 = true ∧ y.sr.getLsbD 1 = x.sr.getLsbD 0 ∧ y.sr.getLsbD 2 = false ∧
     y.sr.getLsbD 3 = x.sr.getLsbD 2 ∧ y.sr.getLsbD 4 = true ∧ (∀ i, 5 ≤ i → y.sr.getLsbD i = x.sr.getLsbD i) ∧
     (∀ g, g ≠ h → (s.trapHart h c v e).hart g = s.hart g) ∧ s.sameMemory (s.trapHart h c v e) ∧
     (s.trapHart h c v e).cores = s.cores ∧ (s.trapHart h c v e).camp = s.camp) ∧
  (∀ (s : State) (h : HartId) (c : BitVec 7) (v e : Word), (s.hart h).inh = true →
     let x := s.hart h
     let y := (s.trapHart h c v e).hart h
     y.status = .halted ∧ y.cause = x.cause ∧ y.epc = x.epc ∧ y.tval = x.tval ∧ y.sr = x.sr ∧ y.pc = x.pc ∧
     (∀ l, s.launch x.launch = some l → l.failed = none →
       ∃ m, (s.trapHart h c v e).launch x.launch = some m ∧ m.failed = some 0x05) ∧
     s.sameMemory (s.trapHart h c v e))

/-- TRAP n completes and enters SYSCALL with the address that would have executed next in epc and n in tval (R92); BRK
enters BREAKPOINT at its own address with tval 0 (R93). TRET: MODE takes PMODE, IE takes PIE, INH becomes 0, the pc takes
epc, and a pending prefix applies to the word there; every other register stays; with an epc that is no multiple of 4 it
is MISALIGNED_PC with tval epc (R94). -/
def Obligations.TrapInstructions : Prop :=
  (∀ (s : State) (n : BitVec 7),
    exec (.trap n) s = .next ((s.setMe s.me.advance).trapHart s.cur 0x08 (n.setWidth 64) s.me.advance.pc) ∧
    exec .brk s = s.trapped 0x07 0) ∧
  (∀ s : State,
    (s.me.epc.toNat % 4 = 0 → ∃ t, exec .tret s = .next t ∧ s.onlyMe t ∧
      t.me = { s.me with sr := t.me.sr, pc := s.me.epc, pfxLive := s.me.pfxst.pend } ∧
      t.me.sr.getLsbD 0 = s.me.sr.getLsbD 1 ∧ t.me.sr.getLsbD 2 = s.me.sr.getLsbD 3 ∧
      t.me.sr.getLsbD 4 = false ∧
      ∀ i, i ≠ 0 → i ≠ 2 → i ≠ 4 → t.me.sr.getLsbD i = s.me.sr.getLsbD i) ∧
    (s.me.epc.toNat % 4 ≠ 0 → exec .tret s = s.trapped 0x05 s.me.epc))

/-- HOST_SIGNAL, SATURATION_EVENT and LOCAL_ALARM: a hart with IE = 1 and INH = 0, that runs and stands at a boundary, is
PARKED, or is BLOCKED in anything but a WAITM, has the enable bit and the pending cause, no report, PREEMPT, stop request
or earlier interrupt due, takes its trap at its pc, and so wakes; HSIG's pending bit is cleared, EVP and COUNT stay and
COUNT is tval (R95, R100, R168, R344). With INH = 1, or with IE = 0, none
of the three changes anything (R100). ASYNC_ERROR_REPORT: a RUNNING or PARKED hart at a boundary with INH = 0 takes
its oldest report as a trap at its pc, whatever IE says; with INH = 1 the report waits (R298, R344).
The model's choices it rests on: log 51. -/
def Obligations.InterruptsAndReportsEnterTraps : Prop :=
  (∀ (s : State) (h : HartId),
     ((((s.hart h).status = .running ∧ (s.hart h).remote = .idle ∧ (s.hart h).held = false) ∨
         (s.hart h).status = .parked ∨
         (∃ w, (s.hart h).status = .blocked w ∧ ∀ d k lim, w ≠ .waitm d k lim)) → (s.hart h).inh = false →
       (s.hart h).ie = true → (s.hart h).stopReq = false → s.reportDue h = false → s.preemptDue h = false →
       ((s.hart h).hostSig = true → (s.hart h).sr.getLsbD 9 = true →
         exec (.hostSignal h) s = .next ((s.modHart h (fun x => { x with hostSig := false })).trapHart h 0x71 0
           (s.hart h).pc)) ∧
       ((s.hart h).hostSig = false → (s.hart h).satEvp = true → (s.hart h).sr.getLsbD 10 = true →
         exec (.saturationEvent h) s =
           .next (s.trapHart h 0x72 ((s.hart h).satCount.setWidth 64) (s.hart h).pc)) ∧
       ((s.hart h).hostSig = false → (s.hart h).satEvp = false → (s.hart h).alarm ≠ 0 →
         (s.hart h).alarm.toNat ≤ (s.core (coreOf h)).cycle.toNat → (s.hart h).sr.getLsbD 8 = true →
         exec (.localAlarm h) s = .next (s.trapHart h 0x73 0 (s.hart h).pc))) ∧
     (((s.hart h).inh = true ∨ (s.hart h).ie = false) →
       exec (.hostSignal h) s = .next s ∧ exec (.saturationEvent h) s = .next s ∧ exec (.localAlarm h) s = .next s)) ∧
  (∀ (s : State) (h : HartId) (r : Report) (rest : List Report), (s.hart h).reports = r :: rest →
     ((s.hart h).inh = false → (s.hart h).remote = .idle → (s.hart h).held = false →
       ((s.hart h).status = .running ∨ (s.hart h).status = .parked) →
       exec (.asyncErrorReport h) s =
         .next ((s.modHart h (fun x => { x with reports := rest })).trapHart h r.cause r.tval (s.hart h).pc)) ∧
     ((s.hart h).inh = true → exec (.asyncErrorReport h) s = .next s))

/-! ### The scalar unit (chapter 3) -/

/-- Every integer instruction completes with the result that R73 to R78 and Tables 3.10 and 3.11 give, computed in whole
numbers, in x[d] and in the copy register of a live copying prefix, and with the next pc. A result written to x[d] reads
back from x[d] unless d is x0, which reads 0 and whose write is discarded; a live copying prefix whose condition holds puts
it in x[d2] too; no other x register changes (R41, R61). Nothing else changes: every f, v, k and q register, the flags,
status, trap and special registers, every byte of memory, every queue and every other hart stay. -/
def Obligations.IntegerResults : Prop :=
  (∀ (s : State) (i : Instr) (d : Reg) (v : Word), aluValue s i = some (d, v) →
    exec i s = .next (s.setMe (s.me.setX d v).advance)) ∧
  (∀ (h : Hart) (d r : Reg) (v : Word),
    ((h.setX d v).xr 0 = 0) ∧
    (d ≠ 0 → (h.setX d v).xr d = v) ∧
    (∀ d2, h.copyReg = some d2 → d2 ≠ 0 → (h.setX d v).xr d2 = v) ∧
    (r ≠ d → h.copyReg ≠ some r → (h.setX d v).xr r = h.xr r) ∧
    (d = 0 → h.copyReg = none → h.setX d v = h)) ∧
  (∀ (s t : State) (i : Instr) (d : Reg) (v : Word), aluValue s i = some (d, v) → exec i s = .next t →
    (∀ r, r ≠ d → s.me.copyReg ≠ some r → t.me.xr r = s.me.xr r) ∧
    ({ s.me with x := t.me.x }).sameButPc t.me ∧ s.onlyMe t ∧ s.sameMemory t ∧ s.sameQueues t ∧ s.sameOthers t)

/-- Completion: the prefix is spent, PEND alone of its register cleared when one was live and nothing of it changed when none
was (R39, R44), and the pc becomes pc + 4, unless pc is the last word of the body of the top loop entry, in exact numbers
(R5), with a count left: then the count falls by one and the pc becomes the body's first word; with no count left the
entry is popped, and the entry below is tested in the same way (R83). A taken transfer to another word than the
next continues there, with the prefix spent; it pops the top entries whose bodies hold the transfer and not its
target when it pops, and touches no other register (R84). -/
def Obligations.LoopStackLaws : Prop :=
  (∀ h : Hart, h.ld.toNat ≤ 2 →
     let e0 := h.pc.toNat + 4 = (h.lbeg.get 0).toNat + 4 * (h.llen.get 0).toNat
     let e1 := h.pc.toNat + 4 = (h.lbeg.get 1).toNat + 4 * (h.llen.get 1).toNat
     let y := h.advance
     y.pfxLive = false ∧ (h.pfxLive = true → y.pfxst = { h.pfxst with pend := false }) ∧
     (h.pfxLive = false → y.pfxst = h.pfxst) ∧
     (h.ld = 0 → y.pc = h.pc + 4 ∧ y.ld = 0 ∧ y.lrem = h.lrem) ∧
     (h.ld = 1 → ¬ e0 → y.pc = h.pc + 4 ∧ y.ld = 1 ∧ y.lrem = h.lrem) ∧
     (h.ld = 1 → e0 → h.lrem.get 0 ≠ 0 →
       y.pc = h.lbeg.get 0 ∧ y.ld = 1 ∧ y.lrem.get 0 = h.lrem.get 0 - 1 ∧ y.lrem.get 1 = h.lrem.get 1) ∧
     (h.ld = 1 → e0 → h.lrem.get 0 = 0 → y.pc = h.pc + 4 ∧ y.ld = 0 ∧ y.lrem = h.lrem) ∧
     (h.ld = 2 → ¬ e1 → y.pc = h.pc + 4 ∧ y.ld = 2 ∧ y.lrem = h.lrem) ∧
     (h.ld = 2 → e1 → h.lrem.get 1 ≠ 0 →
       y.pc = h.lbeg.get 1 ∧ y.ld = 2 ∧ y.lrem.get 1 = h.lrem.get 1 - 1 ∧ y.lrem.get 0 = h.lrem.get 0) ∧
     (h.ld = 2 → e1 → h.lrem.get 1 = 0 → ¬ e0 → y.pc = h.pc + 4 ∧ y.ld = 1 ∧ y.lrem = h.lrem) ∧
     (h.ld = 2 → e1 → h.lrem.get 1 = 0 → e0 → h.lrem.get 0 ≠ 0 →
       y.pc = h.lbeg.get 0 ∧ y.ld = 1 ∧ y.lrem.get 0 = h.lrem.get 0 - 1) ∧
     (h.ld = 2 → e1 → h.lrem.get 1 = 0 → e0 → h.lrem.get 0 = 0 → y.pc = h.pc + 4 ∧ y.ld = 0 ∧ y.lrem = h.lrem) ∧
     h.sameButPc y) ∧
  (∀ (h : Hart) (t : Word) (pops : Bool), h.ld.toNat ≤ 2 → t ≠ h.pc + 4 →
     let out := fun (e : Fin 2) => (h.lbeg.get e).toNat ≤ h.pc.toNat ∧
       h.pc.toNat < (h.lbeg.get e).toNat + 4 * (h.llen.get e).toNat ∧
       ¬ ((h.lbeg.get e).toNat ≤ t.toNat ∧ t.toNat < (h.lbeg.get e).toNat + 4 * (h.llen.get e).toNat)
     let y := h.jump t pops
     y.pc = t ∧ y.pfxLive = false ∧ y.lrem = h.lrem ∧ h.sameButPc y ∧
     (h.pfxLive = true → y.pfxst = { h.pfxst with pend := false }) ∧ (h.pfxLive = false → y.pfxst = h.pfxst) ∧
     (pops = false → y.ld = h.ld) ∧
     (pops = true → h.ld = 1 → out 0 → y.ld = 0) ∧ (pops = true → h.ld = 1 → ¬ out 0 → y.ld = 1) ∧
     (pops = true → h.ld = 2 → ¬ out 1 → y.ld = 2) ∧ (pops = true → h.ld = 2 → out 1 → ¬ out 0 → y.ld = 1) ∧
     (pops = true → h.ld = 2 → out 1 → out 0 → y.ld = 0))

/-- Branches: a branch whose condition holds continues at pc + 4 × sext(off), one whose condition does not continues at
the next pc (R29, R79, R80); a branch on a mask register that reads an uncorrectable word of it traps (R345). JAL and JALR
write pc + 4 to x[d] and continue at their target; a JALR whose target is no multiple of 4 is MISALIGNED_PC with the target
as tval and writes nothing (R26, R81).
The model's choices it rests on: log 12. -/
def Obligations.TransferResults : Prop :=
  (∀ (s : State) (i : Instr) (taken : Bool) (off : BitVec 16), branchOf s i = some (taken, off) →
    (∀ k, (i = .bmnone k off ∨ i = .bmany k off ∨ i = .bmall k off) → s.me.marks = []) →
    exec i s = .next (s.setMe (if taken then s.me.jump (BitVec.ofInt 64 (s.me.pc.toInt + 4 * off.toInt)) true
      else s.me.advance))) ∧
  (∀ (s : State) (k : KReg) (off : BitVec 16) (m : LaneMark), s.me.marks = [m] → m.unit = 1 → m.reg = k.toNat →
    m.pos < s.me.vl.toNat → ∀ i ∈ [Instr.bmnone k off, .bmany k off, .bmall k off], exec i s = s.trapped 0x62 (laneVal m)) ∧
  (∀ (s : State) (d a : Reg),
    (∀ off : BitVec 21, exec (.jal d off) s =
      .next (s.setMe ((s.me.setX d (s.me.pc + 4)).jump (BitVec.ofInt 64 (s.me.pc.toInt + 4 * off.toInt)) (d == 0)))) ∧
    (∀ imm : BitVec 16, let t := BitVec.ofInt 64 ((s.me.xr a).toInt + imm.toInt);
      (t.toNat % 4 = 0 → exec (.jalr d a imm) s = .next (s.setMe ((s.me.setX d (s.me.pc + 4)).jump t (d == 0)))) ∧
      (t.toNat % 4 ≠ 0 → exec (.jalr d a imm) s = s.trapped 0x05 t)))

/-- LOOP: at depth 2 it is LOOP_DEPTH with tval 0; with a count of 0 it continues past its body; otherwise it pushes the
body that begins at the next word, with the count less 1, and goes on (R82). PFX records whether x[p] is nonzero, or is
zero when inverted, with its fields, and applies to the next word; at the last word of the body of the top loop entry it
is ILLEGAL_PAIR with tval 0 (R38, R39, R42). -/
def Obligations.LoopAndPrefixResults : Prop :=
  (∀ (s : State) (a : Reg) (len : BitVec 16), s.me.ld.toNat ≤ 2 →
    let n : BitVec 32 := (s.me.xr a).setWidth 32
    (s.me.ld = 2 → exec (.loop a len) s = s.trapped 0x09 0) ∧
    (s.me.ld ≠ 2 → n = 0 → ∃ t, exec (.loop a len) s = .next t ∧ s.onlyMe t ∧
      t.me.pc = s.me.pc + 4 + 4 * len.setWidth 64 ∧ t.me.ld = s.me.ld ∧ s.me.sameButPc t.me) ∧
    (s.me.ld ≠ 2 → n ≠ 0 → ∃ x : Hart, exec (.loop a len) s = .next (s.setMe x.advance) ∧
      x.ld = s.me.ld + 1 ∧ x.pc = s.me.pc ∧
      (s.me.ld = 0 → x.lbeg.get 0 = s.me.pc + 4 ∧ x.lrem.get 0 = n - 1 ∧ x.llen.get 0 = len ∧
        x.lbeg.get 1 = s.me.lbeg.get 1 ∧ x.lrem.get 1 = s.me.lrem.get 1 ∧ x.llen.get 1 = s.me.llen.get 1) ∧
      (s.me.ld = 1 → x.lbeg.get 1 = s.me.pc + 4 ∧ x.lrem.get 1 = n - 1 ∧ x.llen.get 1 = len ∧
        x.lbeg.get 0 = s.me.lbeg.get 0 ∧ x.lrem.get 0 = s.me.lrem.get 0 ∧ x.llen.get 0 = s.me.llen.get 0) ∧
      ({ s.me with lbeg := x.lbeg, llen := x.llen }).sameButPc x)) ∧
  (∀ (s : State) (p d2 : Reg) (neg cp : BitVec 1), s.me.ld.toNat ≤ 2 →
    let last := fun (e : Fin 2) => s.me.pc.toNat + 4 = (s.me.lbeg.get e).toNat + 4 * (s.me.llen.get e).toNat
    ((s.me.ld = 0 ∨ (s.me.ld = 1 ∧ ¬ last 0) ∨ (s.me.ld = 2 ∧ ¬ last 1)) →
      exec (.pfx p neg cp d2) s = .next (s.setMe { s.me with
        pc := s.me.pc + 4, pfxLive := true,
        pfxst := { pend := true, c := if neg = 1 then s.me.xr p == 0 else s.me.xr p != 0, p := p, neg := neg, cp := cp,
                   d2 := d2 } })) ∧
    (((s.me.ld = 1 ∧ last 0) ∨ (s.me.ld = 2 ∧ last 1)) → ∃ x : Hart,
      exec (.pfx p neg cp d2) s = (s.setMe x).trapped 0x03 0 ∧
        x = { s.me with pfxLive := false, pfxst := { s.me.pfxst with pend := false } }))

/-! ### Scalar memory (R86, R87, R228 to R230) -/

/-- A scalar load that may perform (`AccessReady`), with no uncorrectable data among the bytes it reads (R87), marks the
pages it uses (R198) and completes with the bytes it then reads, little-endian, extended or boxed as R86 gives, in its
destination; of memory only the A bits of the leaves it used may change. A load of another module's memory that may perform
(`AccessAway`) asks the other module and waits; executed again with the answer, it completes with the answer's bytes (R226,
R242).
The model's choices it rests on: logs 19, 20 and 23. -/
def Obligations.LoadResults : Prop :=
  ∀ (s : State) (i : Instr) (l : LoadSpec) (ps : List Place), loadSpec s i = some l →
    s.readError s.cur ps = none →
    (s.AccessReady .read .opened l.bytes l.ea l.word ps →
      let u := s.usePages (coreOf s.cur) ps
      ∃ t, exec i s = .next t ∧ t.me = (l.put (leNat (ps.map (fun p => u.fetchByte s.cur p.pa))) s.me).advance ∧
        s.sameOthers t ∧ s.sameQueues t ∧ ∀ a, ¬ leafByte ps a → memGet t.mem a = memGet s.mem a) ∧
    (∀ pa, s.AccessAway .read l.bytes l.ea l.word ps pa →
      (s.me.remote = .idle → (∀ p ∈ ps, p.mark = none) → ∃ t, exec i s = .next t ∧ s.sameOthers t ∧ s.sameQueues t ∧
        s.sameMemory t ∧ t.me = { s.me with remote := .sent pa, sentAt := s.baseClock, pins := t.me.pins } ∧
        t.fabric = { s.fabric with out := s.fabric.out ++ [.load ((ps.map (fun p => p.pa)).headD 0) l.bytes] }) ∧
      (∀ reply, s.me.remote = .answered reply →
        exec i s = .next (s.setMe (l.put (leNat (reply.take l.bytes)) { s.me with remote := .idle, pins := [] }).advance)))

/-- A scalar store that may perform, with room in its staging inside a belayed strip, with no uncorrectable data to merge
with and no locked line in the way of its core's queue, completes and writes no register but the pc. Where its core's queue
holds writes of fewer than 64 lines (R228), the hart then reads the bytes of the stored value at the stored addresses,
whether they are this module's global memory, staged or queued, or its scratchpads and scalar data memories; at every other
address but the leaves whose A and D bits the store set it reads what it read before (R86, R198, R229, R230, R243). A store to
another module's memory that may perform (`AccessAway`) sends its bytes and waits for the acknowledgement; executed again
with no part of it left, it completes (R242).
The model's choices it rests on: logs 11, 18, 20 and 23. -/
def Obligations.StoreResults : Prop :=
  ∀ (s : State) (i : Instr) (n : Nat) (ea v : Word) (w : BitVec 32) (ps : List Place),
    storeSpec s i = some (n, ea, w, v) →
    let ws := (ps.zip (leBytes n v.toNat)).map (fun p => ({ pa := p.1.pa, val := p.2, mask := 0xFF } : ByteWrite))
    (∀ pa, s.AccessAway .write n ea w ps pa → s.me.remote = .idle → s.fencePending = false → s.belayed s.cur = false →
      s.mergeError s.cur ws = none → queueLoad (s.core (coreOf s.cur)).queue ≤ 64 →
      (∀ p ∈ ps, p.mark = none ∧ isRemote p.pa = true) →
      ∃ t r, exec i s = .next t ∧ s.sameOthers t ∧ s.sameQueues t ∧ s.sameMemory t ∧
        t.me = { s.me with remote := .storing r, sentAt := s.baseClock, pins := t.me.pins } ∧
        r.parts = [ws] ∧ r.away = true ∧ t.fabric = { s.fabric with out := s.fabric.out ++ [.store ws] }) ∧
    (∀ r, s.me.remote = .storing r → r.parts = [] →
      exec i s = .next (s.setMe { s.me with remote := .idle, pins := [] }.advance)) ∧
    (s.AccessReady .write .opened n ea w ps → s.locks = [] → s.mergeError s.cur ws = none →
    (∀ o, s.openStrip s.cur = some o → s.belayed s.cur = true → firstFull o.lines (ps.map (fun p => p.pa)) = none) →
    (s.fencePending = false ∨ ∀ p ∈ ps, s.inModule p.pa = true) →
    ∃ t, exec i s = .next t ∧ t.me = { s.me with pins := [] }.advance ∧ t.cur = s.cur ∧ s.sameOthers t ∧
      ∀ pa, runFrom ps pa n → queueLoad (s.core (coreOf s.cur)).queue < 64 →
        (∀ p ∈ ps, s.isGlobal p.pa = true ∨ (s.inModule p.pa = true ∧ s.belayed s.cur = false)) →
        (∀ j, j < n → t.readByte s.cur (pa + j) = BitVec.ofNat 8 (v.toNat / 256 ^ j)) ∧
        (∀ a, ¬ (pa ≤ a ∧ a < pa + n) → ¬ leafByte ps a → t.readByte s.cur a = s.readByte s.cur a) ∧
        (∀ a, ¬ leafByte ps a → memGet t.mem a = memGet s.mem a))

/-- A scalar load or store whose first or last byte lies at 2^48 or above is ADDR_NONCANON, and one that is canonical and
not a multiple of its size is MISALIGNED_DATA, with the effective address as tval, before any other check (R87). The
statement is for a hart that waits at no other module: a store whose parts are on their way has passed these checks. -/
def Obligations.ScalarAccessTraps : Prop :=
  ∀ (s : State) (i : Instr) (n : Nat) (ea : Word),
    ((∃ l, loadSpec s i = some l ∧ l.bytes = n ∧ l.ea = ea) ∨ (∃ w v, storeSpec s i = some (n, ea, w, v))) →
    s.me.remote = .idle →
    ((2 ^ 48 ≤ ea.toNat ∨ 2 ^ 48 ≤ (ea + BitVec.ofNat 64 (n - 1)).toNat) → exec i s = s.trapped 0x24 ea) ∧
    (ea.toNat < 2 ^ 48 → (ea + BitVec.ofNat 64 (n - 1)).toNat < 2 ^ 48 → ea.toNat % n ≠ 0 →
      exec i s = s.trapped 0x25 ea)

/-- An AMO that may perform at sound memory of this module, whose release is met, which no FENCE holds and whose bytes no
queued write of its core holds, marks the page it uses (R198), reads the old value into x[d], sign-extended, and leaves the
combined value in memory in one step; amocas leaves memory when the values differ; no other byte changes but the leaves' A
and D bits (R245 to R248).
The model's choices it rests on: logs 20 and 24. -/
def Obligations.AtomicResults : Prop :=
  ∀ (s : State) (i : Instr) (m : AmoSpec) (ps : List Place) (pa : Nat), amoSpec i = some m →
    let n := amoBytes m.width
    s.AccessReady .write .never n (s.me.xr m.a) m.word ps → s.inBelay s.cur = false →
    (∀ p ∈ ps, s.spoiled [] p.pa = none) → runFrom ps pa n → s.fencePending = false →
    (isRelease m.order = true → s.released m.scope = true) → s.queuedAt (ps.map (fun p => p.pa)) = false →
    let u := s.usePages (coreOf s.cur) ps
    let old := leNat ((List.range n).map (fun j => memGet u.mem (pa + j)))
    let src := (s.me.xr m.b).toNat % 2 ^ (8 * n)
    let cmp := (s.me.xr m.d).toNat % 2 ^ (8 * n)
    ∃ t, exec i s = .next t ∧ t.me = (s.me.setX m.d (signedBytes n old)).advance ∧ s.sameOthers t ∧ s.sameQueues t ∧
      ((m.op = .cas ∧ old ≠ cmp) ∨
        leNat ((List.range n).map (fun j => memGet t.mem (pa + j))) = amoResult m.op (8 * n) old src cmp) ∧
      (∀ a, (¬ (pa ≤ a ∧ a < pa + n) ∨ (m.op = .cas ∧ old ≠ cmp)) → ¬ leafByte ps a →
        memGet t.mem a = memGet s.mem a)

/-! ### Scalar floating point (R88 to R91) -/

/-- The arithmetic instructions and the conversions between formats and from integers write the correctly rounded result,
boxed for binary32, to f[d] and its copy, and OR its exceptions into the scalar group of fflags (R61, R70, R88 to R90, Tables
3.12 and 3.13). Compares answer 1 or 0 in x[d]: with a NaN operand 0, with NV from FLT and FLE always and from FEQ for a
signalling NaN only; otherwise the order of the two numbers, with no flag (Table 3.12). Conversions to integers clamp with NV,
a NaN giving the largest value (R90). FMVFX, FMVXF and FCLASS move and classify, and raise no flag (R91): the class word has
the code of a zero, subnormal, normal, infinity, quiet or signalling NaN in bits [2:0] and the sign in bit 3 (R91). An integer
conversion rounds to the integer that its rounding names, and is inexact when that is another number; a conversion between
the formats rounds once, exactly from binary32 to binary64, and makes a NaN the canonical one, with NV for a signalling one
(R89, R90). -/
def Obligations.FloatResults : Prop :=
  (∀ (s : State) (d a b : Reg) (r : Rnd) (p : Prec),
    let x := s.me.fo p a
    let y := s.me.fo p b
    let z := s.me.fo p d
    let put := fun (o : Nat × Exc) => (Host.Outcome.next (s.setMe ({ s.me.setF d (fpBox p o.1) with
      fflags := fflagsScalar s.me.fflags o.2 }).advance) : Out)
    let f := precFmt p
    exec (.fadd d a b r p) s = put (fpOp f r .add x y z) ∧ exec (.fsub d a b r p) s = put (fpOp f r .sub x y z) ∧
    exec (.fmul d a b r p) s = put (fpOp f r .mul x y z) ∧ exec (.fdiv d a b r p) s = put (fpOp f r .div x y z) ∧
    exec (.fsqrt d a r p) s = put (fpOp f r .sqrt x 0 0) ∧ exec (.ffma d a b r p) s = put (fpOp f r .ffma x y z) ∧
    exec (.fmin d a b p) s = put (fpOp f .rne .min x y z) ∧ exec (.fmax d a b p) s = put (fpOp f .rne .max x y z) ∧
    (let o := f.fcvt r ((precFmt (precOther p)).decode (s.me.fo (precOther p) a));
      exec (.fcvtFf d a r p) s = put (o.pat, o.exc)) ∧
    (let o := f.roundVal r (ofInt (s.me.xr a).toInt);
      exec (.fcvtFL d a r p) s = put (o.pat, o.exc)) ∧
    (let o := f.roundVal r (ofInt (s.me.xr a).toNat);
      exec (.fcvtFLu d a r p) s = put (o.pat, o.exc)) ∧
    exec (.fmvfx d a p) s = .next (s.setMe (s.me.setF d (fpBox p (s.me.xr a).toNat)).advance)) ∧
  (∀ (s : State) (d a b : Reg) (r : Rnd) (p : Prec),
    let x := (precFmt p).decode (s.me.fo p a)
    let y := (precFmt p).decode (s.me.fo p b)
    let put := fun (v : Word) (e : Exc) => (Host.Outcome.next (s.setMe ({ s.me.setX d v with
      fflags := fflagsScalar s.me.fflags e }).advance) : Out)
    ((x.isNan = true ∨ y.isNan = true) →
      exec (.feq d a b p) s = put 0 (Exc.nvIf (x.isSnan || y.isSnan)) ∧
      exec (.flt d a b p) s = put 0 (Exc.nvIf true) ∧ exec (.fle d a b p) s = put 0 (Exc.nvIf true)) ∧
    (x.isNan = false → y.isNan = false →
      exec (.feq d a b p) s = put (if cmpVal x y = 0 then 1 else 0) .none ∧
      exec (.flt d a b p) s = put (if cmpVal x y < 0 then 1 else 0) .none ∧
      exec (.fle d a b p) s = put (if cmpVal x y ≤ 0 then 1 else 0) .none) ∧
    (x.isNan = true → exec (.fcvtLF d a r p) s = put (BitVec.ofInt 64 (2 ^ 63 - 1)) .invalid ∧
      exec (.fcvtLuF d a r p) s = put (BitVec.ofInt 64 (2 ^ 64 - 1)) .invalid) ∧
    (∀ neg, x = .inf neg →
      exec (.fcvtLF d a r p) s = put (if neg then BitVec.ofInt 64 (-(2 ^ 63)) else BitVec.ofInt 64 (2 ^ 63 - 1)) .invalid ∧
      exec (.fcvtLuF d a r p) s = put (if neg then 0 else BitVec.ofInt 64 (2 ^ 64 - 1)) .invalid) ∧
    (∀ neg m e, x = .num neg m e →
      let k := roundToInt r neg m e;
      ((k.1 < -(2 ^ 63) → exec (.fcvtLF d a r p) s = put (BitVec.ofInt 64 (-(2 ^ 63))) .invalid) ∧
        (2 ^ 63 - 1 < k.1 → exec (.fcvtLF d a r p) s = put (BitVec.ofInt 64 (2 ^ 63 - 1)) .invalid) ∧
        (-(2 ^ 63) ≤ k.1 → k.1 ≤ 2 ^ 63 - 1 →
          exec (.fcvtLF d a r p) s = put (BitVec.ofInt 64 k.1) (if k.2 then .inexact else .none))) ∧
      ((k.1 < 0 → exec (.fcvtLuF d a r p) s = put 0 .invalid) ∧
        (2 ^ 64 - 1 < k.1 → exec (.fcvtLuF d a r p) s = put (BitVec.ofInt 64 (2 ^ 64 - 1)) .invalid) ∧
        (0 ≤ k.1 → k.1 ≤ 2 ^ 64 - 1 →
          exec (.fcvtLuF d a r p) s = put (BitVec.ofInt 64 k.1) (if k.2 then .inexact else .none)))) ∧
    exec (.fmvxf d a .d) s = .next (s.setMe (s.me.setX d (s.me.fr a)).advance) ∧
    exec (.fmvxf d a .s) s = .next (s.setMe (s.me.setX d (signedBytes 4 (s.me.fr a).toNat)).advance) ∧
    exec (.fclass d a p) s =
      .next (s.setMe (s.me.setX d (BitVec.ofNat 64 (classOf (precFmt p) (s.me.fo p a)))).advance)) ∧
  (∀ (p : Prec) (u : Nat), let f := precFmt p
    let sign := if u.testBit (f.width - 1) then 8 else 0
    u < 2 ^ f.width → classOf f u = sign + match f.decode u with
      | .nan signalling => if signalling then 5 else 4
      | .inf _ => 3
      | .num neg m e => if m = 0 then 0 else if |(Val.num neg m e).exact| < dyadic 1 f.emin then 1 else 2) ∧
  (∀ (r : Rnd) (neg : Bool) (m : Nat) (e : Int),
    let y := (Val.num neg m e).exact
    let k := (roundToInt r neg m e).1
    ((roundToInt r neg m e).2 = true ↔ (k : ℚ) ≠ y) ∧
    (r = .rdn → k = ⌊y⌋) ∧ (r = .rup → k = ⌈y⌉) ∧ (r = .rtz → k = if y < 0 then ⌈y⌉ else ⌊y⌋) ∧
    (r = .rne ∨ r = .rmm → 2 * |y - k| ≤ 1 ∧
      (2 * |y - k| = 1 → (r = .rne → k % 2 = 0) ∧ (r = .rmm → |y| < |(k : ℚ)|)))) ∧
  (∀ (f : Fmt) (r : Rnd) (v : Val),
    (∀ sig, v = .nan sig → (f.fcvt r v).pat = f.nanPat ∧ (f.fcvt r v).exc = Exc.nvIf sig) ∧
    (v.isNan = false → f.fcvt r v = f.roundVal r v)) ∧
  (∀ (r : Rnd) (u : Nat), u < 2 ^ 32 → (Fmt.fp32.decode u).isNan = false →
    let v := Fmt.fp32.decode u
    let o := Fmt.fp64.fcvt r v
    o.exc = .none ∧ (Fmt.fp64.decode o.pat).neg = v.neg ∧ (Fmt.fp64.decode o.pat).exact = v.exact ∧
      ∀ neg, v = .inf neg ↔ Fmt.fp64.decode o.pat = .inf neg)

/-- The value of a pattern is the number that R162 and Table 6.1 give it, and the value of a pattern that is not a NaN rounds
back to the pattern, with no exception, at every rounding. An exact number, given to the bit or with a tail below the
format's bits, rounds to the finite pattern that R89 names: at or below it, at or above it, or the nearest, a tie to the even
pattern or away from zero; NX says that it was not representable, UF that it was tiny besides, and OF, with NX and the
infinity or the largest finite pattern as the rounding says, that it rounds past the largest finite number (R89, R163,
R165). -/
def Obligations.RoundingLaws : Prop :=
  (∀ (f : Fmt) (r : Rnd) (u : Nat), f ∈ allFormats → u < 2 ^ f.width → (f.decode u).isNan = false →
    (f.roundVal r (f.decode u)).pat = u ∧ (f.roundVal r (f.decode u)).exc = .none ∧
    (f.roundVal r (f.decode u)).counted = false) ∧
  (∀ (f : Fmt) (neg : Bool) (e m : Nat), f ∈ allFormats → e < 2 ^ f.exp → m < 2 ^ f.frac →
    e * 2 ^ f.frac + m ≤ f.maxPat →
    (f.decode (f.signed neg (e * 2 ^ f.frac + m))).neg = neg ∧
    |(f.decode (f.signed neg (e * 2 ^ f.frac + m))).exact| =
      if e = 0 then (m / 2 ^ f.frac : ℚ) * 2 ^ (1 - f.bias : ℤ) else (1 + m / 2 ^ f.frac : ℚ) * 2 ^ (e - f.bias : ℤ)) ∧
  (∀ (f : Fmt) (r : Rnd) (neg : Bool) (m : Nat) (e : Int) (tail : Bool) (x : ℝ), f ∈ allFormats → f.given m e tail x →
    let o := f.roundVal r (.num neg m e) tail
    (o.exc.of = false → ∃ p, o.pat = f.signed neg p ∧ f.isRounded r neg x p ∧ o.exc.nv = false ∧ o.exc.dz = false ∧
      (o.exc.nx = true ↔ ((f.magOf p : ℚ) : ℝ) ≠ x) ∧
      (o.exc.uf = true ↔ ((f.magOf p : ℚ) : ℝ) ≠ x ∧ f.isTiny r neg x) ∧ o.counted = false) ∧
    (∀ inf, f.infPat = some inf → (o.exc.of = true ↔ f.overflows r neg x) ∧
      (o.exc.of = true → o.exc = .overflow ∧ (roundsDown r neg → o.pat = f.signed neg f.maxPat) ∧
        (¬ roundsDown r neg → o.pat = f.signed neg inf))))

/-- On finite operands of the floating formats of the FPU and of VFP the sum, the difference, the product, the quotient, the
square root and the fused product and sum are the exact result rounded once; an exact 0 takes the sign of R89; x ÷ 0 is an
infinity with DZ, 0 ÷ 0 and the root of a negative number the canonical NaN with NV (Table 3.12). A NaN operand gives the
canonical NaN, with NV for a signalling one (R89, R163). The minimum and the maximum are the operand itself, the other one
for one NaN, and −0 lies below +0 (Table 3.12). -/
def Obligations.ArithmeticIsExactBeforeRounding : Prop :=
  ∀ (f : Fmt) (r : Rnd) (a b d : Nat), f ∈ [Fmt.bf16, Fmt.fp16, Fmt.fp32, Fmt.fp64] →
    let x := f.decode a
    let y := f.decode b
    let z := f.decode d
    let X : ℝ := ((x.exact : ℚ) : ℝ)
    let Y : ℝ := ((y.exact : ℚ) : ℝ)
    let Z : ℝ := ((z.exact : ℚ) : ℝ)
    let once := fun (op : FOp) (q : ℝ) => ∃ (neg : Bool) (m : Nat) (e : Int) (tail : Bool),
      (neg = true ↔ q < 0) ∧ f.given m e tail |q| ∧
      fpOp f r op a b d = ((f.roundVal r (.num neg m e) tail).pat, (f.roundVal r (.num neg m e) tail).exc)
    let zero := fun (op : FOp) (neg : Bool) => fpOp f r op a b d = (f.signed neg 0, .none)
    let nan := fun (op : FOp) (e : Exc) => fpOp f r op a b d = (f.nanPat, e)
    let sumSign := fun (m n : Bool) => if m = n then m else r == .rdn
    ((∃ n m e, x = .num n m e) → (X < 0 → nan .sqrt .invalid) ∧ (X = 0 → zero .sqrt x.neg) ∧
      (0 < X → once .sqrt (Real.sqrt X))) ∧
    ((∃ n m e, x = .num n m e) → (∃ n m e, y = .num n m e) →
      (X + Y ≠ 0 → once .add (X + Y)) ∧ (X + Y = 0 → zero .add (sumSign x.neg y.neg)) ∧
      (X - Y ≠ 0 → once .sub (X - Y)) ∧ (X - Y = 0 → zero .sub (sumSign x.neg (!y.neg))) ∧
      (X * Y ≠ 0 → once .mul (X * Y)) ∧ (X * Y = 0 → zero .mul (x.neg != y.neg)) ∧
      (X ≠ 0 → Y ≠ 0 → once .div (X / Y)) ∧ (X = 0 → Y ≠ 0 → zero .div (x.neg != y.neg)) ∧
      (X = 0 → Y = 0 → nan .div .invalid) ∧
      (X ≠ 0 → Y = 0 → ∃ inf, f.infPat = some inf ∧ fpOp f r .div a b d = (f.signed (x.neg != y.neg) inf, .divZero)) ∧
      ((∃ n m e, z = .num n m e) →
        (X * Y + Z ≠ 0 → once .ffma (X * Y + Z)) ∧
        (X * Y + Z = 0 → zero .ffma (sumSign (x.neg != y.neg) z.neg)))) ∧
    (x.isNan = true → nan .sqrt (Exc.nvIf x.isSnan)) ∧
    ((x.isNan = true ∨ y.isNan = true) → let e := Exc.nvIf (x.isSnan || y.isSnan)
      nan .add e ∧ nan .sub e ∧ nan .mul e ∧ nan .div e) ∧
    (a < 2 ^ f.width → b < 2 ^ f.width → let e := Exc.nvIf (x.isSnan || y.isSnan)
      (x.isNan = true → y.isNan = true → nan .min e ∧ nan .max e) ∧
      (x.isNan = true → y.isNan = false → fpOp f r .min a b d = (b, e) ∧ fpOp f r .max a b d = (b, e)) ∧
      (x.isNan = false → y.isNan = true → fpOp f r .min a b d = (a, e) ∧ fpOp f r .max a b d = (a, e)) ∧
      ((∃ n m e, x = .num n m e) → (∃ n m e, y = .num n m e) →
        ((X < Y ∨ (X = Y ∧ x.neg = true)) → fpOp f r .min a b d = (a, .none) ∧ (Y ≠ X ∨ y.neg = false →
          fpOp f r .max a b d = (b, .none))) ∧
        ((Y < X ∨ (X = Y ∧ y.neg = true)) → fpOp f r .min a b d = (b, .none) ∧ (Y ≠ X ∨ x.neg = false →
          fpOp f r .max a b d = (a, .none)))))

/-! ### Control registers (R65 to R72, R200) -/

/-- A written control register reads back with its writable bits as written; its reserved bits read 0, MODE of status
keeps its value, and a read-only register ignores the write. vtype reads back its 20 bits with VILL as they are legal or not
(R110); EVP of satcnt is cleared by a 1 (R167); lcnt0 takes LD unless 11 is written to it (Table 3.9); pfxst takes its
writable fields under its constant opcode (Table 2.8). A write of one control register leaves every other control register
as it was (R7, R8, R72, Table 3.4). CSRR reads; CSRW, CSRS, CSRC and CSRRW write x[a], the old value with the bits of x[a]
set, or cleared, or x[a] with the old value in x[d]; each completes (R72). tcinv reads 0: CSRS writes x[a] to it, CSRC 0, and
CSRRW x[a] with 0 in x[d] (R200).
The model's choices it rests on: logs 44, 52 and 75. -/
def Obligations.ControlRegisterResults : Prop :=
  (∀ (s : State) (n : Nat) (v mask : Word), csrWritable n = some mask →
    (mask = 0 → (s.setMe (s.me.csrPut n v)).csr s.cur n = s.csr s.cur n) ∧
    (mask ≠ 0 → n ≠ 0x200 → (s.setMe (s.me.csrPut n v)).csr s.cur n = v &&& mask) ∧
    (n = 0x200 → (s.setMe (s.me.csrPut n v)).csr s.cur n = (v &&& mask) ||| (s.csr s.cur n &&& 1))) ∧
  (∀ (s : State) (v : Word),
    let after := fun (n : Nat) => (s.setMe (s.me.csrPut n v)).csr s.cur n
    after 0x002 = (v &&& 0xFFFFF) ||| (if vtypeValid (v.setWidth 20) = true then 0 else 0x100000) ∧
    after 0x008 = (v &&& 0xFFFFFFFF) ||| (s.csr s.cur 0x008 &&& ~~~v &&& 0x8000000000000000) ∧
    after 0x011 = (v &&& 0xFFFFFFFF0000FFFF) ||| ((if v &&& 0x30000 = 0x30000 then s.csr s.cur 0x011 else v) &&& 0x30000) ∧
    after 0x208 = (v &&& 0x303FFC000) ||| 0x4000000) ∧
  (∀ (s : State) (n m : Nat) (v : Word), n ≠ m → (s.setMe (s.me.csrPut n v)).csr s.cur m = s.csr s.cur m) ∧
  (∀ (s : State) (d a : Reg) (n : BitVec 12), n ≠ 0x110 →
     let old := s.csr s.cur n.toNat
     let x := s.me.xr a
     exec (.csrr d n) s = .next (s.setMe (s.me.setX d old).advance) ∧
     exec (.csrw a n) s = .next (s.setMe (s.me.csrPut n.toNat x).advance) ∧
     exec (.csrs a n) s = .next (s.setMe (s.me.csrPut n.toNat (old ||| x)).advance) ∧
     exec (.csrc a n) s = .next (s.setMe (s.me.csrPut n.toNat (old &&& ~~~x)).advance) ∧
     exec (.csrrw d a n) s = .next (s.setMe ((s.me.csrPut n.toNat x).setX d old).advance)) ∧
  (∀ (s : State) (d a : Reg),
     exec (.csrr d 0x110) s = .next (s.setMe (s.me.setX d 0).advance) ∧
     exec (.csrs a 0x110) s = exec (.csrw a 0x110) s ∧ exec (.csrc a 0x110) s = exec (.tcinvPage 0 0) s ∧
     (s.quiet s.cur = true → (∀ f, s.inUse f = false) → ∃ t, exec (.csrw a 0x110) s = .next t ∧
       exec (.csrrw d a 0x110) s = .next (t.setMe (s.me.setX d 0).advance)))

/-! ### System instructions and vector configuration (R95 to R98, R115, R204, R234, R235) -/

/-- FENCE at .h or .c, FENCE.R at any scope, and FENCE.RW once the hart's writes are home complete and change nothing else;
FENCE.W at .p or .s completes at once and holds no read: the hart's later writes enter its core's queue as ones that leave
after those that the queue then holds (R232, R234). FENCEI empties the core's instruction cache and no other; PARK completes, PARKED when IE = 1, INH =
0 and an enable bit is set, as a nop otherwise (R95, R235). A write of tcinv, and the rows of its four modes: with the
hart's writes home, and no access of an instruction in flight left to make by a translation that goes, mode 00 removes the
entries that translate the page for the address space, mode 01 the non-global entries of the address space, mode 10 every
entry, from every core's translation cache; mode 11 removes none (R200, Table 7.5). Every byte of memory stays.
The model's choices it rests on: logs 11, 21 and 22. -/
def Obligations.FencesParkAndInvalidates : Prop :=
  (∀ s : State,
     (∀ set sc, (sc = .h ∨ sc = .c ∨ set = .r ∨ (set = .rw ∧ s.quiet s.cur = true)) →
       exec (.fence set sc) s = .next (s.setMe s.me.advance)) ∧
     (∀ sc, (sc = .p ∨ sc = .s) → exec (.fence .w sc) s = .next (s.setMe { s.me with fenceAt := s.group }.advance)) ∧
     (∀ ordered group ws, (s.entry ordered group ws).after = s.me.fenceAt ∧ (s.entry ordered group ws).group = group ∧
       (s.entry ordered group ws).bytes = ws) ∧
     (∀ o group ws, let q := (s.core (coreOf s.cur)).queue
       s.inBelay s.cur = false → ws ≠ [] → (∀ w ∈ ws, s.inModule w.pa = true) →
         ((s.putBytes o group ws).core (coreOf s.cur)).queue = q ++ [s.entry o group ws]) ∧
     (∃ t, exec .fencei s = .next t ∧ t.me = s.me.advance ∧ (t.core (coreOf s.cur)).icache = [] ∧
       (∀ c, c ≠ coreOf s.cur → t.core c = s.core c) ∧ s.sameMemory t ∧ s.sameQueues t ∧ s.sameOthers t) ∧
     (s.me.ie = true → s.me.inh = false → s.me.sr &&& 0x0700 ≠ 0 →
       exec .park s = .next (s.setMe { s.me.advance with status := .parked })) ∧
     ((s.me.ie = false ∨ s.me.inh = true ∨ s.me.sr &&& 0x0700 = 0) → exec .park s = .next (s.setMe s.me.advance))) ∧
  (∀ (q : List QueuedWrite) (i j : Nat) (w e : QueuedWrite), j < i → q[i]? = some w → q[j]? = some e →
     e.group < w.after → mayLeave q i = false) ∧
  (∀ (s : State) (asid : BitVec 16) (vpn : BitVec 33), s.quiet s.cur = true → (∀ f, s.inUse f = false) →
     (∃ t, exec (.tcinvPage asid vpn) s = .next t ∧ t.me = s.me.advance ∧ s.sameMemory t ∧
       ∀ c e, e ∈ (t.core c).tcache ↔ e ∈ (s.core c).tcache ∧ e.hits asid (vpn.toNat * 2 ^ 15) = false) ∧
     (∃ t, exec (.tcinvAsid asid) s = .next t ∧ t.me = s.me.advance ∧ s.sameMemory t ∧
       ∀ c e, e ∈ (t.core c).tcache ↔ e ∈ (s.core c).tcache ∧ ¬ (e.asid = asid ∧ e.pte.getLsbD 5 = false)) ∧
     (∃ t, exec .tcinvAll s = .next t ∧ t.me = s.me.advance ∧ s.sameMemory t ∧ ∀ c, (t.core c).tcache = []) ∧
     exec .tcinvNoAction s = .next (s.setMe s.me.advance) ∧
     (∀ a, exec (.csrw a 0x110) s =
       match (s.me.xr a).toNat % 4 with
       | 0 => exec (.tcinvPage ((s.me.xr a).extractLsb' 48 16) ((s.me.xr a).extractLsb' 15 33)) s
       | 1 => exec (.tcinvAsid ((s.me.xr a).extractLsb' 48 16)) s
       | 2 => exec .tcinvAll s
       | _ => exec .tcinvNoAction s))

/-- SETVL, ENDSTRIP, SETTYPE and SETFMT: vl becomes the smaller of the request and 32,768; avl, sidx and vstart as Table 4.5
gives; SETTYPE and SETFMT answer the old value and take only a legal one, or trap VTYPE_BAD or MFMT_BAD with the value as
tval (R110, R115, R204). -/
def Obligations.VectorConfigurationResults : Prop :=
  ∀ (s : State) (d a b : Reg),
    (∃ x : Hart, exec (.setvl d a b) s = .next (s.setMe x.advance) ∧
      x.vl.toNat = min (s.me.xr a).toNat 32768 ∧ x.avl = s.me.xr a ∧ x.sidx = s.me.xr b ∧ x.vstart = 0 ∧
      x = { s.me.setX d (BitVec.ofNat 64 (min (s.me.xr a).toNat 32768)) with
        vl := x.vl, avl := x.avl, sidx := x.sidx, vstart := 0 }) ∧
    (∃ x : Hart, exec (.endstrip d) s = .next (s.setMe x.advance) ∧
      x.avl.toNat = s.me.avl.toNat - s.me.vl.toNat ∧ x.sidx = s.me.sidx + s.me.vl.setWidth 64 ∧
      x.vl.toNat = min x.avl.toNat 32768 ∧ x.vstart = 0 ∧
      x = { s.me.setX d (BitVec.ofNat 64 (min x.avl.toNat 32768)) with
        vl := x.vl, avl := x.avl, sidx := x.sidx, vstart := 0 }) ∧
    ((s.me.xr a).toNat < 2 ^ 20 → vtypeValid ((s.me.xr a).setWidth 20) = true →
      ∃ x : Hart, exec (.settype d a) s = .next (s.setMe x.advance) ∧ x.vtype.toNat = (s.me.xr a).toNat ∧
        x = { s.me.setX d (s.me.vtype.setWidth 64) with vtype := x.vtype }) ∧
    ((2 ^ 20 ≤ (s.me.xr a).toNat ∨ vtypeValid ((s.me.xr a).setWidth 20) = false) →
      exec (.settype d a) s = s.trapped 0x10 (s.me.xr a)) ∧
    ((s.me.xr a).toNat < 4 →
      ∃ x : Hart, exec (.setfmt d a) s = .next (s.setMe x.advance) ∧ x.mfmt.toNat = (s.me.xr a).toNat ∧
        x = { s.me.setX d (s.me.mfmt.setWidth 64) with mfmt := x.mfmt }) ∧
    (4 ≤ (s.me.xr a).toNat → exec (.setfmt d a) s = s.trapped 0x12 (s.me.xr a))

/-! ### The vector unit (chapters 4 to 6) -/

/-- R112 and R113 in whole numbers: a result y is stored mod 2^wd, so that reading the element at width wd gives y
when y is in the range of vtype; the planes above wd repeat the sign for SINT and are 0 for UINT; with SAT a
clampable y outside the range becomes the nearest end of it and counts once. The write of a vector instruction to
group d: each listed element holds its pattern in all planes of the group, every other element and register keeps its
planes; the group's descriptors carry vtype's kind, width and group size, their place in the group, PROG and the
larger VLEN, with DIRTY set; other registers keep theirs (R103, R107). A live copying prefix copies the whole written
group, descriptors and all, to the group d2 (R41). Counts are added to COUNT, which stops at its largest value, and set EVP when THR
is passed (R167, R168); exceptions are ORed into the scalar group or the vector group of fflags (R70, R166, Table 3.8). -/
def Obligations.VectorWriteLaws : Prop :=
  (∀ (t : VT) (y : Int) (clamp : Bool), 1 ≤ t.wd → t.wd ≤ t.planes → t.isInt = true →
     let e := t.wr y clamp
     let z : Int := if t.sat = true ∧ clamp = true then max t.lo (min y t.hi) else y
     (e.pat % 2 ^ t.wd : Nat) = z % 2 ^ t.wd ∧
     (t.lo ≤ z → z ≤ t.hi → extPat t.signed (e.pat % 2 ^ t.wd) t.wd = z) ∧
     (∀ p, t.wd ≤ p → p < t.planes → e.pat.testBit p = (t.signed && e.pat.testBit (t.wd - 1))) ∧
     e.pat < 2 ^ t.planes ∧ e.exc = .none ∧ e.count = if t.sat = true ∧ clamp = true ∧ (y < t.lo ∨ t.hi < y) then 1 else 0) ∧
  (∀ (h : Hart) (d : Reg) (t : VT) (borg : BitVec 13) (ws : List (Nat × Nat)), t.ig ≤ 2 → d.toNat % t.regs = 0 →
    h.copyReg = none → (ws.map (fun w => w.1)).Nodup → (∀ w ∈ ws, w.1 < 32768 ∧ w.2 < 2 ^ t.planes) →
    let y := h.writeGroup d t borg ws
    (∀ w ∈ ws, y.pat d w.1 t.planes = w.2) ∧
    (∀ i, i ∉ ws.map (fun w => w.1) → ∀ r p, y.bit r p i = h.bit r p i) ∧
    (∀ r : Reg, (r.toNat < d.toNat ∨ d.toNat + t.regs ≤ r.toNat) → y.vr r = h.vr r) ∧
    (∀ j, j < t.regs → (y.vr (regAt d j)).desc =
      { borg := borg, gsz := BitVec.ofNat 2 t.ig, dirty := true, kind := t.kind,
        width := BitVec.ofNat 4 (t.wd / 2 ^ t.ig - 1), gpos := BitVec.ofNat 2 j,
        prog := BitVec.ofNat 6 ((h.vl.toNat + 1023) / 1024),
        vlen := if (h.vr (regAt d j)).desc.vlen.toNat < h.vl.toNat then h.vl else (h.vr (regAt d j)).desc.vlen }) ∧
    y = { h with v := y.v }) ∧
  (∀ (h : Hart) (d d2 : Reg) (t : VT) (borg : BitVec 13) (ws : List (Nat × Nat)), t.ig ≤ 2 → d.toNat % t.regs = 0 →
    d2.toNat % t.regs = 0 → h.copyReg = some d2 →
    let y := h.writeGroup d t borg ws
    let z := { h with pfxLive := false }.writeGroup d t borg ws
    (∀ j, j < t.regs → y.vr (regAt d2 j) = z.vr (regAt d j) ∧ y.vr (regAt d j) = z.vr (regAt d j)) ∧
    (∀ r : Reg, (∀ j, j < t.regs → r ≠ regAt d j ∧ r ≠ regAt d2 j) → y.vr r = h.vr r)) ∧
  (∀ (h : Hart) (n : Nat),
    let y := h.countSat n
    let c := h.satCount.toNat
    y.satCount.toNat = min (c + n) (2 ^ 32 - 1) ∧
    (y.satEvp = true ↔ h.satEvp = true ∨
      (h.satthr.toNat ≠ 0 ∧ c < h.satthr.toNat ∧ h.satthr.toNat ≤ min (c + n) (2 ^ 32 - 1))) ∧
    y = { h with satCount := y.satCount, satEvp := y.satEvp }) ∧
  (∀ (f : BitVec 13) (e : Exc) (j : Nat),
    let flag := [e.nv, e.dz, e.of, e.uf, e.nx]
    (fflagsScalar f e).getLsbD j = (f.getLsbD j || flag.getD j false) ∧
    (fflagsVector f e).getLsbD j = (f.getLsbD j || (decide (8 ≤ j) && flag.getD (j - 8) false)))

/-- Every integer vector instruction that may execute completes with the results of Table 4.9 in its active elements
(R126 to R130, R184), and every floating one with those of Table 6.6 and with its exceptions in the vector group of
fflags, those of a scalar source's conversion once (R174 to R177).
The model's choices it rests on: logs 9, 34 and 76. -/
def Obligations.VectorElementResults : Prop :=
  ∀ (s : State) (i : Instr) (v : VecSpec), (vintSpec s i = some v ∨ vfpSpec s i = some v) →
    s.me.VectorReady v.kindOk (v.d :: v.srcs) true →
    exec i s = .next (s.setMe (v.after s.me).advance)

/-- Whatever an integer or floating vector instruction does, a trap at INH = 0 included, it leaves every byte of memory,
every queue and every other hart as they were, and of its own hart the scalar, mask and scale registers, vl, vtype, and
every vector register outside its destination group and its copy (R107, R126, R175, R343). -/
def Obligations.VectorFrame : Prop :=
  ∀ (s t : State) (i : Instr) (v : VecSpec), (vintSpec s i = some v ∨ vfpSpec s i = some v) → s.me.inh = false →
    exec i s = .next t →
    s.sameMemory t ∧ s.sameQueues t ∧ s.sameOthers t ∧ t.cur = s.cur ∧
    t.me.x = s.me.x ∧ t.me.f = s.me.f ∧ t.me.k = s.me.k ∧ t.me.q = s.me.q ∧ t.me.shadow = s.me.shadow ∧
    t.me.vl = s.me.vl ∧ t.me.vtype = s.me.vtype ∧ t.me.avl = s.me.avl ∧ t.me.sidx = s.me.sidx ∧
    (∀ r : Reg, (∀ j, j < s.me.vt.regs → r ≠ regAt v.d j ∧ ∀ d2, s.me.copyReg = some d2 → r ≠ regAt d2 j) →
      t.me.vr r = s.me.vr r)

/-- Every compare and mask operation that may execute, with a destination no copy owns, completes: active body bits of kd
take the result, masked-off ones 0 when MZ = 1, every other bit of kd stays (R134, R135, R138 to R142). KPOPC counts and
KFIRST finds the set bits of ka below vl that the mask admits; with vl = 0 they answer 0 and all ones (R142). VEXT reads
element x[b], extended by kind, at every vl (R145). An instruction reads its masks as they stood when it issued, whatever a copy
writes to them while it waits (R133).
The model's choices it rests on: logs 77 and 78. -/
def Obligations.MaskResults : Prop :=
  (∀ (s : State) (i : Instr) (v : MaskSpec), maskSpec s i = some v → s.me.VectorReady v.kindOk v.srcs false →
    s.MaskFree v.d →
    ∃ (p : Plane) (e : Exc),
      exec i s = .next (s.setMe { s.me.setK v.d p with vstart := 0, fflags := fflagsVector s.me.fflags e }.advance) ∧
      (∀ n, n < 32768 → p.getLsbD n =
        if s.me.vstart.toNat ≤ n ∧ n < s.me.vl.toNat then
          if s.me.active v.mask n = true then (v.bit n).1 else !s.me.vt.mz && (s.me.kr v.d).getLsbD n
        else (s.me.kr v.d).getLsbD n) ∧
      e = ((s.me.body.filter (fun n => s.me.active v.mask n)).map (fun n => (v.bit n).2)).foldl Exc.or .none) ∧
  (∀ (s : State) (d a b : Reg) (k m : KReg), s.me.vtype.getLsbD 20 = false → s.me.marks = [] → s.me.vstart = 0 →
    let on := (List.range s.me.vl.toNat).filter (fun i => (s.me.kr k).getLsbD i && s.me.active m i)
    let put := fun (v : Word) => (Host.Outcome.next (s.setMe { s.me.setX d v with vstart := 0 }.advance) : Out)
    exec (.kpopc d k m) s = put (BitVec.ofNat 64 on.length) ∧
    exec (.kfirst d k m) s = put (match on with
      | i :: _ => BitVec.ofNat 64 i
      | [] => BitVec.ofInt 64 (-1)) ∧
    (s.me.vl = 0 ∨ a.toNat % 2 ^ s.me.vt.ig = 0 →
      exec (.vext d a b) s = put (if (s.me.xr b).toNat < 32768 then
        BitVec.ofInt 64 (s.me.rd s.me.vt a (s.me.xr b).toNat s.me.vt.wa) else 0))) ∧
  (∀ (h : Hart) (k d : KReg) (p : Plane) (i : Nat),
    (h.kept = none → h.sampled k = h.kr k ∧ h.sample.sampled k = h.kr k) ∧ (h.sample.putK d p).sampled k = h.sample.sampled k ∧
    h.sample.sample = h.sample ∧ h.advance.kept = none ∧ h.active k i = (k == 0 || (h.sampled k).getLsbD i))

/-- The permutations of R144 complete with the elements that Table 5.3 gives, from all 32,768 elements of their source; a
VSLIDEUP by vl or more and a VCOMPRESS that chooses nothing, with MZ = 0, write no element and no descriptor (R107). VINS writes element x[b] of vd, below vl and active, from x[a]; an element at or past vl is not written, and neither are
the descriptors then (R145). -/
def Obligations.PermutationResults : Prop :=
  (∀ (s : State) (i : Instr) (d : Reg) (srcs : List Reg) (ws : List (Nat × Elem)), permSpec s i = some (d, srcs, ws) →
    s.me.VectorReady true (d :: srcs) true → s.me.vstart = 0 →
    (permIdle s i = true → exec i s = .next (s.setMe { s.me with vstart := 0 }.advance)) ∧
    (permIdle s i = false → exec i s = .next (s.setMe
      { (s.me.writeGroup d s.me.vt 0 (ws.map (fun w : Nat × Elem => (w.1, w.2.pat)))).countSat
          ((ws.map (fun w : Nat × Elem => w.2.count)).sum) with vstart := 0 }.advance))) ∧
  (∀ (s : State) (d a b : Reg) (m : KReg), s.me.VectorReady true [d] true → s.me.vstart = 0 →
    let j := (s.me.xr b).toNat
    let t := s.me.vt
    (s.me.vl.toNat ≤ j → exec (.vins d a b m) s = .next (s.setMe { s.me with vstart := 0 }.advance)) ∧
    (j < s.me.vl.toNat → s.me.active m j = true → exec (.vins d a b m) s =
      .next (s.setMe { s.me.writeGroup d t 0 [(j, t.spread ((s.me.xr a).toNat % 2 ^ t.wd))] with vstart := 0 }.advance)))

/-- With vl = 0 every vector, mask, scale, memory and tile instruction that answers no scalar register does nothing but set
vstart to 0, whatever vtype holds (R118). With vl > 0 the run-time checks of each of them come in the manual's order, and the
first that fails traps with its cause and tval and has no other effect: VINT, VFP, the compares, mask operations and
permutations (R119, R134, R146), VCVT (R180), the vector loads and stores (R210), KLD, KST, QLD and QST (R136, R187), VAMO
(R250), MOPA (R272), MRD and MWR (R276), the reductions and scans (R152, R153); a floating reduction or VFSCAN clears VALID
when it traps (R156).
The model's choices it rests on: logs 13, 34 and 78. -/
def Obligations.VectorChecks : Prop :=
  (∀ (s : State) (i : Instr), ((checksOf s i).isSome = true ∨ (fpTreeChecks s i).isSome = true) → s.me.remote = .idle →
    s.me.vl = 0 → namesScalarResult i = false → exec i s = .next (s.setMe { s.me with vstart := 0 }.advance)) ∧
  (∀ (s : State) (i : Instr) (l : List RunCheck) (c : BitVec 7) (v : Word), checksOf s i = some l → s.me.remote = .idle →
    s.me.vl ≠ 0 → firstFailing l = some (c, v) → exec i s = s.trapped c v) ∧
  (∀ (s : State) (i : Instr) (l : List RunCheck) (c : BitVec 7) (v : Word), fpTreeChecks s i = some l → s.me.vl ≠ 0 →
    firstFailing l = some (c, v) →
    exec i s = (s.setMe { s.me with shadow := { s.me.shadow with valid := false } }).trapped c v)

/-! ### Reductions and scans (R147 to R158) -/

/-- An integer reduction that may execute answers the fold of its active elements from x[b]: the fixed tree gives
what any order gives; with vl = 0 it answers x[b] (R147 to R152). An integer scan completes with, in each active
element, the sum of the initial value and the active elements up to it; the segmented form sums from the last segment
head at or below it, and takes no initial value (R148, R153). A floating reduction that nothing interrupts answers,
in the accumulation format, the root of the fixed tree combined with the initial value, ORs the exceptions of its
nodes into fflags and leaves no valid checkpoint (R147, R150, R151, R156). A floating scan that nothing interrupts
completes with the partials of the scan network after its last step, with the initial value folded into the first in
the unsegmented form (R148, R153, R156).
The model's choices it rests on: logs 43 and 79. -/
def Obligations.ReductionAndScanResults : Prop :=
  (∀ (s : State) (i : Instr) (d a : Reg) (m : KReg) (v : Word), reduceSpec s i = some (d, a, m, v) →
    (s.me.vl = 0 ∨ (s.me.VectorReady s.me.vt.isInt [a] false ∧ s.me.vstart = 0)) →
    exec i s = .next (s.setMe { s.me.setX d v with vstart := 0 }.advance)) ∧
  (∀ (s : State) (d a b : Reg) (g m : KReg), s.me.VectorReady s.me.vt.isInt [d, a] true → s.me.vstart = 0 →
    let h := s.me
    let t := h.vt
    let leaf := fun i => if h.active m i then h.rd t a i t.wa else 0
    let init := extPat t.signed (h.xr b).toNat 64
    let sum := fun (j i : Nat) => ((List.range' j (i + 1 - j)).map leaf).sum
    let head := fun (i : Nat) => (((List.range (i + 1)).filter (fun j => (h.sampled g).getLsbD j)).getLast?).getD 0
    let after := fun (f : Nat → Int) => (plainSpec true d [a] m (fun i => t.wr (f i) true)).after h
    exec (.vscan d a b m) s = .next (s.setMe (after (fun i => init + sum 0 i)).advance) ∧
    exec (.vscanSeg d a g m) s = .next (s.setMe (after (fun i => sum (head i) i)).advance)) ∧
  (∀ (s : State) (d a b : Reg) (m : KReg), s.slice = 0 → s.me.shadow.valid = false →
    s.me.VectorReady s.me.vt.isFp [a] false → s.me.vstart = 0 →
    let acc := s.me.vt.acc
    let leaves := fun (op : FOp) => (List.range s.me.vl.toNat).map (fun i =>
      (if s.me.active m i then s.me.vt.leafPat (s.me.pat a i s.me.vt.wa) else redIdent op acc, Exc.none))
    let root := fun (op : FOp) =>
      fpNode op acc (s.me.initPat s.me.vt b, .none) ((treeLevels (fpNode op acc) (levelsOf s.me.vl.toNat) (leaves op)).headD
        (0, .none))
    let put := fun (r : Nat × Exc) => (Host.Outcome.next (s.setMe { s.me.setX d (BitVec.ofNat 64 r.1) with
      vstart := 0, fflags := fflagsVector s.me.fflags r.2 }.advance) : Out)
    exec (.vfredsum d a b m) s = put (root .add) ∧ exec (.vfredmax d a b m) s = put (root .max) ∧
    exec (.vfredmin d a b m) s = put (root .min)) ∧
  (∀ (s : State) (d a b : Reg) (g : KReg), s.slice = 0 → s.me.shadow.valid = false →
    s.me.VectorReady (s.me.vt.kind = 4 || s.me.vt.kind = 5) [d, a] true → s.me.vstart = 0 →
    let h := s.me
    let t := h.vt
    let n := h.vl.toNat
    let op := fpNode .add t.acc
    let leaves := (List.range n).map (fun i => (h.pat a i t.wa, Exc.none))
    let run := fun (l : List ((Nat × Exc) × Bool)) => (scanSteps op (levelsOf n) 0 l).map (fun x => x.1)
    let put := fun (p : List (Nat × Exc)) => (Host.Outcome.next (s.setMe
      { h.writeGroup d t 0 (p.zipIdx.map (fun x : (Nat × Exc) × Nat => (x.2, t.spread x.1.1))) with
        vstart := 0, fflags := fflagsVector h.fflags (excOf p) }.advance) : Out)
    exec (.vfscan d a b) s = put (run (withInit op (some (h.initPat t b, .none)) (leaves.map (fun x => (x, false))))) ∧
    exec (.vfscanSeg d a g) s =
      put (run (leaves.zip ((List.range n).map (fun i => (h.sampled g).getLsbD i)))))

/-- A floating reduction or floating scan, of either form, that stops at a checkpoint and then runs on without a stop ends
with the registers, flags, elements and descriptors of the one that never stopped (R155, R156, Table 13.4).
The model's choices it rests on: log 43. -/
def Obligations.CheckpointedTreesAgree : Prop :=
  ∀ (s t : State) (i : Instr), (fpTreeChecks s i).isSome = true → vtypeValid (s.me.vtype.setWidth 20) = true →
    s.me.shadow.valid = false → s.me.marks = [] →
    s.slice ≠ 0 → exec i s = .next t → t.me.shadow.valid = true →
    ∃ x y : Hart, exec i { t with slice := 0 } = .next ({ t with slice := 0 }.setMe x) ∧
      exec i { s with slice := 0 } = .next ({ s with slice := 0 }.setMe y) ∧
      (∀ r, x.xr r = y.xr r) ∧ x.fflags = y.fflags ∧ x.pc = y.pc ∧ x.vstart = y.vstart ∧
      (∀ r p n, x.bit r p n = y.bit r p n) ∧ (∀ r, (x.vr r).desc = (y.vr r).desc) ∧
      x.shadow.valid = false ∧ y.shadow.valid = false

/-! ### Conversions and scale registers (R169 to R186) -/

/-- VCVT, VDEQ and VQMV.QV complete, when their conversion word, kinds, registers and scales pass the checks of R171 and
R180, with the element results of R181, R183 and R186.
The model's choices it rests on: log 38. -/
def Obligations.ConversionResults : Prop :=
  ∀ (s : State) (d a b : Reg) (m : KReg) (c : ConvSrc), s.me.VectorReady true [d] true →
    let h := s.me
    let t := h.vt
    let after := fun (f : Nat → Elem) => (plainSpec true d [a] m f).after h
    (t.kind.toNat ≤ 11 → convOf (h.xr b) = some c → a.toNat % c.regs = 0 →
      exec (.vcvt d a b m) s = .next (s.setMe (after (cvtElem h t c a)).advance)) ∧
    (isFpKind t.kind = true → convOf (h.xr b) = some c → isMxKind c.kind = true → a.toNat % c.regs = 0 →
      (h.vl.toNat + 31) / 32 ≤ (h.qr a).nblk.toNat → (h.vr a).desc.borg = (h.qr a).org →
      exec (.vdeq d a b m) s = .next (s.setMe (after (deqElem h t c a)).advance)) ∧
    (t.isInt = true → h.vstart = 0 →
      exec (.vqmvQv d a) s = .next (s.setMe ((plainSpec true d [] 0 (fun i =>
        t.put (if i < 1024 then ((h.qr a).scales.getD i 0).toNat else 0))).after h).advance))

/-- VSETQ and VQMV.VQ write a scale register: its first scales, its block count, and for VSETQ its origin and format;
the scales past them stay (R185, R186). VQUANT forms blocks of 32 elements from the first: it writes each block's
scale and elements, stamps the block origin sidx / 32 in the vector and the scale register, and completes (R170,
R182).
The model's choices it rests on: log 38. -/
def Obligations.ScaleRegisterResults : Prop :=
  (∀ (s : State) (d a : Reg), s.me.VectorReady true [] false → s.me.vstart = 0 →
     (isMxKind s.me.vt.kind = true → ∃ q : QReg,
       exec (.vsetq d a) s = .next (s.setMe { s.me.putQ d q with vstart := 0 }.advance) ∧
       q.nblk.toNat = (s.me.vl.toNat + 31) / 32 % 2048 ∧ q.fmt = s.me.vt.kind ∧
       q.org = (s.me.xr a).extractLsb' 16 13 ∧
       ∀ i : Fin 1024, q.scales.get i =
         if i.val < (s.me.vl.toNat + 31) / 32 then (s.me.xr a).setWidth 8 else (s.me.qr d).scales.get i) ∧
     (a.toNat % 2 ^ s.me.vt.ig = 0 → ∃ q : QReg,
       exec (.vqmvVq d a) s = .next (s.setMe { s.me.putQ d q with vstart := 0 }.advance) ∧
       q.nblk.toNat = min s.me.vl.toNat 1024 ∧ q.fmt = (s.me.qr d).fmt ∧ q.org = (s.me.qr d).org ∧
       ∀ i : Fin 1024, q.scales.get i =
         if i.val < s.me.vl.toNat then BitVec.ofNat 8 (s.me.pat a i.val 8) else (s.me.qr d).scales.get i)) ∧
  (∀ (s : State) (d a b : Reg) (c : ConvSrc), s.me.VectorReady true [d] true → s.me.vstart = 0 →
     isMxKind s.me.vt.kind = true → convOf (s.me.xr b) = some c → isFpKind c.kind = true → a.toNat % c.regs = 0 →
     s.me.sidx.toNat % 32 = 0 →
     let h := s.me
     let t := h.vt
     let n := h.vl.toNat
     let nb := (n + 31) / 32
     let block := fun k => quantBlock t ((List.range (min 32 (n - 32 * k))).map (fun j =>
       kindVal c.kind c.width (h.pat a (32 * k + j) c.width)))
     let elems := (List.range nb).flatMap (fun k => (block k).elems)
     let exc := ((List.range nb).map (fun k => (block k).exc)).foldl Exc.or ((elems.map (fun e : Elem => e.exc)).foldl Exc.or .none)
     ∃ q : QReg, exec (.vquant d a b) s = .next (s.setMe
       { ((h.putQ d q).writeGroup d t (BitVec.ofNat 13 (h.sidx.toNat / 32))
           ((List.range n).map (fun i => (i, ((block (i / 32)).elems.getD (i % 32) { pat := 0 }).pat)))).countSat
           ((elems.map (fun e : Elem => e.count)).sum) with vstart := 0, fflags := fflagsVector h.fflags exc }.advance) ∧
       q.fmt = t.kind ∧ q.org = BitVec.ofNat 13 (h.sidx.toNat / 32) ∧ q.nblk.toNat = nb % 2048 ∧
       (∀ i : Fin 1024, q.scales.get i = if i.val < nb then BitVec.ofNat 8 (block i.val).code else (h.qr d).scales.get i))

/-- Table 6.3 in exact numbers. Into a floating kind: a magnitude beyond the largest finite number becomes the infinity, or
where there is none the largest finite number, counted, with OF and NX; any other is rounded to nearest even, with NX when
inexact and UF when tiny besides; infinities, NaNs and zeros as the table says (R163, R165). Into MXINT8: the nearest multiple
of 2^-6, clamped and counted beyond −2 to 127/64. Into an integer kind: the nearest integer, clamped and counted with NV
outside the range. VCVT converts between kinds so, and integers by wr (R112, R160, R164, R181). A VQUANT block takes the code
of the largest magnitude's exponent less emax, clamped to 0 to 254, and its elements divided by that scale (R182); VDEQ
multiplies an element by its scale (R183).
The model's choices it rests on: log 38 (the exact magnitude is compared before it is rounded, and a negative fraction into an
unsigned integer clamps with NV). -/
def Obligations.MicroscaleConversions : Prop :=
  (∀ (f : Fmt) (neg : Bool) (m : Nat) (e : Int), f ∈ allFormats →
    let x := dyadic m e
    let o := f.convert (.num neg m e)
    let top := f.magOf f.maxPat
    (m = 0 → o = { pat := f.signed neg 0, exc := .none, counted := false }) ∧
    (top < x → o = match f.infPat with
      | some inf => { pat := f.signed neg inf, exc := .overflow, counted := false }
      | none => { pat := f.signed neg f.maxPat, exc := .overflow, counted := true }) ∧
    (m ≠ 0 → x ≤ top → ∃ p, o.pat = f.signed neg p ∧ f.isRounded .rne neg ((x : ℚ) : ℝ) p ∧ o.counted = false ∧
      o.exc.nv = false ∧ o.exc.dz = false ∧ o.exc.of = false ∧ (o.exc.nx = true ↔ f.magOf p ≠ x) ∧
      (o.exc.uf = true ↔ f.magOf p ≠ x ∧ f.isTiny .rne neg ((x : ℚ) : ℝ))) ∧
    (f.convert (.inf neg) = match f.infPat with
      | some inf => { pat := f.signed neg inf, exc := .none, counted := false }
      | none => { pat := f.signed neg f.maxPat, exc := .inexact, counted := true }) ∧
    (∀ sig, f.convert (.nan sig) = { pat := f.nanPat, exc := Exc.nvIf (sig || f.special == .none), counted := false })) ∧
  (∀ (neg : Bool) (m : Nat) (e : Int),
    let y := 64 * dyadic m e
    let o := toMxint8 (.num neg m e)
    let lim : ℚ := if neg then 128 else 127
    (lim < y → o = { pat := if neg then 0x80 else 0x7F, exc := .overflow, counted := true }) ∧
    (y ≤ lim → ∃ k : Nat, 2 * |y - k| ≤ 1 ∧ (2 * |y - k| = 1 → k % 2 = 0) ∧
      o = { pat := if neg then (256 - k) % 256 else k, exc := if (k : ℚ) = y then .none else .inexact, counted := false }) ∧
    toMxint8 (.inf neg) = { pat := if neg then 0x80 else 0x7F, exc := .inexact, counted := true } ∧
    ∀ sig, toMxint8 (.nan sig) = { pat := 0, exc := .invalid, counted := false }) ∧
  (∀ (neg : Bool) (m : Nat) (e lo hi : Int), lo ≤ 0 → 0 ≤ hi →
    let y := (Val.num neg m e).exact
    let o := toIntSat (.num neg m e) lo hi
    ((hi : ℚ) < y → o = (hi, .invalid, true)) ∧ (y < (lo : ℚ) → o = (lo, .invalid, true)) ∧
    ((lo : ℚ) ≤ y → y ≤ (hi : ℚ) → ∃ k : Int, 2 * |y - k| ≤ 1 ∧ (2 * |y - k| = 1 → k % 2 = 0) ∧
      o = (k, if (k : ℚ) = y then .none else .inexact, false)) ∧
    toIntSat (.inf neg) lo hi = (if neg then lo else hi, .invalid, true) ∧
    ∀ sig, toIntSat (.nan sig) lo hi = (0, .invalid, false)) ∧
  (∀ (w u : Nat), kindVal 0 w u = ofInt (extPat true u w) ∧ kindVal 1 w u = ofInt u ∧
    (kindVal 11 8 u).exact = ((BitVec.ofNat 8 u).toInt : ℚ) / 64 ∧
    ∀ k f, fmtOfKind k = some f → kindVal k w u = f.decode u) ∧
  (∀ (h : Hart) (t : VT) (c : ConvSrc) (a : Reg) (i : Nat),
    let u := h.pat a i c.width
    let v := kindVal c.kind c.width u
    let of := fun (r : Rounded) => ({ t.put r.pat with count := if r.counted then 1 else 0, exc := r.exc } : Elem)
    (c.kind.toNat < 2 → t.kind.toNat < 2 → cvtElem h t c a i = t.wr (extPat (c.kind == 0) u c.width) true) ∧
    (2 ≤ c.kind.toNat → t.kind.toNat < 2 → cvtElem h t c a i = let o := toIntSat v t.lo t.hi
      { t.put (t.trunc o.1) with count := if o.2.2 then 1 else 0, exc := o.2.1 }) ∧
    (∀ f, fmtOfKind t.kind = some f → cvtElem h t c a i = of (f.convert v)) ∧
    (t.kind = 11 → cvtElem h t c a i = of (toMxint8 v))) ∧
  (∀ (t : VT) (vs : List Val), isMxKind t.kind = true →
    let b := quantBlock t vs
    let emax : Int := [8, 15, 2, 4, 2, 0].getD (t.kind.toNat - 6) 0
    (vs.any Val.isNan = true →
      b = { code := 0xFF, elems := vs.map (fun _ => { pat := 0 }), exc := Exc.nvIf (vs.any Val.isSnan) }) ∧
    (vs.all Val.isZero = true → b = { code := 0x7F, elems := vs.map (fun _ => { pat := 0 }), exc := .none }) ∧
    (vs.any Val.isNan = false → vs.all Val.isZero = false →
      b.exc = .none ∧ ((∃ neg, Val.inf neg ∈ vs) → b.code = 254) ∧
      (∀ top : Int, (∀ neg, Val.inf neg ∉ vs) → (∀ v ∈ vs, |v.exact| < dyadic 1 (top + 1)) →
        (∃ v ∈ vs, dyadic 1 top ≤ |v.exact|) → (b.code : Int) = max 0 (min (top - emax + 127) 254)) ∧
      b.elems = vs.map (fun v =>
        let e : Elem := t.ofVal (match v with
          | .num neg m x => .num neg m (x - (b.code - 127))
          | v => v)
        if b.code = 0 ∧ v.isZero = false ∧ (kindVal t.kind t.wd (e.pat % 2 ^ t.wd)).isZero = true then
          { e with count := e.count + 1 } else e))) ∧
  (∀ (h : Hart) (t : VT) (c : ConvSrc) (a : Reg) (i : Nat),
    let code := ((h.qr a).scales.getD (i / 32) 0).toNat
    let e := kindVal c.kind c.width (h.pat a i c.width)
    ((code = 0xFF ∨ e.isNan = true) → deqElem h t c a i = { t.put t.fmt.nanPat with exc := Exc.nvIf e.isSnan }) ∧
    (code ≠ 0xFF → e.isZero = true → deqElem h t c a i = t.put (t.fmt.signed e.neg 0)) ∧
    (code ≠ 0xFF → ∀ neg m x, e = .num neg m x → m ≠ 0 → deqElem h t c a i = t.ofVal (.num neg m (x + (code - 127)))) ∧
    (code ≠ 0xFF → ∀ neg, e = .inf neg → deqElem h t c a i = t.ofVal (.inf neg)))
/-! ### Vector memory (R136, R137, R187, R205 to R223, R249 to R253) -/

/-- A vector load whose active elements can all be read completes: each takes the bits that its encoding gives it, masked-off
elements are zero with MZ = 1, and no other register, hart, queue or byte of memory but the leaves it marks changes. In WORD
or MX encoding, a load that meets SPAD_RANGE, and a VLDFF that meets any trap but that of uncorrectable data, at an element j
that is not its first active one completes with vl = j and the elements below j (R205 to R217).
The model's choices it rests on: logs 20 and 68 (VLDP's element). -/
def Obligations.VectorLoadResults : Prop :=
  ∀ (s : State) (i : Instr) (f : VLoadForm), vloadForm s i = some f → s.me.VectorReady f.kindOk (f.d :: f.srcs) true →
    s.me.MemReady f.encs f.ea f.tab → s.me.remote = .idle → s.mem.wf = true →
    ((∀ n ∈ s.me.activeBody f.mask, f.good n = true) →
      s.readsApart ((s.me.activeBody f.mask).flatMap f.addrs) →
      s.loadedAs ((s.me.activeBody f.mask).flatMap f.addrs)
        { s.me.writeGroup f.d s.me.vt f.borg (s.me.loaded f.mask f.pat) with vstart := 0 }.advance (exec i s)) ∧
    (∀ j c x, (((∃ d a m, i = .vldff d a m) ∧ c ∉ [0x60, 0x61, 0x62]) ∨ c = 0x26) → (s.me.enc = .word ∨ s.me.enc = .mx) →
      j ∈ s.me.activeBody f.mask → (s.me.activeBody f.mask).headD 0 < j →
      s.readsApart (((s.me.activeBody f.mask).filter (fun n => decide (n < j))).flatMap f.addrs) →
      s.probeBytes .read 0 (f.addrs j) = .error (.trap c x) →
      let h : Hart := { s.me with vl := BitVec.ofNat 16 j }
      s.loadedAs ((h.activeBody f.mask).flatMap f.addrs)
        { h.writeGroup f.d h.vt f.borg (h.loaded f.mask f.pat) with vstart := 0 }.advance (exec i s))

/-- A vector store outside a belayed farm whose active elements can all be written, with no line locked, completes and writes
no register but vstart; afterwards the hart reads at every address what the elements' bits leave there, written in ascending element
order with a PLANE group's header before its elements (R205, R206, R218, R236, R237).
The model's choices it rests on: logs 18, 20 and 86. -/
def Obligations.VectorStoreResults : Prop :=
  ∀ (s : State) (i : Instr) (f : VStoreForm), vstoreForm s i = some f → s.me.VectorReady true f.srcs false →
    s.me.MemReady f.encs f.ea none → s.me.remote = .idle → s.mem.wf = true → s.belayed s.cur = false → s.locks = [] →
    (∀ n ∈ s.me.activeBody f.mask, ∀ va ∈ f.addrs n, (s.writePlace va).isSome = true) →
    s.stored ((s.me.activeBody f.mask).flatMap f.addrs) f.writes { s.me with vstart := 0 }.advance (exec i s)

/-- KLD takes the body bits of kd from their bytes and keeps the others; QLD takes the scales of the body's blocks, with
their count, format and origin, and keeps the others; RSHLOAD takes the shadow from its image of Table 5.6. KST writes the
bits of ks below vl, as sampled (R133), from the byte of vstart up, QST the scales of the body's blocks, and RSHSAVE the 272-byte image of the
shadow, outside a belayed farm, where every byte can be read or written and no line is locked (R136, R158, R187).
The model's choices it rests on: logs 18 and 20. -/
def Obligations.RunAccessResults : Prop :=
  (∀ s : State, s.me.remote = .idle → s.mem.wf = true →
    (∀ (k : KReg) (a : Reg) (imm : BitVec 13), s.me.VectorReady true [] false → s.MaskFree k →
      let ea := s.me.xr a + imm.signExtend 64
      let lo := s.me.vstart.toNat / 8
      let vas := addrsFrom (ea + BitVec.ofNat 64 lo) ((s.me.vl.toNat - 1) / 8 + 1 - lo)
      ea.toNat % 8 = 0 → s.readsApart vas →
      ∃ p : Plane, s.loadedAs vas { s.me.setK k p with vstart := 0 }.advance (exec (.kld k a imm) s) ∧
        ∀ n, n < 32768 → p.getLsbD n =
          if s.me.vstart.toNat ≤ n ∧ n < s.me.vl.toNat then (s.vaByte (ea + BitVec.ofNat 64 (n / 8))).getLsbD (n % 8)
          else (s.me.kr k).getLsbD n) ∧
    (∀ (d a : Reg) (imm : BitVec 13), s.me.VectorReady (isMxKind s.me.vt.kind) [] false → s.me.vstart = 0 →
      s.me.sidx.toNat % 32 = 0 →
      let ea := s.me.xr a + imm.signExtend 64
      let n := (s.me.vl.toNat + 31) / 32
      s.readsApart (addrsFrom ea n) →
      ∃ q : QReg, s.loadedAs (addrsFrom ea n) { s.me.putQ d q with vstart := 0 }.advance (exec (.qld d a imm) s) ∧
        q.nblk.toNat = n % 2048 ∧ q.fmt = s.me.vt.kind ∧ q.org = BitVec.ofNat 13 (s.me.sidx.toNat / 32) ∧
        ∀ j : Fin 1024, q.scales.get j =
          if j.val < n then s.vaByte (ea + BitVec.ofNat 64 j.val) else (s.me.qr d).scales.get j) ∧
    (∀ a : Reg, (s.me.xr a).toNat % 8 = 0 →
      s.readsApart (addrsFrom (s.me.xr a) 272) →
      let dw := fun (n : Nat) => leNat ((addrsFrom (s.me.xr a + BitVec.ofNat 64 (8 * n)) 8).map s.vaByte)
      ∃ r : Shadow, s.loadedAs (addrsFrom (s.me.xr a) 272) { s.me with shadow := r }.advance (exec (.rshload a) s) ∧
        r.word.toNat = dw 0 / 2 ^ 32 ∧ r.valid = (dw 0).testBit 31 ∧ r.order.toNat = dw 0 / 2 ^ 16 % 16 ∧
        r.vl.toNat = dw 0 % 2 ^ 16 ∧ r.pc.toNat = dw 1 ∧ ∀ j : Fin 32, (r.slots.get j).toNat = dw (2 + j.val))) ∧
  (∀ s : State, s.me.remote = .idle → s.mem.wf = true → s.belayed s.cur = false → s.locks = [] →
    (∀ (k : KReg) (a : Reg) (imm : BitVec 13), s.me.VectorReady true [] false →
      let ea := s.me.xr a + imm.signExtend 64
      let lo := s.me.vstart.toNat / 8
      let n := (s.me.vl.toNat - 1) / 8 + 1 - lo
      let vas := addrsFrom (ea + BitVec.ofNat 64 lo) n
      ea.toNat % 8 = 0 → (∀ va ∈ vas, (s.writePlace va).isSome = true) →
      s.stored vas ((List.range n).map (fun j => (ea + BitVec.ofNat 64 (lo + j),
          BitVec.ofNat 8 ((s.me.sampled k).toNat % 2 ^ s.me.vl.toNat / 2 ^ (8 * (lo + j))), 0xFF)))
        { s.me with vstart := 0 }.advance (exec (.kst k a imm) s)) ∧
    (∀ (q a : Reg) (imm : BitVec 13), s.me.VectorReady true [] false → s.me.vstart = 0 →
      s.me.vl.toNat ≤ 32768 →
      let ea := s.me.xr a + imm.signExtend 64
      let n := (s.me.vl.toNat + 31) / 32
      (∀ va ∈ addrsFrom ea n, (s.writePlace va).isSome = true) →
      s.stored (addrsFrom ea n) ((List.range n).map (fun j => (ea + BitVec.ofNat 64 j, (s.me.qr q).scales.getD j 0, 0xFF)))
        { s.me with vstart := 0 }.advance (exec (.qst q a imm) s)) ∧
    (∀ a : Reg, (s.me.xr a).toNat % 8 = 0 → s.me.marks = [] →
      (∀ va ∈ addrsFrom (s.me.xr a) 272, (s.writePlace va).isSome = true) →
      let r := s.me.shadow
      let w0 : Word := BitVec.ofNat 64 (r.word.toNat * 2 ^ 32 + (if r.valid then 2 ^ 31 else 0) + r.order.toNat * 2 ^ 16 +
        r.vl.toNat)
      let dw := fun (n : Nat) => (w0 :: r.pc :: r.slots.toList).getD n 0
      s.stored (addrsFrom (s.me.xr a) 272) ((List.range 272).map (fun j => (s.me.xr a + BitVec.ofNat 64 j,
          BitVec.ofNat 8 ((dw (j / 8)).toNat / 256 ^ (j % 8)), 0xFF))) s.me.advance (exec (.rshsave a) s)))

/-- A VAMO outside a belayed strip whose active elements' bytes can all be written, with no queued write of its core among
them, none of its core's that a FENCE puts before it, no other VAMO on its core's way, no locked line or reservation in the
module, at most 65,536 lines and no element in a leaf it marks, performs its elements in ascending order in one step: each
combines memory with its data, the old values go to va unless .nr, and the exceptions to fflags (R249 to R252). What it
combines is Table 8.3, operation by operation: the sum mod 2^w, or the IEEE sum rounded to nearest even; the smaller or the
larger, signed for SINT and unsigned for UINT, or the minimum or maximum of R89; the bitwise operations; and the data.
The model's choices it rests on: logs 20, 24 and 25. -/
def Obligations.VectorAtomicResults : Prop :=
  (∀ (k : BitVec 4) (w m d : Nat), w ∈ [8, 16, 32, 64] → m < 2 ^ w → d < 2 ^ w →
    (k = 0 ∨ k = 1 → vamoCombine 0 k w m d = ((m + d) % 2 ^ w, .none)) ∧
    (k = 0 → vamoCombine 1 k w m d = (if asSigned w m ≤ asSigned w d then m else d, .none) ∧
      vamoCombine 2 k w m d = (if asSigned w m ≤ asSigned w d then d else m, .none)) ∧
    (k = 1 → vamoCombine 1 k w m d = (min m d, .none) ∧ vamoCombine 2 k w m d = (max m d, .none)) ∧
    (∀ f, (k, f) ∈ [(2, Fmt.bf16), (3, Fmt.fp16), (4, Fmt.fp32), (5, Fmt.fp64)] →
      vamoCombine 0 k w m d = fpOp f .rne .add m d 0 ∧ vamoCombine 1 k w m d = fpOp f .rne .min m d 0 ∧
      vamoCombine 2 k w m d = fpOp f .rne .max m d 0) ∧
    vamoCombine 3 k w m d = (m &&& d, .none) ∧ vamoCombine 4 k w m d = (m ||| d, .none) ∧
    vamoCombine 5 k w m d = (m ^^^ d, .none) ∧ vamoCombine 6 k w m d = (d, .none)) ∧
  ∀ (s : State) (i : Instr) (op : Nat) (v a x : Reg) (m : KReg) (nr : Bool), vamoSpec i = some (op, v, a, x, m, nr) →
    let h := s.me
    let t := h.vt
    let nb := t.wd / 8
    let on := h.activeBody m
    let addr := fun (n : Nat) => h.xr a + BitVec.ofNat 64 (nb * h.pat x n t.wb)
    let vas := on.flatMap (fun n => addrsFrom (addr n) nb)
    h.VectorReady (vamoKind op t) [v, x] (!nr) → h.vstart = 0 → h.mfmt = 0 → (h.xr a).toNat % nb = 0 →
    h.remote = .idle → s.mem.wf = true → s.inBelay s.cur = false → s.locks = [] → s.fencePending = false →
    (∀ f ∈ s.vamos, coreOf f.owner ≠ coreOf s.cur) → s.reservations = [] →
    (linesOf (vas.filterMap (fun va => (s.writePlace va).map (fun p => p.pa)))).length ≤ 65536 →
    (∀ va ∈ vas, ∃ p, s.writePlace va = some p ∧ s.queuedAt [p.pa] = false ∧ ¬ markedBy s.writePlace vas p.pa) →
    let pa := fun (n : Nat) => ((s.writePlace (addr n)).map (fun p => p.pa)).getD 0
    let r := on.foldl (fun (r : Memory × List (Nat × Nat) × Exc) n =>
      let old := leNat ((List.range nb).map (fun j => memGet r.1 (pa n + j)))
      let c := vamoCombine op t.kind t.wd old (h.pat v n t.wd)
      (memPuts r.1 (writesAt (pa n) (leBytes nb c.1)), r.2.1 ++ [(n, old)], r.2.2.or c.2)) (s.mem, [], .none)
    let zeros := if t.mz then (h.body.filter (fun n => !h.active m n)).map (fun n => (n, 0)) else []
    let y := if nr then h else h.writeGroup v t 0 (r.2.1.map (fun e => (e.1, t.spread e.2)) ++ zeros)
    ∃ u, exec i s = .next u ∧ u.me = { y with vstart := 0, fflags := fflagsVector h.fflags r.2.2 }.advance ∧
      s.sameOthers u ∧ s.sameQueues u ∧
      ∀ b, ¬ markedBy s.writePlace vas b → memGet u.mem b = memGet r.1 b

/-! ### The tile unit (chapter 9) -/

/-- MTON takes a free tile unit of a core in FULL service, with both accumulators zero, keeps it for its owner, and is
TILE_BUSY_OWNED for another's, or in PROVISIONAL service; MTOFF gives it up; MZERO and MCFG clear what they name; TSHAPE
grants a shape within 512, 256 and a panel (R257, R258, R261 to R268, R395). A cell that is cleared holds no uncorrectable
data any more, and every other register keeps what it has.
The model's choices it rests on: log 35. -/
def Obligations.TileConfigurationResults : Prop :=
  ∀ s : State,
    let c := coreOf s.cur
    let owner := (s.core c).tileOwner
    let st := (s.chiplet (chipletOf c)).st
    let rid := fun (x : Hart) (bad : Nat → Bool) =>
      { x with marks := s.me.marks.filter (fun m => !(m.unit == 3 && bad m.reg)) }
    (st ≠ .provisional → owner = none → ∃ t, exec .mton s = .next t ∧ t.me = (rid s.me (fun n => n == 0 || n == 1)).advance ∧
      (t.core c).tileOwner = some s.cur ∧ (∀ z, t.tile z = []) ∧ (∀ k, k ≠ c → t.core k = s.core k) ∧
      s.sameMemory t ∧ s.sameQueues t ∧ s.sameOthers t) ∧
    (st ≠ .provisional → owner = some s.cur → exec .mton s = .next (s.setMe s.me.advance)) ∧
    (∀ g, st ≠ .provisional → owner = some g → g ≠ s.cur → exec .mton s = s.trapped 0x34 (BitVec.ofNat 64 g.val)) ∧
    (st = .provisional → exec .mton s = s.trapped 0x34 (BitVec.allOnes 64)) ∧
    (owner = some s.cur → ∃ t, exec .mtoff s = .next t ∧ t.me = s.me.advance ∧ (t.core c).tileOwner = none ∧
      (∀ z, t.tile z = []) ∧ s.sameMemory t ∧ s.sameQueues t ∧ s.sameOthers t) ∧
    (owner ≠ some s.cur → exec .mtoff s = .next (s.setMe s.me.advance)) ∧
    (∀ z, owner = some s.cur → ∃ t, exec (.mzero z) s = .next t ∧ t.me = (rid s.me (fun n => n == z.toNat)).advance ∧ t.tile z = [] ∧
      (∀ y, y ≠ z → t.tile y = s.tile y) ∧ s.sameMemory t ∧ s.sameQueues t ∧ s.sameOthers t) ∧
    (∀ a, owner = some s.cur → let new : BitVec 32 := (s.me.xr a).setWidth 32 &&& 0xE3FFE3FF
      ∃ t, exec (.mcfg a) s = .next t ∧ t.me = (rid { s.me with zcfg := new } (fun n =>
          (n == 0 && new.getLsbD 15 != s.me.zcfg.getLsbD 15) || (n == 1 && new.getLsbD 31 != s.me.zcfg.getLsbD 31))).advance ∧
        t.tile 0 = (if new.getLsbD 15 = s.me.zcfg.getLsbD 15 then s.tile 0 else []) ∧
        t.tile 1 = (if new.getLsbD 31 = s.me.zcfg.getLsbD 31 then s.tile 1 else []) ∧
        s.sameMemory t ∧ s.sameQueues t ∧ s.sameOthers t) ∧
    (∀ z a, owner ≠ some s.cur → exec (.mzero z) s = s.trapped 0x30 0 ∧ exec (.mcfg a) s = s.trapped 0x30 0) ∧
    (∀ d b, let r := (s.me.xr b).toNat
      let m := if r % 1024 = 0 then 512 else min (r % 1024) 512
      let n := if r / 2 ^ 16 % 512 = 0 then 256 else min (r / 2 ^ 16 % 512) 256
      let kmax := 32768 / max m n
      let k := if r / 2 ^ 32 % 2 ^ 16 = 0 then kmax else min (r / 2 ^ 32 % 2 ^ 16) kmax
      let g : Word := BitVec.ofNat 64 ((if 6 ≤ s.me.vt.kind.toNat ∧ s.me.vt.kind.toNat ≤ 11 then 32 * max 1 (k / 32) else k) *
        2 ^ 32 + n * 2 ^ 16 + m)
      exec (.tshape d b) s = .next (s.setMe { s.me.setX d g with tshape := g }.advance))

/-- An uninterrupted MOPA adds, to each cell of the shape whose row and column masks admit it, the products of its panel
elements in ascending step order, and touches no other cell, no memory and no register but vstart (R269 to R273). A product
is the exact one of the elements at i·K′ + k and j·K′ + k with their blocks' scales, or what the table of R271 gives for
NaNs, infinities and zeros. An INT48 cell holds V mod 2^56, Ov and NaN (R263); it adds the product rounded to the nearest
multiple of 2^L, ties to even, clamped to 48 bits with Ov set; a NaN sets NaN, a zero changes nothing (R264). An FP32 cell
becomes the exact sum rounded once, with the special cases and zero signs of R89 (R265).
The model's choices it rests on: log 43. -/
def Obligations.OuterProductResults : Prop :=
  (∀ (h : Hart) (t : VT) (scaled : Bool) (a b : Reg) (i j k : Nat),
    let m := i * h.tileK + k
    let n := j * h.tileK + k
    let x := kindVal t.kind t.wa (h.pat a m t.wa)
    let y := kindVal t.kind t.wb (h.pat b n t.wb)
    let sa := if scaled then ((h.qr a).scales.getD (m / 32) 0).toNat else 0x7F
    let sb := if scaled then ((h.qr b).scales.getD (n / 32) 0).toNat else 0x7F
    let p := h.panelProduct t scaled a b i j k
    let inf := fun (v : Val) => v = .inf true ∨ v = .inf false
    let neg := x.neg != y.neg
    ((sa = 0xFF ∨ sb = 0xFF ∨ x.isNan = true ∨ y.isNan = true ∨ (inf x ∧ y.isZero = true) ∨ (x.isZero = true ∧ inf y)) →
      p.isNan = true) ∧
    (sa ≠ 0xFF → sb ≠ 0xFF → x.isNan = false → y.isNan = false →
      ((x.isZero = true ∨ y.isZero = true) → ¬ inf x → ¬ inf y → p.isZero = true ∧ p.neg = neg) ∧
      ((inf x ∨ inf y) → x.isZero = false → y.isZero = false → p = .inf neg) ∧
      (¬ inf x → ¬ inf y → x.isZero = false → y.isZero = false → (∃ c e, p = .num neg c e) ∧
        p.exact = x.exact * y.exact * 2 ^ ((sa : Int) - 127) * 2 ^ ((sb : Int) - 127)))) ∧
  (∀ (nan ov : Bool) (v : Int), let c := cell48 nan ov v
    (c.toNat : Int) = v % 2 ^ 56 + (if ov then 2 ^ 56 else 0) + (if nan then 2 ^ 57 else 0) ∧
    cellNan c = nan ∧ cellOv c = ov ∧ cellV c = v.bmod (2 ^ 56)) ∧
  (∀ (l : Int) (c : BitVec 64) (p : Val),
    (p.isNan = true → acc48 l c p = cell48 true (cellOv c) (cellV c)) ∧
    (p.isZero = true → acc48 l c p = c) ∧
    (∀ neg, p = .inf neg → acc48 l c p = cell48 (cellNan c) true (cellV c + if neg then -(2 ^ 47) else 2 ^ 47 - 1)) ∧
    (∀ neg m e, p = .num neg m e → m ≠ 0 → ∃ k : Int,
      let y := p.exact / 2 ^ l
      let t := max (-(2 ^ 47)) (min k (2 ^ 47 - 1))
      2 * |y - k| ≤ 1 ∧ (2 * |y - k| = 1 → k % 2 = 0) ∧
        acc48 l c p = cell48 (cellNan c) (cellOv c || decide (k ≠ t)) (cellV c + t))) ∧
  (∀ (c : BitVec 64) (p : Val),
    let x := Fmt.fp32.decode (c.toNat % 2 ^ 32)
    let gives := fun (u : Nat) => acc32 c p = BitVec.ofNat 64 u
    let S := x.exact + p.exact
    ((x.isNan = true ∨ p.isNan = true) → gives 0x7FC00000) ∧
    (∀ n k, x = .inf n → p = .inf k → gives (if n = k then Fmt.fp32.signed n 0x7F800000 else 0x7FC00000)) ∧
    (∀ n, (x = .inf n ∧ ∃ k m e, p = .num k m e) ∨ ((∃ k m e, x = .num k m e) ∧ p = .inf n) →
      gives (Fmt.fp32.signed n 0x7F800000)) ∧
    ((∃ k m e, x = .num k m e) → (∃ k m e, p = .num k m e) →
      (S = 0 → gives (Fmt.fp32.signed (x.neg && p.neg) 0)) ∧
      (S ≠ 0 → ∃ (neg : Bool) (m : Nat) (e : Int), (neg = true ↔ S < 0) ∧ Fmt.fp32.given m e false |((S : ℚ) : ℝ)| ∧
        gives (Fmt.fp32.roundVal .rne (.num neg m e)).pat))) ∧
  ∀ (s : State) (z : BitVec 1) (a b : Reg) (r c : KReg), s.slice = 0 → s.me.vl ≠ 0 → s.ownsTile = true → s.me.marks = [] →
    let h := s.me
    let cfg := h.zhalf z
    let scaled := cfg.mxs && isMxKind h.vt.kind
    h.mopaCheck cfg scaled a b = none → h.tileN ≤ 256 → tileWfFrom 0 (s.tile z) = true →
    ∃ t, exec (.mopa z a b r c) s = .next t ∧ t.me = { h with vstart := 0 }.advance ∧
      s.sameMemory t ∧ s.sameQueues t ∧ s.sameOthers t ∧ (∀ y, y ≠ z → t.tile y = s.tile y) ∧
      ∀ i j, j < 256 → tileGet (t.tile z) (256 * i + j) =
        if i < h.tileM ∧ j < h.tileN ∧ h.active r i = true ∧ h.active c j = true then
          (List.range' h.vstart.toNat (h.tileK - h.vstart.toNat)).foldl (fun x k =>
            let p := h.panelProduct h.vt scaled a b i j k
            if cfg.fp32 then acc32 x p else acc48 cfg.l x p) (tileGet (s.tile z) (256 * i + j))
        else tileGet (s.tile z) (256 * i + j)

/-- MRD and MWR move the cells that the slice word names, row by row or column by column: MRD's elements and the cells it
leaves are those of R277, MWR's cells those of R278; other cells stay (R275 to R278). MRD of an INT48 cell that is NaN gives
the NaN of the kind, with NV; of another, V clamped to 48 bits with Ov set and counted, times MUL over 2^SH: rounded to an
integer, ties to even, which WRAP wraps or clamps and counts, or times 2^L in a floating kind; of an FP32 cell the exact
product converted by Table 6.3 (R277). MWR writes an integer clamped to 48 bits, or a float's term of R264, counted when it is
out of range, or a NaN; and a binary32 pattern in FP32 mode (R278).
The model's choices it rests on: logs 37, 38 and 90 (an infinity times MUL = 0). -/
def Obligations.SliceMoveResults : Prop :=
  let lo : Int := -(2 ^ 47)
  let hi : Int := 2 ^ 47 - 1
  let nearest := fun (y : ℚ) (k : Int) => 2 * |y - k| ≤ 1 ∧ (2 * |y - k| = 1 → k % 2 = 0)
  (∀ (t : VT) (cfg : ZCfg) (w : Word) (c : BitVec 64),
    let mul : Int := (w.extractLsb' 32 32 : BitVec 32).toInt
    let sh : Nat := w.toNat / 2 ^ 16 % 64
    let e := (mrdElem t cfg w c).1
    let after := (mrdElem t cfg w c).2
    (cfg.fp32 = false → cellNan c = true → after = c ∧ e.count = 0 ∧ e.exc = .invalid ∧
      e.pat = (t.put (match fmtOfKind t.kind with
        | some f => f.nanPat
        | none => 0)).pat) ∧
    (cfg.fp32 = false → cellNan c = false →
      let sat := cellOv c = true ∨ cellV c < lo ∨ hi < cellV c
      let v : Int := if sat then (if cellV c < 0 then lo else hi) else cellV c
      after = (if sat then cell48 false true (cellV c) else c) ∧
      (t.isInt = true → ∃ y : Int, nearest ((v * mul : Int) / 2 ^ sh) y ∧ e.exc = .none ∧
        (cfg.wrap = true → e.pat = (t.put (y % 2 ^ t.wd).toNat).pat ∧ e.count = if sat then 1 else 0) ∧
        (cfg.wrap = false → e.pat = (t.put ((max t.lo (min y t.hi)) % 2 ^ t.wd).toNat).pat ∧
          e.count = if sat ∨ y < t.lo ∨ t.hi < y then 1 else 0)) ∧
      (t.isInt = false → ∃ (neg : Bool) (m : Nat) (x : Int), (neg = true ↔ v * mul < 0) ∧
        (Val.num neg m x).exact = (v * mul : Int) * 2 ^ (cfg.l - sh) ∧
        e = { t.ofVal (.num neg m x) with count := if sat then 1 else (t.ofVal (.num neg m x)).count })) ∧
    (cfg.fp32 = true → let x := Fmt.fp32.decode (c.toNat % 2 ^ 32)
      after = c ∧ (∀ sig, x = .nan sig → e = t.ofVal x) ∧
      (∀ neg, x = .inf neg → e = t.ofVal (if mul = 0 then .nan false else x)) ∧
      (∀ n m k, x = .num n m k → ∃ (neg : Bool) (p : Nat) (q : Int), (neg = true ↔ (n = true ↔ ¬ mul < 0)) ∧
        (Val.num neg p q).exact = x.exact * mul / 2 ^ sh ∧ e = t.ofVal (.num neg p q)))) ∧
  (∀ (t : VT) (cfg : ZCfg) (u : Nat),
    let x := kindVal t.kind t.wa u
    let e := mwrElem t cfg u
    let cell := fun (nan ov : Bool) (v : Int) (n : Nat) => e = { pat := (cell48 nan ov v).toNat, count := n }
    (cfg.fp32 = true → let r := Fmt.fp32.convert x
      e = { pat := r.pat, count := if r.counted then 1 else 0, exc := r.exc }) ∧
    (cfg.fp32 = false → t.isInt = true → let y := extPat t.signed u t.wa
      (lo ≤ y ∧ y ≤ hi → cell false false y 0) ∧ (y < lo → cell false true lo 1) ∧ (hi < y → cell false true hi 1)) ∧
    (cfg.fp32 = false → t.isInt = false →
      (x.isNan = true → cell true false 0 0) ∧ (∀ neg, x = .inf neg → cell false true (if neg then lo else hi) 0) ∧
      (∀ neg m q, x = .num neg m q → ∃ k : Int, nearest (x.exact / 2 ^ cfg.l) k ∧
        cell false (decide (k < lo ∨ hi < k)) (max lo (min k hi)) (if k < lo ∨ hi < k then 1 else 0)))) ∧
  ∀ (s : State) (z : BitVec 1) (v x : Reg) (m : KReg) (c : BitVec 1), s.me.vl ≠ 0 → s.ownsTile = true →
    let h := s.me
    let t := h.vt
    let cfg := h.zhalf z
    let idx := (h.xr x).toNat % 512
    let cell := fun (e : Nat) => if c = 1 then 256 * (e % h.tileM) + (idx + e / h.tileM)
      else 256 * (idx + e / h.tileN) + e % h.tileN
    h.tileM ≠ 0 → h.tileN ≤ 256 →
    (if c = 1 then idx + (h.vl.toNat - 1) / h.tileM < h.tileN
      else h.tileN ≠ 0 ∧ idx + (h.vl.toNat - 1) / h.tileN < h.tileM) →
    tileWfFrom 0 (s.tile z) = true →
    (h.VectorReady true [v] true →
      ∃ u, exec (.mrd z v x m c) s = .next u ∧
        u.me = ((plainSpec true v [] m (fun e => (mrdElem t cfg (h.xr x) (tileGet (s.tile z) (cell e))).1)).after h).advance ∧
        s.sameMemory u ∧ s.sameQueues u ∧ s.sameOthers u ∧ (∀ y, y ≠ z → u.tile y = s.tile y) ∧
        (∀ e ∈ h.activeBody m, tileGet (u.tile z) (cell e) = (mrdElem t cfg (h.xr x) (tileGet (s.tile z) (cell e))).2) ∧
        ∀ n, n ∉ (h.activeBody m).map cell → tileGet (u.tile z) n = tileGet (s.tile z) n) ∧
    (h.VectorReady true [v] false →
      let out := fun (e : Nat) => mwrElem t cfg (h.pat v e t.wa)
      ∃ u, exec (.mwr z v x m c) s = .next u ∧
        u.me = { h.countSat (((h.activeBody m).map (fun e => (out e).count)).sum) with
          vstart := 0
          fflags := fflagsVector h.fflags ((h.activeBody m).foldl (fun e n => e.or (out n).exc) .none) }.advance ∧
        s.sameMemory u ∧ s.sameQueues u ∧ s.sameOthers u ∧ (∀ y, y ≠ z → u.tile y = s.tile y) ∧
        (∀ e ∈ h.activeBody m, tileGet (u.tile z) (cell e) = BitVec.ofNat 64 (out e).pat) ∧
        ∀ n, n ∉ (h.activeBody m).map cell → tileGet (u.tile z) n = tileGet (s.tile z) n)

/-! ### Transposer copies (chapter 11) -/

/-- A copy instruction waits while its core has no transposer free (R284). Otherwise a bad descriptor, sides that overlap, an
owned mask and a misaligned index list trap, in this order, and one that passes with every byte it touches accessible is
accepted: kd becomes 0, and the core holds the copy from its first chunk when it has one. A chunk with no error lands: its
bit of the mask is set and the copy goes on to the next, or ends; every byte the core then reads is what the chunk's writes
leave. An error of the chunk ends the copy with a report to its hart, each destination byte old or new. A restored copy
takes a free transposer (R284 to R298). WAITM, when no copy of the hart owns k or the wanted bits of k are all set, completes
with the count of clear bits among the first min(x[b], 32768), and so does the return of a hart blocked in it; otherwise the
hart waits (R295); an uncorrectable wanted bit traps (R345).
The model's choices it rests on: logs 14, 39, 40 (the overlap of a CPYX), 41 (the bytes of a CPYW) and 94 (the bad bit of WAITM). -/
def Obligations.CopyAndWaitmResults : Prop :=
  (∀ (s : State) (form : Nat) (i : Instr) (k : KReg) (a : Reg),
    (form, i) ∈ [(0, .cpy k a), (1, .cpyq k a), (2, .cpyx k a), (3, .cpyw k a)] →
    let d := s.me.copyRegs a
    let c := copyDesc form d
    let word := packR 0x34 (kField k) a 0 (BitVec.ofNat 11 form)
    (s.engineFree (coreOf s.cur) = false → exec i s = .next s) ∧
    (s.engineFree (coreOf s.cur) = true → s.fencePending = false → s.me.remote = .idle →
      ∀ ips : List Place, s.indexPlaces word c = .ok ips → (∀ p ∈ ips, s.inModule p.pa = true ∧ ¬ leafByte ips p.pa) →
      let index := if form = 2 then
        (List.range c.nrow).map (fun n => leNat ((List.range 4).map (fun j =>
          ((ips[4 * n + j]?).map (fun p => s.readByte s.cur p.pa)).getD 0))) else []
      let checks : List RunCheck :=
        [((copyFault form d).isSome, 0x42, BitVec.ofNat 64 ((copyFault form d).getD 0)), (c.overlap index, 0x42, 6),
         (s.maskOwned s.cur k, 0x43, k.setWidth 64), (decide (form = 2) && c.d4.toNat % 4 != 0, 0x25, c.d4)]
      (∀ e v, firstFailing checks = some (e, v) → exec i s = s.trapped e v) ∧
      (∀ ps : CopyPlaces, firstFailing checks = none → s.probeChunks word c c.descending index = .ok ps →
        ∃ t, exec i s = .next t ∧ t.me = ({ s.me with pins := [] }.putK k 0).advance ∧ s.sameQueues t ∧ s.sameOthers t ∧
          (t.core (coreOf s.cur)).copies = (s.core (coreOf s.cur)).copies ++
            (if c.chunks = 0 then [] else
              [{ owner := s.cur, launch := s.me.launch, retired := false, form := BitVec.ofNat 2 form, d := d, k := k,
                 next := 0, desc := c.descending, loc := ps.all.any (fun p => isLocal p.va.toNat), engine := true,
                 since := s.baseClock, index := index, pages := s.copyPages ps }])))) ∧
  (∀ (s : State) (c : CoreId) (n : Nat) (x : Copy), (s.core c).copies[n]? = some x → x.engine = true →
    s.copyStands x = false → x.next < (copyDesc x.form.toNat x.d).chunks → coreOf x.owner = c → s.locks = [] →
    let io := s.chunkIO c x
    let inside := s.mem.wf = true ∧ s.QueueSound c ∧ ∀ w ∈ io.writes, s.inModule w.pa = true ∧ s.homeLost w.pa = false
    (s.chunkErrors c io = [] → s.chunkCut x io = false →
      ∃ t, exec (.chunkLand c n) s = .next t ∧
        (∀ h, h ≠ x.owner → t.hart h = s.hart h) ∧
        (x.retired = true → t.hart x.owner = s.hart x.owner) ∧
        (x.retired = false → io.chunk < 32768 → ∃ p : Plane, t.hart x.owner = (s.hart x.owner).putK x.k p ∧
          ∀ j, j < 32768 → p.getLsbD j = (decide (j = io.chunk) || ((s.hart x.owner).kr x.k).getLsbD j)) ∧
        (t.core c).copies = (if x.next + 1 < (copyDesc x.form.toNat x.d).chunks then
          (s.core c).copies.set n { x with next := x.next + 1, since := s.baseClock } else (s.core c).copies.eraseIdx n) ∧
        (inside → ∀ b, t.coreByte c b = applyWrites b (s.coreByte c b) io.writes)) ∧
    (∀ e v, ((e, v) ∈ s.chunkErrors c io ∨
        (e = .fabricTimeout ∧ io.timesOut v = true ∧ x.since + max 1 s.fabric.fto.toNat ≤ s.baseClock)) →
      ∃ t, exec (.copyErrorStop c n e v) s = .next t ∧ (t.core c).copies = (s.core c).copies.eraseIdx n ∧
        (∀ h, h ≠ x.owner → t.hart h = s.hart h) ∧
        t.hart x.owner = (if x.retired then s.hart x.owner else { s.hart x.owner with
          reports := (s.hart x.owner).reports ++ [{ cause := copyCause e, tval := v }] }) ∧
        (inside → copyFault x.form.toNat x.d = none →
          ∀ b, t.coreByte c b = s.coreByte c b ∨ t.coreByte c b = applyWrites b (s.coreByte c b) io.writes))) ∧
  (∀ (s : State) (c : CoreId) (n : Nat) (x : Copy), (s.core c).copies[n]? = some x → x.engine = false →
    s.copyStands x = false → ((s.core c).copies.filter (fun k => k.engine)).length < 2 →
    (∀ y ∈ (s.core c).copies.take n, y.engine = true) →
    ∃ t, exec (.restoredCopyStart c n) s = .next t ∧ (t.core c).copies = (s.core c).copies.set n { x with engine := true, since := s.baseClock } ∧
      (∀ h, t.hart h = s.hart h) ∧ s.sameMemory t ∧ s.sameQueues t) ∧
  (∀ (s : State) (h : HartId) (d b : Reg) (k : KReg),
     let u := s.beginAs h
     let y := u.me
     let lim := min (y.xr b).toNat 32768
     let clear := ((List.range lim).filter (fun i => !(y.kr k).getLsbD i)).length
     let back := u.setMe ({ y with status := .running }.setX d (BitVec.ofNat 64 clear)).advance
     (y.marks = [] → (s.maskOwned h k = false ∨ clear = 0) →
       exec (.waitm d k b) u = .next back ∧
       (y.status = .blocked (.waitm d k lim) →
         exec (.waitmReturn h) s = .next { back.settled h with cur := s.cur })) ∧
     (y.marks = [] → s.maskOwned h k = true → clear ≠ 0 →
       exec (.waitm d k b) u = .next (u.setMe { y with status := .blocked (.waitm d k lim) }) ∧
       (y.status = .blocked (.waitm d k lim) → exec (.waitmReturn h) s = .next s)) ∧
     (∀ m : LaneMark, y.marks = [m] → m.unit = 1 → m.reg = k.toNat → m.pos < lim →
       exec (.waitm d k b) u = u.trapped 0x62 (laneVal m)))

/-! ### The Weave unit (chapter 11) -/

/-- WVOPEN with a readable, good and aligned descriptor opens its slot over the list or over the rows' pointers and
answers the window's length; WVSTEP that meets no failing read writes the pairs of its run and sets vl, and a cursor that is
exhausted at issue writes none; over streams in order, the runs of one cursor hand out R304's fixed sequence from its first
pair on, all of it when the cursor is exhausted, the head bit set at element 0 and where the row differs from the last pair's
(R304, R307); WVSPLIT narrows the window, from the row that holds its first position; WVSAVE writes the image
of Table 11.8, WVLOAD takes it back, and WVCLOSE frees the slot (R302 to R310). A good cursor image is what WVSAVE writes: the
cursor of the image of a cursor that WVLOAD would accept is that cursor (R310, Table 11.8).
The model's choices it rests on: logs 15 and 42. -/
def Obligations.WeaveUnitResults : Prop :=
  (∀ (s : State) (sl : KReg), s.me.remote = .idle → s.mem.wf = true →
     let word32 := fun (va : Word) => leNat ((addrsFrom va 4).map s.vaByte)
     let free := ∀ x, s.slot sl = some x → x.owner = s.cur
     (∀ (d a : Reg), free → (s.me.xr a).toNat % 8 = 0 →
       s.readsApart (addrsFrom (s.me.xr a) 64) →
       let desc := descOf ((addrsFrom (s.me.xr a) 64).map s.vaByte)
       weaveBad desc = false → (∀ n : Fin 8, n ∈ [1, 2, 4, 5] → (desc.get n).toNat % 4 = 0) →
       let first := (desc.get 3).toNat % 2 ^ 32
       let count := (desc.get 3).toNat / 2 ^ 32
       let p := desc.get 2 + BitVec.ofNat 64 (4 * first)
       let q := desc.get 2 + BitVec.ofNat 64 (4 * (first + count))
       let opened := fun (lo hi : Nat) (vas : List Word) =>
         s.loadedAs vas (s.me.setX d (BitVec.ofNat 64 (hi - lo))).advance (exec (.wvopen d a sl) s) ∧
         ∀ t, exec (.wvopen d a sl) s = .next t → ∃ x : Slot, t.slot sl = some x ∧ x.owner = s.cur ∧ x.cur.desc = desc ∧
           x.cur.wlo = lo ∧ x.cur.whi = hi ∧ x.cur.pa = lo ∧ x.cur.pb = 0
       ((desc.get 0).getLsbD 2 = false → opened 0 count (addrsFrom (s.me.xr a) 64)) ∧
       ((desc.get 0).getLsbD 2 = true → s.readsApart (addrsFrom (s.me.xr a) 64 ++ addrsFrom p 4 ++ addrsFrom q 4) →
         word32 p ≤ word32 q →
         opened (word32 p) (word32 q) (addrsFrom (s.me.xr a) 64 ++ addrsFrom p 4 ++ addrsFrom q 4))) ∧
     (∀ (k : KReg) (a b : Reg) (x : Slot), s.slice = 0 → s.slot sl = some x → x.owner = s.cur → s.me.weaveAlign a b = none →
       s.maskOwned s.cur k = false → s.me.vstart.toNat ≤ x.cur.cap →
       let w := packR 0x35 (kField k) a b ((0 : BitVec 4) ++ sl ++ (1 : BitVec 4))
       let r := s.weaveLoop w x.cur.cap weaveFuel
         { cur := x.cur, io := { reader := s.me.reader, places := [] }, e := s.me.vstart.toNat, out := [], stop := none }
       r.stop.isNone → (x.cur.cap ≤ r.e ∨ r.cur.done = true) →
       ∃ t, exec (.wvstep k a b sl) s = .next t ∧ t.slot sl = some { owner := s.cur, cur := r.cur } ∧
         s.sameOthers t ∧ s.sameQueues t ∧ (∀ n, ¬ leafByte r.io.places n → memGet t.mem n = memGet s.mem n) ∧
         let g : Hart := { s.me with pins := [] }
         let h := g.weaveWrite k a b r.out.reverse
         (r.e = 0 ∨ x.cur.done = true → t.me = { g with vl := BitVec.ofNat 16 r.e, vstart := 0 }.advance) ∧
         (r.e ≠ 0 → x.cur.done = false → t.me = { (h.weaveStamp a b r.e ((r.e + 1023) / 1024)).copyGroup a 2 with
           vl := BitVec.ofNat 16 r.e, vstart := 0 }.advance)) ∧
     (∀ (w : BitVec 32) (c : Cursor) (cap fuel e : Nat),
       let r := s.weaveLoop w cap fuel
         { cur := c, io := { reader := s.me.reader, places := [] }, e := e, out := [], stop := none }
       r.out.reverse.map (fun x => x.1) = List.range' e r.out.length ∧ r.e = e + r.out.length ∧ (e ≤ cap → r.e ≤ cap)) ∧
     (∀ (w : BitVec 32) (desc : Vector Word 8) (lo hi row olo ohi : Nat) (runs : List (Nat × Nat × Nat)),
       let c := cursorAt desc lo hi row olo ohi
       weaveBad desc = false → lo ≤ hi → c.afirst ≤ row →
         (row < c.afirst + c.rows ∨ c.rows = 0) → s.weavePtr c row ≤ lo →
       s.WeaveInOrder c → s.readsApart c.entries →
       let r := s.weaveRuns w runs c
       let pairs := r.1.map (fun x => x.2.1)
       r.2.2 = true ∧ pairs <+: s.weavePairs c ∧ (r.2.1.done = true → pairs = s.weavePairs c) ∧
       ∀ n x, r.1[n]? = some x → x.2.2 = (x.1 == 0 ||
         x.2.1.row != (if n = 0 then 0 else (pairs[n - 1]?.map (fun p => p.row)).getD 0))) ∧
     (∀ (d a b : Reg) (x : Slot), s.slot sl = some x → x.owner = s.cur → x.cur.mode ≠ 1 →
       let c := x.cur
       let row := fun (n : Nat) => c.desc.get 2 + BitVec.ofNat 64 (4 * n)
       let inner := if c.acsr then List.range' (c.afirst + 1) (c.acount - 1) else []
       let n := (s.me.xr a).toNat
       let lo := min (c.olo + (s.me.xr b).toNat * n) c.ohi
       let hi := min (lo + n) c.ohi
       let vas := inner.flatMap (fun m => addrsFrom (row m) 4)
       s.readsApart vas → c.acount < 2 ^ 32 →
       (∀ m ∈ inner, c.olo ≤ word32 (row m) ∧ word32 (row m) ≤ c.ohi ∧ ∀ k ∈ inner, m ≤ k → word32 (row m) ≤ word32 (row k)) →
       s.loadedAs vas (s.me.setX d (BitVec.ofNat 64 (hi - lo))).advance (exec (.wvsplit d a b sl) s) ∧
       ∀ t, exec (.wvsplit d a b sl) s = .next t → ∃ y : Slot, t.slot sl = some y ∧ y.owner = s.cur ∧ y.cur.desc = c.desc ∧
         y.cur.wlo = lo ∧ y.cur.whi = hi ∧ y.cur.pa = lo ∧ y.cur.olo = c.olo ∧ y.cur.ohi = c.ohi ∧
         (y.cur.row = c.afirst ∨ (y.cur.row ∈ inner ∧ word32 (row y.cur.row) ≤ lo)) ∧
         (y.cur.row + 1 ∈ inner → lo < word32 (row (y.cur.row + 1)))) ∧
     (∀ (a : Reg) (x : Slot), s.slot sl = some x → x.owner = s.cur → (s.me.xr a).toNat % 8 = 0 →
       s.belayed s.cur = false → s.locks = [] → (∀ va ∈ addrsFrom (s.me.xr a) 128, (s.writePlace va).isSome = true) →
       s.stored (addrsFrom (s.me.xr a) 128) ((List.range 128).map (fun j => (s.me.xr a + BitVec.ofNat 64 j,
         BitVec.ofNat 8 ((x.cur.words.getD (j / 8) 0).toNat / 256 ^ (j % 8)), 0xFF))) s.me.advance (exec (.wvsave a sl) s)) ∧
     (∀ (a : Reg) (c : Cursor), free → (s.me.xr a).toNat % 8 = 0 →
       s.readsApart (addrsFrom (s.me.xr a) 128) →
       Cursor.ofImage ((addrsFrom (s.me.xr a) 128).map s.vaByte) = some c →
       s.loadedAs (addrsFrom (s.me.xr a) 128) s.me.advance (exec (.wvload a sl) s) ∧
       ∀ t, exec (.wvload a sl) s = .next t → t.slot sl = some { owner := s.cur, cur := c }) ∧
     (∃ t, exec (.wvclose sl) s = .next t ∧ t.me = s.me.advance ∧ s.sameMemory t ∧ s.sameQueues t ∧ s.sameOthers t ∧
       (free → t.slot sl = none) ∧ (∀ x, s.slot sl = some x → x.owner ≠ s.cur → t.slot sl = some x) ∧
       ∀ n, n ≠ sl → t.slot n = s.slot n)) ∧
  (∀ c : Cursor, weaveBad c.desc = false → (weaveMisaligned c.desc).isNone → c.wlo ≤ c.pa → c.pa ≤ c.whi →
     c.whi < 2 ^ 32 → c.row < 2 ^ 32 → c.lastRow < 2 ^ 32 → c.pb < 2 ^ 32 → c.lastA < 2 ^ 32 → c.lastB < 2 ^ 32 →
     c.pbEnd < 2 ^ 32 → c.olo < 2 ^ 32 → c.ohi < 2 ^ 32 → Cursor.ofImage c.image = some c)

/-! ### Farms (chapter 12) -/

/-- STRIP, of a hart that runs or of one blocked in it, deals the next strip within the deal window and the belay limit
with its sidx, avl and vl, when no hart whose STRIP reached base camp before and still waits may be dealt one; it answers all
ones once every strip is committed or the launch has failed; and otherwise it waits, behind those that wait already (R322,
R324, R328). Outside a farm it is STRIP_STATE with tval 0, and with a strip open STRIP_STATE with the strip's index (R326, Table
12.8).
The model's choices it rests on: log 27. -/
def Obligations.StripResults : Prop :=
  (∀ (s : State) (h : HartId) (d : Reg) (x : Launch), s.launch (s.hart h).launch = some x → x.record.kind ≠ 0 →
    x.openOf (s.hart h).rank = none →
    let u := s.beginAs h
    let y := { u.me with status := .running }
    let ended := x.allDone = true ∨ x.failed.isSome = true
    let due := fun (z : Launch) (n : Nat) =>
      z.nextStrip = some n ∧ z.failed.isNone ∧ n < z.stripFloor + 65536 ∧ (z.record.kind ≠ 1 ∨ s.openBelayed < 128)
    let waits := fun (g : HartId) => ∃ c, (s.hart g).status = .blocked (.strip c)
    let before := if s.asksStrip h then s.camp.asks.takeWhile (fun g => g != h) else s.camp.asks
    let first := ∀ g ∈ before, waits g → ∀ z, s.launch (s.hart g).launch = some z → ∀ n, ¬ due z n
    let again := fun (t : State) =>
      (s.hart h).status = .blocked (.strip d) → exec (.stripBlockEnd h) s = .next { t.settled h with cur := s.cur }
    (ended → let t := u.setMe (y.setX d (BitVec.allOnes 64)).advance; exec (.strip d) u = .next t ∧ again t) ∧
    (∀ n, ¬ ended → due x n → first →
      let lo := n * x.record.savl.toNat
      let avl := if n + 1 = x.record.strips.toNat ∧ x.record.lavl ≠ 0 then x.record.lavl.toNat else x.record.savl.toNat
      ∃ t, exec (.strip d) u = .next t ∧ again t ∧
        t.hart h = { y.setX d (BitVec.ofNat 64 n) with
          sidx := BitVec.ofNat 64 lo, avl := BitVec.ofNat 64 avl, vl := BitVec.ofNat 16 (min avl 32768), vstart := 0 }.advance ∧
        (∀ g, g ≠ h → t.hart g = s.hart g) ∧ s.sameMemory t ∧ s.sameQueues t ∧
        ∃ z, t.launch x.ident = some z ∧
          z.openOf (s.hart h).rank = some { strip := n, rank := (s.hart h).rank, staged := [], deposits := [], post := lo,
                                            stop := lo + avl, bad := [] } ∧
          z.count = x.count ∧
          z.redeal = x.redeal.filter (fun m => m != n) ∧ z.nextDeal = (if n = x.nextDeal then n + 1 else x.nextDeal)) ∧
    (¬ ended → ((∀ n, ¬ due x n) ∨ ¬ first) →
      (∃ t, exec (.strip d) u = .next t ∧ t.me = { u.me with status := .blocked (.strip d) } ∧ s.sameMemory t ∧ s.sameQueues t ∧
        (∀ g, g ≠ h → t.hart g = s.hart g) ∧ t.asksStrip h = true ∧
        (s.asksStrip h = false → t.camp.asks = s.camp.asks.filter (fun g => s.asksStrip g) ++ [h])) ∧
      ((s.hart h).status = .blocked (.strip d) → exec (.stripBlockEnd h) s = .next s))) ∧
  (∀ (s : State) (h : HartId) (d : Reg),
    let u := s.beginAs h
    ((∀ x, s.launch (s.hart h).launch = some x → x.record.kind = 0) → exec (.strip d) u = u.trapped 0x54 0) ∧
    (∀ x o, s.launch (s.hart h).launch = some x → x.record.kind ≠ 0 → x.openOf (s.hart h).rank = some o →
      exec (.strip d) u = u.trapped 0x54 (BitVec.ofNat 64 o.strip)))


/-- SDEP records its deposit in the open strip, the last of a slot standing; SCOMMIT and the resumption of one that waits
for the rope window commit the open strip, with its staged writes applied in order in a belayed farm, and with the rest
of its iterations posted in a roped one; a belay that finds uncorrectable data in its staged lines or in those it merges into
traps with memory as it was, and the strip waits to be dealt again (R347). RETIRE commits an open strip as SCOMMIT would, then
frees the position and counts the hart as retired; one that waited for the rope window executes again (R331). SCOMMIT and SDEP
with no open strip, or a slot past RN, are STRIP_STATE (R96, R243, R329 to R332).
The model's choices it rests on: logs 11, 26 and 35. -/
def Obligations.StripCommitResults : Prop :=
  ∀ (s : State) (h : HartId) (x : Launch), s.launch (s.hart h).launch = some x →
    let u := s.beginAs h
    let rank := (s.hart h).rank
    let run : Hart := { u.me with status := .running }
    let others := fun (t : State) => (∀ g, g ≠ h → t.hart g = s.hart g) ∧ s.sameQueues t
    let left := fun (t : State) => t.hart h = Hart.initial ∧ (t.core (coreOf h)).tileOwner ≠ some h ∧
      ∀ n y, (t.core (coreOf h)).slots.get n = some y → y.owner ≠ h
    let again := fun (w : Waiting) (t : State) => (s.hart h).status = .blocked w →
      exec (.scommitWindowResume h) s = .next { t.settled h with cur := s.cur }
    (x.openOf rank = none →
      exec .scommit u = u.trapped 0x54 0 ∧ (∀ a b, exec (.sdep a b) u = u.trapped 0x54 0) ∧
      (s.quiet h = true → ∃ t, exec .retire u = .next t ∧ left t ∧ others t ∧ s.sameMemory t ∧
        t.launch x.ident = some { x with retired := x.retired + 1 })) ∧
    (∀ o, x.openOf rank = some o →
      let committed := fun (t : State) (ends : Nat) => ∃ z, t.launch x.ident = some z ∧ z.count = x.count + 1 ∧
        z.openOf rank = none ∧ z.retired = x.retired + ends ∧
        z.deposits = x.deposits ++ o.deposits.map (fun p => (o.strip, p.1, p.2)) ∧
        (∀ n, z.posted n = (x.posted n || (decide (x.record.kind = 2) && decide (o.post ≤ n) && decide (n < o.stop)))) ∧
        ∀ n, (n < z.stripFloor ∨ n ∈ z.committedAbove) ↔ (n < x.stripFloor ∨ n ∈ x.committedAbove ∨ n = o.strip)
      (∀ a b, x.record.rn.toNat ≤ (u.me.xr b).toNat → exec (.sdep a b) u = u.trapped 0x54 (u.me.xr b)) ∧
      (∀ a b, (u.me.xr b).toNat < x.record.rn.toNat →
        ∃ t, exec (.sdep a b) u = .next t ∧ t.hart h = u.me.advance ∧ others t ∧ s.sameMemory t ∧
          ∃ z p, t.launch x.ident = some z ∧ z.openOf rank = some p ∧ p.strip = o.strip ∧ p.staged = o.staged ∧
            p.deposits = o.deposits.filter (fun e => e.1 != (u.me.xr b).toNat) ++ [((u.me.xr b).toNat, u.me.xr a)]) ∧
      (s.quiet h = true → x.record.kind = 1 → s.locks = [] → o.bad = [] → (∀ b ∈ s.badLines, b.line ∉ o.lines) →
        let m := applyStaged s.mem o.staged
        (∃ t, exec .scommit u = .next t ∧ t.hart h = { run with fflags := fflagsVector run.fflags m.2 }.advance ∧
          others t ∧ t.mem = m.1 ∧ committed t 0) ∧
        (∃ t, exec .retire u = .next t ∧ left t ∧ others t ∧ t.mem = m.1 ∧ committed t 1)) ∧
      (∀ b, s.quiet h = true → x.record.kind = 1 → s.locks = [] → s.belayError o = some b →
        (b ∈ o.bad ∨ (b ∈ s.badLines ∧ b.line ∈ o.lines)) ∧
        ∀ i ∈ [Instr.scommit, .retire], ∃ (t : State) (z : Launch), exec i u = t.trapped (lineCause b) (lineTval s.part b) ∧ t.cur = h ∧
          t.harts = u.harts ∧ t.mem = s.mem ∧ t.badLines = s.badLines ∧ t.launch x.ident = some z ∧ z.openOf rank = none ∧
          z.count = x.count ∧ z.deposits = x.deposits ∧ ∀ n, n ∈ z.redeal ↔ (n ∈ x.redeal ∨ n = o.strip)) ∧
      (s.quiet h = true → x.record.kind = 2 → x.failed = none → o.stop ≤ x.ropeFloor + 8192 →
        (∃ t, exec .scommit u = .next t ∧ (o.post < x.ropeFloor + 8192 → again .scommit t) ∧
          t.hart h = run.advance ∧ others t ∧ s.sameMemory t ∧ committed t 0) ∧
        (∃ t, exec .retire u = .next t ∧ left t ∧ others t ∧ s.sameMemory t ∧ committed t 1) ∧
        (∃ t, (o.post < x.ropeFloor + 8192 → again .retire t) ∧ t.hart h = run ∧ others t ∧ s.sameMemory t ∧
          committed t 0)) ∧
      (s.quiet h = true → x.record.kind = 2 →
        (x.failed.isSome = true ∨ (x.ropeFloor + 8192 ≤ o.post ∧ o.post < o.stop)) → ∀ w ∈ [Waiting.scommit, .retire],
          (∃ t, exec (if w = .scommit then .scommit else .retire) u = .next t ∧ t.launch x.ident = some x ∧
            t.hart h = { u.me with status := .blocked w } ∧ others t ∧ s.sameMemory t) ∧
          ((s.hart h).status = .blocked w → exec (.scommitWindowResume h) s = .next s)))

/-- FARM reads its record: with more than 2^24 strips it is FARM_RANGE; a record that fails its checks is answered BAD or
RANGE; otherwise, once the hart's writes are home, it waits while the queue holds 256 records, completes a farm of no strips
with its identities, and enqueues any other at the end of its queue, with x[d] = 0. A hart blocked in it goes on once there is
room. FARMW answers the doubleword at x[a] once it is not 0, and waits until then (R313, R327, R331). -/
def Obligations.FarmResults : Prop :=
  ∀ (s : State) (h : HartId) (d a b : Reg) (ps : List Place),
    let u := s.beginAs h
    let y : Hart := { u.me with status := .running }
    let ea := u.me.xr a
    let bytes := ps.map (fun p => u.fetchByte h p.pa)
    let rest := fun (t : State) => (∀ g, g ≠ h → t.hart g = s.hart g) ∧ s.sameQueues t
    s.locks = [] → s.clean = true →
    (u.AccessReady .read .opened 64 ea (packR 0x36 d a b 0) ps → (∀ p ∈ ps, p.mark = none) → s.belayed h = false →
      let w := descOf bytes
      let r := recordOf w
      let q : Fin 16 := Fin.ofNat 16 (u.me.xr b).toNat
      let known := r.done ≠ 0 ∧ r.done.toNat % 8 = 0 ∧ (u.me.supervisor = true ∨ r.asid = u.me.asid) ∧ recordBad w = false
      let answer := fun (v : Word) => ∃ t, exec (.farm d a b) u = .next t ∧ t.hart h = (y.setX d v).advance ∧ rest t ∧
        t.mem = s.mem ∧ t.camp = s.camp
      let again := fun (t : State) => (s.hart h).status = .blocked (.farm d a b) →
        exec (.farmQueueRoom h) s = .next { t.settled h with cur := s.cur }
      (2 ^ 24 < r.strips.toNat → exec (.farm d a b) u = { u with tick := s.tick + 1 }.trapped 0x50 (r.strips.setWidth 64)) ∧
      (r.strips.toNat ≤ 2 ^ 24 → ¬ known → answer 3) ∧
      (∀ e, r.strips.toNat ≤ 2 ^ 24 → known → { u with tick := s.tick + 1 }.asEntry r.asid = .ok e →
        let valid := e[0].getLsbD 0 = true
        let fits := r.team.toNat ≤ 4 * (s.permitted r.cores).length
        (¬ valid → answer 3) ∧ (valid → ¬ fits → answer 2) ∧
        (valid → fits → s.quiet h = true → 256 ≤ (s.queue q).records.length →
          ∃ t, exec (.farm d a b) u = .next t ∧ t.hart h = { u.me with status := .blocked (.farm d a b) } ∧ rest t ∧
            t.mem = s.mem ∧ t.camp = s.camp) ∧
        (valid → fits → s.quiet h = true → (s.queue q).records.length < 256 → (r.kind = 0 ∨ r.strips ≠ 0) →
          ∃ t, exec (.farm d a b) u = .next t ∧ again t ∧ t.hart h = (y.setX d 0).advance ∧ rest t ∧ t.mem = s.mem ∧
            (t.queue q).records = (s.queue q).records ++ [{ record := r, headAt := s.baseClock }] ∧
            ∀ k, k ≠ q → t.queue k = s.queue k) ∧
        (valid → fits → s.quiet h = true → (s.queue q).records.length < 256 → r.kind ≠ 0 → r.strips = 0 → s.mem.wf = true →
          let n := 8 + 8 * r.rn.toNat
          (∀ i, i < n → r.done.toNat + i < 2 ^ 52 ∧ s.region (r.done.toNat + i) = .global) →
          ∃ t, exec (.farm d a b) u = .next t ∧ again t ∧ t.hart h = (y.setX d 0).advance ∧ rest t ∧ t.camp = s.camp ∧
            ∀ k, memGet t.mem k = if r.done.toNat ≤ k ∧ k < r.done.toNat + n then
                let i := k - r.done.toNat
                BitVec.ofNat 8 ((if i < 8 then 1 else (ropIdentity r.rop).toNat) / 256 ^ (i % 8))
              else memGet s.mem k))) ∧
    (u.AccessReady .read .opened 8 ea (packR 0x36 d a 0 4) ps → (∀ p ∈ ps, ¬ leafByte ps p.pa) →
      let v := leNat bytes
      let same := fun (t : State) => rest t ∧ ∀ n, ¬ leafByte ps n → memGet t.mem n = memGet s.mem n
      (v ≠ 0 → ∃ t, exec (.farmw d a) u = .next t ∧
        ((s.hart h).status = .blocked (.farmw d a) → exec (.farmwReturn h) s = .next { t.settled h with cur := s.cur }) ∧
        t.hart h = (y.setX d (BitVec.ofNat 64 v)).advance ∧ same t) ∧
      (v = 0 → ∃ t, exec (.farmw d a) u = .next t ∧ t.hart h = { u.me with status := .blocked (.farmw d a) } ∧ same t))

/-- POST posts the iterations of the open strip up to x[a] within the window; WAIT and VWAIT complete when every
iteration they name is posted, wait while one is not, and are ROPE_FORWARD for one at or past the strip's post
position; a hart blocked in one goes on as it would (R332 to R335). BARA takes the lowest free object for its launch,
with the count it names, and answers its handle, or 0 when none is free; with count 0 it frees the object of its
handle, whose generation then differs. BARW answers the phase and arrives; the arrival that completes the count
starts the next phase. WAIT on a token answers how many phases have passed since, when between 1 and 32768, and waits
otherwise (R336 to R339).
The model's choices it rests on: log 26. -/
def Obligations.RopeAndBarrierResults : Prop :=
  (∀ (s : State) (h : HartId) (x : Launch) (o : OpenStrip), s.launch (s.hart h).launch = some x → x.record.kind = 2 →
     x.openOf (s.hart h).rank = some o →
     let u := s.beginAs h
     let y : Hart := { u.me with status := .running }
     let ends := fun (t : State) => Host.Outcome.next { t.settled h with cur := s.cur }
     (∀ a, let i := ((s.hart h).xr a).toNat
       (o.stop ≤ i → exec (.post a) u = u.trapped 0x54 ((s.hart h).xr a)) ∧
       (i < o.stop → s.quiet h = true → x.failed = none → i < x.ropeFloor + 8192 →
         ∃ t, exec (.post a) u = .next t ∧
           ((s.hart h).status = .blocked (.post a) → o.post ≤ i →
             exec (.postWindowResume h) s = ends t) ∧
           t.hart h = y.advance ∧ (∀ g, g ≠ h → t.hart g = s.hart g) ∧ s.sameMemory t ∧ s.sameQueues t ∧
           ∃ z, t.launch x.ident = some z ∧ z.postPos (s.hart h).rank = max o.post (i + 1) ∧
             ∀ n, z.posted n = (x.posted n || (decide (o.post ≤ n) && decide (n ≤ i))))) ∧
     (∀ a, let i := ((s.hart h).xr a).toNat
       (o.post ≤ i → exec (.waitRope a) u = u.trapped 0x51 ((s.hart h).xr a)) ∧
       (i < o.post → x.posted i = true →
         exec (.waitRope a) u = .next (u.setMe y.advance) ∧
         ((s.hart h).status = .blocked (.waitRope a) → exec (.ropeWaitReturn h) s = ends (u.setMe y.advance))) ∧
       (i < o.post → x.posted i = false →
         exec (.waitRope a) u = .next (u.setMe { u.me with status := .blocked (.waitRope a) }))) ∧
     (∀ a m, (s.hart h).VectorReady (s.hart h).vt.isInt [a] false → (s.hart h).vstart = 0 →
       let names := ((s.hart h).activeBody m).map (fun n => (s.hart h).pat a n (s.hart h).vt.wa)
       (∀ i rest before, names = before ++ i :: rest → (∀ j ∈ before, j < o.post) → o.post ≤ i →
         exec (.vwait a m) u = u.trapped 0x51 (BitVec.ofNat 64 i)) ∧
       ((∀ i ∈ names, i < o.post ∧ x.posted i = true) →
         let t := u.setMe { y with vstart := 0 }.advance
         exec (.vwait a m) u = .next t ∧
         ((s.hart h).status = .blocked (.vwait a m ((s.hart h).sampled m)) → exec (.vwaitReturn h) s = ends t)) ∧
       ((∀ i ∈ names, i < o.post) → (∃ i ∈ names, x.posted i = false) →
         exec (.vwait a m) u = .next (u.setMe { u.me with status := .blocked (.vwait a m ((s.hart h).sampled m)) })))) ∧
  (∀ (s : State) (h : HartId),
     let u := s.beginAs h
     let y := u.me
     let handle := fun (n : Fin 64) (g : BitVec 16) => BitVec.ofNat 64 (g.toNat * 65536 + 64 + n.val)
     let bar := fun (t : State) (n : Fin 64) => t.camp.barriers.get n
     let rest := fun (t : State) (x : Hart) => t.hart h = x ∧ (∀ g, g ≠ h → t.hart g = s.hart g) ∧ s.sameMemory t ∧ s.sameQueues t
     (∀ (d a b : Reg) (n : Fin 64), 1 ≤ (y.xr a).toNat → (y.xr a).toNat ≤ 65535 → (bar s n).owner = none →
       (∀ k, k < n → (bar s k).owner ≠ none) →
       ∃ t, exec (.bara d a b) u = .next t ∧ rest t (y.setX d (handle n (bar s n).gen)).advance ∧
         bar t n = { owner := some y.launch, gen := (bar s n).gen, need := (y.xr a).setWidth 16, arrived := 0, phase := 0 } ∧
         ∀ k, k ≠ n → bar t k = bar s k) ∧
     (∀ (d a b : Reg), 1 ≤ (y.xr a).toNat → (y.xr a).toNat ≤ 65535 → (∀ k, (bar s k).owner ≠ none) →
       ∃ t, exec (.bara d a b) u = .next t ∧ rest t (y.setX d 0).advance ∧ t.camp = s.camp) ∧
     (∀ (d a b : Reg) (n : Fin 64), y.xr a = 0 → s.barrierOf y.launch (y.xr b) = some n →
       ∃ t, exec (.bara d a b) u = .next t ∧ rest t (y.setX d 0).advance ∧
         bar t n = { owner := none, gen := (bar s n).gen + 1, need := 0, arrived := 0, phase := 0 } ∧
         ∀ k, k ≠ n → bar t k = bar s k) ∧
     (∀ (d a : Reg) (n : Fin 64), s.belayed h = false → s.barrierOf y.launch (y.xr a) = some n → s.quiet h = true →
       ∃ t, exec (.barw d a) u = .next t ∧ rest t (y.setX d ((bar s n).phase.setWidth 64)).advance ∧
         bar t n = (if (bar s n).arrived + 1 = (bar s n).need then
           { bar s n with arrived := 0, phase := (bar s n).phase + 1 } else
           { bar s n with arrived := (bar s n).arrived + 1 }) ∧
         ∀ k, k ≠ n → bar t k = bar s k) ∧
     (∀ (d a b : Reg) (n : Fin 64), s.barrierOf y.launch (y.xr b) = some n →
       let k := ((bar s n).phase - (y.xr a).setWidth 16).toNat
       let back := u.setMe ({ y with status := .running }.setX d (BitVec.ofNat 64 k)).advance
       (1 ≤ k ∧ k ≤ 32768 → exec (.waitBarrier d a b) u = .next back ∧
         (y.status = .blocked (.waitBarrier d a b) →
           exec (.barrierWaitReturn h) s = .next { back.settled h with cur := s.cur })) ∧
       (¬ (1 ≤ k ∧ k ≤ 32768) → exec (.waitBarrier d a b) u =
         .next (u.setMe { y with status := .blocked (.waitBarrier d a b) }))) ∧
     (∀ (d a b : Reg), s.barrierOf y.launch (y.xr b) = none →
       exec (.waitBarrier d a b) u = u.trapped 0x53 (y.xr b)) ∧
     (∀ (n : Fin 64) (l : Nat) (v : Word), s.barrierOf l v = some n ↔
       ((bar s n).owner = some l ∧ v = handle n (bar s n).gen)))


/-! ### The fabric (chapter 16) -/

/-- An RSCAT whose elements can all be written writes those of this module and sends one train to each other module it
names, in ascending element order; RMCAST reads its descriptor and its source and sends one train to each module its mask
names, writing this module's copy when it lies in memory; each completes once no train is unacknowledged. An
acknowledgement within FTO over a route that is up takes its module off the list. A request unanswered FTO base clocks after
it was sent is FABRIC_TIMEOUT at the instruction, with the first physical address that is not answered or its lowest
unacknowledged module in tval; the bytes on this module of a part of a store that reaches both have performed, or have not
(R384 to R388). The statement is for accesses that find their pages marked, no line locked and
no data uncorrectable.
The model's choices it rests on: logs 23 and 60. -/
def Obligations.FabricSendResults : Prop :=
  (∀ s : State, s.locks = [] → s.clean = true → s.mem.wf = true → s.quiet s.cur = true → s.belayed s.cur = false →
    let h := s.me
    let sent := fun (t : State) (cast : Bool) (ts : List (Byte × List TrainWrite)) (mods : List Byte) (ws : List ByteWrite) =>
      s.sameOthers t ∧ s.sameQueues t ∧ t.cur = s.cur ∧
      t.fabric = { s.fabric with out := s.fabric.out ++ ts.map (fun x => .train x.1 cast x.2 x.2.length) } ∧
      t.mem = memPuts s.mem ws ∧
      t.me = if mods = [] then { h with pins := [] }.advance
        else { h with remote := .trains mods, sentAt := s.baseClock, pins := t.me.pins }
    (∀ v a n : Reg,
      (h.remote = .trains [] → let t := s.setMe { h with remote := .idle, pins := [] }.advance
        exec (.rscat v a n) s = .next t ∧ exec (.rmcast a) s = .next t) ∧
      (∀ m rest, h.remote = .trains (m :: rest) → exec (.rscat v a n) s = .next s ∧ exec (.rmcast a) s = .next s)) ∧
    (h.remote = .idle → ∀ (v a n : Reg) (ps : Nat → List Place),
      let t := h.vt
      let nb := t.wd / 8
      let addr := fun (i : Nat) => h.xr a + BitVec.ofNat 64 (nb * h.pat n i t.wb)
      let pa := fun (i : Nat) => ((ps i).map (fun p : Place => p.pa)).headD 0
      h.VectorReady (vamoKind 6 t) [v, n] false → h.vstart = 0 → h.mfmt = 0 → (h.xr a).toNat % nb = 0 →
      (∀ i, i < h.vl.toNat → s.locateAll (s.ctx s.cur) .write .never (addr i) nb = .ok (ps i) ∧
        (∀ p ∈ ps i, p.mark = none) ∧ (pa i / 2 ^ 44 ≠ 0 → s.reachable (s.moduleOf (pa i)) = true)) →
      let elems := (List.range h.vl.toNat).map (fun i => (pa i, leBytes nb (h.pat v i t.wd)))
      let foreign := elems.filter (fun e => e.1 / 2 ^ 44 != 0)
      let mods := (foreign.map (fun e => s.moduleOf e.1)).eraseDups
      let trains := mods.map (fun m => (m, (foreign.filter (fun e => s.moduleOf e.1 == m)).map (fun e =>
        ({ off := e.1 % 2 ^ 44, bytes := e.2 } : TrainWrite))))
      ∃ u, exec (.rscat v a n) s = .next u ∧
        sent u false trains mods ((elems.filter (fun e => e.1 / 2 ^ 44 == 0)).flatMap (fun e => writesAt e.1 e.2))) ∧
    (h.remote = .idle → ∀ (a : Reg) (ps qs : List Place),
      let word := packR 0x37 0 a 0 1
      s.AccessReady .read .opened 64 (h.xr a) word ps → (∀ p ∈ ps ++ qs, p.mark = none) →
      let d := descOf (ps.map (fun p => s.fetchByte s.cur p.pa))
      let u := { (s.keepProbe ps none).usedPins with tick := s.tick + 1 }
      let mods := ((List.range 256).filter (fun f =>
        (#v[d[4], d[5], d[6], d[7]].toList.getD (f / 64) 0).getLsbD (f % 64))).map (fun f => BitVec.ofNat 8 f)
      let bad := fun (i : Nat) => exec (.rmcast a) s = .next (u.trapHart s.cur 0x44 (BitVec.ofNat 64 i) h.pc)
      (2 ^ 44 ≤ d[1].toNat → bad 1) ∧
      (d[1].toNat < 2 ^ 44 → 2 ^ 32 ≤ d[2].toNat → bad 2) ∧
      (d[1].toNat < 2 ^ 44 → d[2].toNat < 2 ^ 32 → d[3] ≠ 0 → bad 3) ∧
      (d[1].toNat < 2 ^ 44 → d[2].toNat < 2 ^ 32 → d[3] = 0 →
        (∀ m before rest, mods = before ++ m :: rest → (∀ k ∈ before, s.reachable k = true) → s.reachable m = false →
          exec (.rmcast a) s = .next (u.trapHart s.cur 0x45 (m.setWidth 64) h.pc)) ∧
        ((∀ m ∈ mods, s.reachable m = true) →
          (d[2].toNat = 0 ∨ mods = [] → exec (.rmcast a) s = .next (u.setMe { h with pins := [] }.advance)) ∧
          (d[2].toNat ≠ 0 → mods ≠ [] → u.probeBytes .read word (addrsFrom d[0] d[2].toNat) = .ok qs →
            (∀ p ∈ qs, s.inModule p.pa = true) →
            let bytes := qs.map (fun p => s.readByte s.cur p.pa)
            let off := d[1].toNat
            let own := s.fabric.ident ∈ mods
            let fits := off + d[2].toNat ≤ Config.memBytes s.part
            let others := mods.filter (fun m => m != s.fabric.ident)
            ∃ t, exec (.rmcast a) s = .next t ∧
              sent t true (others.map (fun m => (m, [{ off := off, bytes := bytes }])))
                (others ++ (if own ∧ ¬ fits then [s.fabric.ident] else []))
                (if own ∧ fits then writesAt off bytes else [])))))) ∧
  (∀ (s : State) (h : HartId), let limit := (s.hart h).sentAt + max 1 s.fabric.fto.toNat
    (∀ m mods, (s.hart h).remote = .trains mods →
      (s.baseClock < limit → s.routeUp m = true → exec (.fabricAck h m) s =
        .next (s.setHart h { s.hart h with remote := .trains (mods.filter (fun k => k != m)) })) ∧
      (limit ≤ s.baseClock ∨ s.routeUp m = false → exec (.fabricAck h m) s = .next s)) ∧
    (s.baseClock < limit → exec (.fabricTimeout h) s = .next s) ∧
    (limit ≤ s.baseClock → (∀ f ∈ s.vamos, f.owner ≠ h) →
      let out := fun (t : State) (v : Word) => exec (.fabricTimeout h) s = .next (t.trapHart h 0x63 v (s.hart h).pc)
      let past := fun (t : State) => { t with tick := s.tick + 1 }
      (∀ pa, (s.hart h).remote = .sent pa → out (past s) (BitVec.ofNat 64 pa)) ∧
      (∀ pa n rest got, (s.hart h).remote = .reading ((pa, n) :: rest) got → out (past s) (BitVec.ofNat 64 pa)) ∧
      (∀ r p w before after, (s.hart h).remote = .storing r → r.away = true → r.parts.head? = some p →
        p = before ++ w :: after → isRemote w.pa = true → (∀ x ∈ before, isRemote x.pa = false) →
        (∀ x ∈ p, isRemote x.pa = false → s.homeLost x.pa = false) →
        let here := p.filter (fun x => !isRemote x.pa)
        out (past ((if Config.freeBit s.tick 0 then s.home here else s).freeLocks (.hart h))) (BitVec.ofNat 64 w.pa)) ∧
      (∀ mods m, (s.hart h).remote = .trains mods → m ∈ mods → (∀ k ∈ mods, m.toNat ≤ k.toNat) →
        out (s.setHart h { s.hart h with vstart := 0 }) (m.setWidth 64))))

/-- RCOMB checks its descriptor, its ranks and its tag in order, and a good one starts its collective with this module's
input on its way in the tree. RWAIT answers 0 with no collective on its tag, takes STAT doubleword 0 once it is written and
frees the tag, and waits until then; a hart blocked in it goes on so. A node of the tree keeps its first input and sends the
second up with it, the lower on the left; once FTO base clocks have passed since the first, that one goes up alone, and a
later one is absent; an input in the place of one that such a node has counted, or one that comes once no member of the node's
collective waits, starts the node anew. The last of an odd number of partials meets its partner further up, and what reaches the root goes to
every present member. A present member that receives the root result in time, the one that this module's router formed when
the root is there and its own triple when it is alone, writes DST and then STAT with how many are
present; one that waits FTO × (L + 2) base clocks writes STAT with TIMEOUT and an empty bitmap. The identity combines with
any triple to that triple (R147, R386, R389 to R391). The statement is for accesses that find their pages marked, no line
locked and no data uncorrectable.
The model's choices it rests on: logs 61 and 62. -/
def Obligations.CollectiveResults : Prop :=
  (∀ s : State, s.locks = [] → s.clean = true → s.quiet s.cur = true → s.belayed s.cur = false → s.me.remote = .idle →
    ∀ (a : Reg) (ps rs vs : List Place),
    let h := s.me
    let placed := fun (t : State) (va : Word) (n : Nat) (l : List Place) =>
      t.locateAll (t.ctx t.cur) .read .opened va n = .ok l ∧ ∀ p ∈ l, p.mark = none ∧ s.inModule p.pa = true
    let after := fun (t : State) (l : List Place) => { (t.keepProbe l none).usedPins with tick := t.tick + 1 }
    let bytes := fun (l : List Place) => l.map (fun p => s.readByte s.cur p.pa)
    (h.xr a).toNat % 64 = 0 → placed s (h.xr a) 64 ps →
    let d := descOf (bytes ps)
    let nr := d[4].toNat / 2 ^ 16 % 2 ^ 9
    let len := d[4].toNat % 2 ^ 16
    let t0 := after s ps
    placed t0 d[3] (nr + 1) rs →
    let t1 := after t0 rs
    let ranks := bytes rs
    let word32 := fun (i : Nat) => BitVec.ofNat 32 (leNat (((bytes vs).drop (4 * i)).take 4))
    let key : CollKey := { launch := h.launch, rank := h.rank, tag := BitVec.ofNat 2 d[5].toNat }
    let away := ranks.find? (fun m => !s.reachable m)
    let checks : List RunCheck :=
      [(d[2].toNat % 64 != 0, 0x44, 2), (decide (nr ≤ 255) && (!decide ranks.Nodup || !ranks.contains s.fabric.ident), 0x44, 3),
       (d[4].toNat / 2 ^ 25 % 2 ^ 7 != 0 || decide (255 < nr) || decide (16384 < len), 0x44, 4),
       (decide (4 ≤ d[5].toNat), 0x44, 5), (d[6] != 0, 0x44, 6), (d[7] != 0, 0x44, 7),
       (away.isSome, 0x45, (away.getD 0).setWidth 64), ((s.collective key).isSome, 0x44, 8)]
    (∀ c v, firstFailing checks = some (c, v) → exec (.rcomb a) s = .next (t1.trapHart s.cur c v h.pc)) ∧
    (firstFailing checks = none → (d[0] ≠ 0 → placed t1 d[0] (8 + 4 * len) vs) →
      let triple : Option Triple := if d[0] = 0 then none else
        some { m := word32 0, s := word32 1, v := (List.range len).map (fun i => word32 (i + 2)) }
      let cid : BitVec 32 := d[4].extractLsb' 32 32
      let r := ranks.idxOf s.fabric.ident
      let x := inputClimb 9 { cid := cid, nr := nr, len := len, ranks := ranks, level := 0, index := r, present := [r],
                              triple := triple }
      let home := Config.combineHome cid (x.level + 1) (x.index / 2)
      let roots := s.roots.filter (fun y => y.cid != cid)
      let nodes := s.nodes.filter (fun n => !(n.cid == cid && n.inputs.any (fun y => y.present.contains r)))
      ∃ t, exec (.rcomb a) s = .next t ∧ t.me = { h with pins := [] }.advance ∧ s.sameOthers t ∧ s.sameQueues t ∧
        t.mem = s.mem ∧
        (let c : Collective :=
          { key := key, cid := cid, nr := nr, len := len, ranks := ranks, dst := d[1], stat := d[2], asid := h.asid,
            ptbase := h.ptbase, issuedAt := s.baseClock, own := triple, status := none }
        t.collectives = s.collectives ++ [c]) ∧
        (nr = 0 → t.roots = roots ++ [x] ∧ t.nodes = nodes ∧ t.fabric = s.fabric) ∧
        (nr ≠ 0 → home ≠ s.fabric.ident → t.roots = roots ∧ t.nodes = nodes ∧
          t.fabric = { s.fabric with out := s.fabric.out ++ [.combine home x] }) ∧
        (nr ≠ 0 → home = s.fabric.ident → (∀ n ∈ nodes, ¬ (n.cid = cid ∧ n.level = x.level + 1 ∧ n.index = x.index / 2)) →
          t.roots = roots ∧ t.fabric = s.fabric ∧
          (let n : CombineNode := { cid := cid, level := x.level + 1, index := x.index / 2, inputs := [x],
                                    firstAt := s.baseClock, closed := false }
          t.nodes = nodes ++ [n])))) ∧
  (∀ (s : State) (h : HartId) (d a : Reg),
    let u := s.beginAs h
    let y := u.me
    let key : CollKey := { launch := y.launch, rank := y.rank, tag := BitVec.ofNat 2 (y.xr a).toNat }
    let x : Hart := { y with status := .running }
    s.quiet h = true →
    (s.collective key = none → exec (.rwait d a) u = .next (u.setMe (x.setX d 0).advance)) ∧
    (∀ c w, s.collective key = some c → c.status = some w →
      let t := { u with collectives := s.collectives.filter (fun c => c.key != key) }.setMe (x.setX d w).advance
      exec (.rwait d a) u = .next t ∧
      (y.status = .blocked (.rwait d a) → exec (.rwaitReturn h) s = .next { t.settled h with cur := s.cur })) ∧
    (∀ c, s.collective key = some c → c.status = none →
      exec (.rwait d a) u = .next (u.setMe { y with status := .blocked (.rwait d a) }) ∧
      (y.status = .blocked (.rwait d a) → exec (.rwaitReturn h) s = .next s))) ∧
  (∀ (s : State) (x : CollInput), s.fabricOn = true →
    let up := fun (z : CollInput) => { z with level := z.level + 1, index := z.index / 2 }
    let place := fun (n : CombineNode) => n.cid = x.cid ∧ n.level = x.level + 1 ∧ n.index = x.index / 2
    let fresh : CombineNode :=
      { cid := x.cid, level := x.level + 1, index := x.index / 2, inputs := [x], firstAt := s.baseClock, closed := false }
    ((∀ n ∈ s.nodes, ¬ place n) → exec (.combineInput x) s = .next { s with nodes := s.nodes ++ [fresh] }) ∧
    (∀ before n after y, s.nodes = before ++ n :: after → place n → n.inputs = [y] → (∀ m ∈ before ++ after, ¬ place m) →
      let t := { s with nodes := before ++ after }
      let anew := { s with nodes := before ++ after ++ [fresh] }
      let lasts := n.firstAt + max 1 s.fabric.fto.toNat * (levelsOf (y.nr + 1) + 2)
      let late := n.firstAt + max 1 s.fabric.fto.toNat ≤ s.baseClock
      let (lo, hi) := if y.index < x.index then (y, x) else (x, y)
      let agree := lo.nr = hi.nr ∧ lo.len = hi.len ∧ lo.ranks = hi.ranks ∧ lo.cid = hi.cid
      (lasts ≤ s.baseClock → exec (.combineInput x) s = .next anew) ∧
      (s.baseClock < lasts → y.index = x.index → exec (.combineInput x) s = .next (if n.closed = true ∨ late then anew else s)) ∧
      (s.baseClock < lasts → y.index ≠ x.index →
      (n.closed = false → ¬ late → agree → exec (.combineInput x) s = .next (t.forward treeFuel { up lo with
        present := lo.present ++ hi.present
        triple := match lo.triple, hi.triple with
          | some p, some q => some (combineTriple p q)
          | some p, none => some p
          | none, q => q })) ∧
      (n.closed = false → ¬ late → ¬ agree → exec (.combineInput x) s = .next t) ∧
      (n.closed = false → late → exec (.combineInput x) s =
        .next ({ s with nodes := before ++ after ++ [{ n with closed := true }] }.forward treeFuel (up y))) ∧
      (n.closed = true → exec (.combineInput x) s = .next s)))) ∧
  (∀ (s : State) (before after : List CombineNode) (n : CombineNode) (y : CollInput), s.nodes = before ++ n :: after →
    n.closed = false → n.inputs = [y] →
    (∀ m ∈ before ++ after, ¬ (m.cid = n.cid ∧ m.level = n.level ∧ m.index = n.index)) →
    let lasts := n.firstAt + max 1 s.fabric.fto.toNat * (levelsOf (y.nr + 1) + 2)
    (lasts ≤ s.baseClock → exec (.combineNodeTimeout ⟨n.cid, n.level, n.index⟩) s = .next { s with nodes := before ++ after }) ∧
    (n.firstAt + max 1 s.fabric.fto.toNat ≤ s.baseClock → s.baseClock < lasts →
      exec (.combineNodeTimeout ⟨n.cid, n.level, n.index⟩) s =
      .next ({ s with nodes := before ++ after ++ [{ n with closed := true }] }.forward treeFuel
        { y with level := y.level + 1, index := y.index / 2 })) ∧
    (s.baseClock < n.firstAt + max 1 s.fabric.fto.toNat → exec (.combineNodeTimeout ⟨n.cid, n.level, n.index⟩) s = .next s)) ∧
  (∀ (s : State) (x : CollInput) (n : Nat), x.nr ≤ 255 →
    let width := fun (y : CollInput) => (y.nr + 1 + 2 ^ y.level - 1) / 2 ^ y.level
    x.index < width x →
    let y := inputClimb 9 x
    let home := Config.combineHome y.cid (y.level + 1) (y.index / 2)
    let members := (y.present.filterMap (fun r => y.ranks[r]?)).eraseDups
    y = { x with level := y.level, index := x.index / 2 ^ (y.level - x.level) } ∧
    (width y ≤ 1 ∨ y.index % 2 = 1 ∨ y.index + 1 < width y) ∧
    (width y ≤ 1 → s.forward (n + 1) x = { s with
      fabric := { s.fabric with out := s.fabric.out ++ (members.filter (fun m => m != s.fabric.ident)).map (fun m => .result m y) }
      roots := if s.fabric.ident ∈ members then s.roots ++ [y] else s.roots }) ∧
    (1 < width y → home ≠ s.fabric.ident →
      s.forward (n + 1) x = { s with fabric := { s.fabric with out := s.fabric.out ++ [.combine home y] } })) ∧
  (∀ (s : State) (key : CollKey) (c : Collective), s.collective key = some c → c.status = none → s.locks = [] →
    let limit := c.issuedAt + max 1 s.fabric.fto.toNat * (levelsOf (c.nr + 1) + 2)
    let rootHere := c.nr = 0 ∨ Config.combineHome c.cid (levelsOf (c.nr + 1)) 0 = s.fabric.ident
    let ended := fun (t : State) (w : Word) => (∀ h, t.hart h = s.hart h) ∧ s.sameQueues t ∧
      (∃ e, t.collective key = some e ∧ e = { c with status := some w }) ∧ t.roots = s.roots.filter (fun x => x.cid != c.cid)
    (∀ x : CollInput, s.baseClock < limit → x.cid = c.cid → x.nr = c.nr → x.len = c.len → x.ranks = c.ranks →
      x.present = (List.range (c.nr + 1)).filter (fun r => decide (r ∈ x.present)) →
      (∃ r ∈ x.present, c.ranks[r]? = some s.fabric.ident) → (∀ t, x.triple = some t → t.v.length = c.len) →
      (x.present = [c.ranks.idxOf s.fabric.ident] → x.triple = c.own) →
      (if rootHere then x ∈ s.roots else s.fabricOn = true) →
      let root : Triple := x.triple.getD { m := 0xFF800000, s := 0, v := List.replicate c.len 0 }
      let w : Word := BitVec.ofNat 64 (x.present.length * 2 ^ 16 + if x.present.length = c.nr + 1 then 1 else 2)
      ∃ t, exec (.collectiveResult ⟨key, x⟩) s = .next t ∧ ended t w ∧
        t.mem = ((s.memberWrite c.asid c.ptbase c.dst
          ((root.m :: root.s :: root.v).flatMap (fun x => leBytes 4 x.toNat))).memberWrite c.asid c.ptbase c.stat (leBytes 8 w.toNat ++ leBytes 32 ((x.present.map (fun r => 2 ^ r)).sum) ++ List.replicate 24 0)).mem) ∧
    (∀ x : CollInput, (rootHere ∧ x ∉ s.roots) ∨ (¬ rootHere ∧ s.fabricOn = false) ∨
      (x.present = [c.ranks.idxOf s.fabric.ident] ∧ s.fabric.ident ∈ c.ranks ∧ x.triple ≠ c.own) →
      exec (.collectiveResult ⟨key, x⟩) s = .next s) ∧
    (s.baseClock < limit → exec (.collectiveMemberTimeout key) s = .next s) ∧
    (limit ≤ s.baseClock → (∀ x, exec (.collectiveResult ⟨key, x⟩) s = .next s) ∧
      ∃ t, exec (.collectiveMemberTimeout key) s = .next t ∧ ended t 3 ∧
        t.mem = (s.memberWrite c.asid c.ptbase c.stat (leBytes 8 3 ++ List.replicate 56 0)).mem)) ∧
  (∀ (a : Triple), let ident : Triple := { m := 0xFF800000, s := 0, v := List.replicate a.v.length 0 }
    combineTriple a ident = a ∧ combineTriple ident a = a)

/-- FCTL.EN trains ports or takes them all down, and on a part without ports FCTL is no register; a port trains only with
EN = 1, and one that loses training is down, and it alone; a retried flit changes nothing. An exploration sends this module's
ID on each trained port; one that reaches two modules of one ID leaves no valid route, and another gives each other ID that
it reaches the lowest port that starts a shortest path, and no other ID a route; a write of FCTL with bit 1 set explores.
The answer of another module reaches the hart that asked, while it is in time and its routes are up: for the next of several
reads with their bytes, and for a part of a store, whose bytes on this module then perform; a load, store, AMO or
VAMO of another module performs at its bytes here and is answered; a line that another module locks has its holder; a
train of the right count performs in order and is acknowledged, and one of another count, or with a byte that lies in no
memory of this module (in no global memory, for a multicast), is not (R242, R252, R383 to R385, R387, R388).
The model's choices it rests on: logs 23, 59, 61 and 66. -/
def Obligations.FabricEvents : Prop :=
  (∀ (s : State) (v : Word) (p : Fin 16) (idents : List Byte) (links : List Link), s.mgmt.base = true →
    let on : State := { s with fabric := { s.fabric with
      en := v.getLsbD 0, up := if v.getLsbD 0 then s.fabric.up else 0 } }
    (Config.hasFab s.part = true → v.getLsbD 1 = false → exec (.fabricEnable v) s = .next on) ∧
    (Config.hasFab s.part = true → v.getLsbD 1 = true → Config.fabricGraph s.tick =
        (idents, links.map (fun l => (l.src, l.port, l.dst))) →
      ∃ t, exec (.explore ⟨idents, links⟩) on = .next t ∧ exec (.fabricEnable v) s = .next { t with tick := s.tick + 1 }) ∧
    (Config.hasFab s.part = false → exec (.fabricEnable v) s = .next s ∧ exec (.explore ⟨idents, links⟩) s = .next s) ∧
    (s.fabric.en = true → p.val < Config.ports s.part → ∃ f, exec (.portTrained p) s = .next { s with fabric := f } ∧
      f = { s.fabric with up := f.up } ∧
      ∀ n, n < 16 → f.up.getLsbD n = (decide (n = p.val) || s.fabric.up.getLsbD n)) ∧
    (s.fabric.en = false ∨ Config.ports s.part ≤ p.val → exec (.portTrained p) s = .next s) ∧
    (∃ f, exec (.portTrainingLost p) s = .next { s with fabric := f } ∧ f = { s.fabric with up := f.up } ∧
      ∀ n, n < 16 → f.up.getLsbD n = (!decide (n = p.val) && s.fabric.up.getLsbD n)) ∧
    exec (.flitCrcRetry p) s = .next s) ∧
  (∀ (s : State) (idents : List Byte) (links : List Link), s.mgmt.base = true → Config.hasFab s.part = true →
    (∀ l ∈ links, l.src ≤ idents.length ∧ l.dst ≤ idents.length) →
    let me := s.fabric.ident
    let named := fun (k : Nat) (n : Byte) => (k = 0 ∧ n = me) ∨ (0 < k ∧ idents[k - 1]? = some n)
    let seen := fun (l : Link) => l ∈ links ∧ (l.src = 0 → s.fabric.up.getLsbD l.port = true)
    let reached := fun (k : Nat) => ∃ d, linkPath seen d 0 k
    let dup := ∃ j k n, j ≠ k ∧ reached j ∧ reached k ∧ named j n ∧ named k n
    ∃ f, exec (.explore ⟨idents, links⟩) s = .next { s with fabric := f } ∧
      f = { s.fabric with dup := f.dup, done := f.done, routes := f.routes,
                          out := s.fabric.out ++ ((List.range 16).filter (fun p => s.fabric.up.getLsbD p)).map (fun p =>
                            FabricMsg.explore p me) } ∧
      (dup → f.dup = true ∧ f.done = false ∧ ∀ n, f.routes.get n = none) ∧
      (¬ dup → f.dup = false ∧ f.done = true ∧ f.routes.get me.toFin = none ∧
        ∀ n : Byte, n ≠ me →
          (f.routes.get n.toFin = none ↔ ∀ k, named k n → ¬ reached k) ∧
          ∀ p, f.routes.get n.toFin = some p → ∃ l d k, named k n ∧ seen l ∧ l.src = 0 ∧ l.port = p.toNat ∧
            linkPath seen d l.dst k ∧
            ∀ r e, seen r → r.src = 0 → linkPath seen e r.dst k → d ≤ e ∧ (e = d → l.port ≤ r.port))) ∧
  (∀ s : State, s.fabricOn = true → s.locks = [] → s.clean = true →
    let out := fun (m : FabricMsg) => { s.fabric with out := s.fabric.out ++ [m] }
    let byte := fun (w : Nat × Byte × Byte) => ({ pa := w.1, val := w.2.1, mask := w.2.2 } : ByteWrite)
    (∀ h pa reply, (s.hart h).remote = .sent pa → s.vamos.find? (fun f => f.owner == h) = none →
      let due := s.baseClock < (s.hart h).sentAt + max 1 s.fabric.fto.toNat ∧ s.routeUp (s.moduleOf pa) = true
      (due → exec (.remoteAccess (.ours h reply)) s = .next (s.setHart h { s.hart h with remote := .answered reply })) ∧
      (¬ due → exec (.remoteAccess (.ours h reply)) s = .next s)) ∧
    (∀ h pa n rest got reply, (s.hart h).remote = .reading ((pa, n) :: rest) got →
      let due := s.baseClock < (s.hart h).sentAt + max 1 s.fabric.fto.toNat ∧ s.routeUp (s.moduleOf pa) = true
      (due → exec (.remoteAccess (.ours h reply)) s = .next (s.setHart h { s.hart h with
        remote := .reading rest (got ++ ((List.range n).map (fun i => pa + i)).zip reply) })) ∧
      (¬ due → exec (.remoteAccess (.ours h reply)) s = .next s)) ∧
    (∀ h r p rest reply, (s.hart h).remote = .storing r → r.away = true → r.parts = p :: rest → (∃ w ∈ p, isRemote w.pa = true) →
      (∀ w ∈ p, isRemote w.pa = false → s.homeLost w.pa = false) →
      let due := s.baseClock < (s.hart h).sentAt + max 1 s.fabric.fto.toNat ∧
        ∀ w ∈ p, isRemote w.pa = true → s.routeUp (s.moduleOf w.pa) = true
      (due → exec (.remoteAccess (.ours h reply)) s = .next ({ s with
        mem := memPuts s.mem (p.filter (fun w => !isRemote w.pa)) }.setHart h { s.hart h with
          remote := .storing { r with parts := rest, away := false } })) ∧
      (¬ due → exec (.remoteAccess (.ours h reply)) s = .next s)) ∧
    (∀ pa n, (∀ i, i < n → s.inModule (pa + i) = true ∧ s.homeLost (pa + i) = false) →
      exec (.remoteAccess (.load pa n)) s = .next { s with
        fabric := out (.reply ((List.range n).map (fun i => memGet s.mem (pa + i)))), tick := s.tick + 1 }) ∧
    (∀ writes, (∀ w ∈ writes, s.inModule w.1 = true ∧ s.homeLost w.1 = false) →
      exec (.remoteAccess (.store writes)) s = .next { s with
        mem := memPuts s.mem (writes.map byte), fabric := out (.reply []) }) ∧
    (∀ pa op wd src cmp, let n := amoBytes wd
      (∀ i, i < n → s.inModule (pa + i) = true ∧ s.homeLost (pa + i) = false) → pa % n = 0 → s.mem.wf = true →
      let old := leNat ((List.range n).map (fun i => memGet s.mem (pa + i)))
      let new := amoResult op (8 * n) old (src.toNat % 2 ^ (8 * n)) (cmp.toNat % 2 ^ (8 * n))
      exec (.remoteAccess (.amo pa op wd src cmp)) s = .next { s with
        mem := memPuts s.mem (writesAt pa (leBytes n new)), fabric := out (.reply (leBytes n old)) }) ∧
    (∀ src op kind width elems, (∀ e ∈ elems, ∀ i, i < width / 8 → s.inModule (e.1 + i) = true ∧ s.homeLost (e.1 + i) = false) →
      let r := vamoRun op kind width s.mem (elems.map (fun e =>
        ({ idx := 0, pa := e.1, data := e.2.toNat % 2 ^ width } : AmoElem)))
      exec (.remoteAccess (.vamo src op kind width elems)) s = .next { s with
        mem := memPuts s.mem r.1, fabric := out (.reply (r.2.1.flatMap (fun o : Nat × Nat => leBytes (width / 8) o.2))) }) ∧
    (∀ pa home holder, s.inModule pa = true → s.homeLost pa = false →
      let slice := lineSlice s.part home (pa / 128)
      (s.grantedIn slice < 65536 → exec (.remoteAccess (.lockLine pa home holder)) s = .next { s with
        locks := [{ line := pa / 128, slice := slice, holder := some (.module holder), waiting := [] }] }) ∧
      (slice ≠ noSlice → 65536 ≤ s.grantedIn slice → exec (.remoteAccess (.lockLine pa home holder)) s = .next s)) ∧
    (∀ src cast writes count,
      let ws := writes.flatMap (fun w : TrainWrite => writesAt w.off w.bytes)
      let takes := ∀ w ∈ ws, if cast = true then s.region w.pa = .global else s.inModule w.pa = true ∧ s.homeLost w.pa = false
      (writes.length = count → takes →
        exec (.fabricTrain src ⟨cast, writes⟩ count) s = .next { s with mem := memPuts s.mem ws, fabric := out (.ack src) }) ∧
      (writes.length ≠ count ∨ ¬ takes → exec (.fabricTrain src ⟨cast, writes⟩ count) s = .next s)))

/-! ### The host (chapter 16) -/

/-- A write of an enqueue window that is no record, or whose DONE cannot be written, counts one drop and nothing else, and
one past its 64 bytes nothing at all; a record that fails a check, or finds its queue full, has its completion word written
and its queue's vector signalled; a farm of no strips completes at once, and another record is queued at the end (R313,
R379). A vector's message goes out, or waits in its pending bit while its entry is masked (R382). PREEMPT and HSIG set the
request or the pending bit of the position they name (Table 16.2). Host writes and reads of the device memory window
perform, or are dropped or Unsupported Requests when they reach past its end; uncorrectable data is a Completer Abort with
an entry in the error log (R380). Registers of the control BAR take the fields a write may change, the 32 bytes of
NONCE among them, but for the mailbox's arguments and NONCE while it is busy (R402; Tables 16.1, 16.2, 17.3 and 17.6).
The model's choices it rests on: logs 56, 59, 63, 64 and 74. -/
def Obligations.HostRequests : Prop :=
  (∀ (s : State) (q : Fin 16) (off : Nat) (bytes : List Byte), s.mgmt.base = true →
    let dropped := { s with camp := { s.camp with
      drops := if s.camp.drops = 0xFFFFFFFF then s.camp.drops else s.camp.drops + 1 } }
    let w := descOf bytes
    let r := recordOf w
    let done := r.done.toNat
    let ended := fun (words : List Word) => ({ s with
      mem := memPuts s.mem (words.tail.zipIdx.flatMap (fun p => writesAt (done + 8 + 8 * p.2) (leBytes 8 p.1.toNat)) ++
        writesAt done (leBytes 8 (words.headD 0).toNat)) } : State).signal (1 + q.val)
    (64 ≤ off → exec (.hostEnqueue q off bytes) s = .next s) ∧
    (off < 64 → (off ≠ 0 ∨ bytes.length ≠ 64) → exec (.hostEnqueue q off bytes) s = .next dropped) ∧
    (off = 0 → bytes.length = 64 → (r.done = 0 ∨ done % 8 ≠ 0) → exec (.hostEnqueue q off bytes) s = .next dropped) ∧
    (off = 0 → bytes.length = 64 → r.done ≠ 0 → done % 8 = 0 → s.locks = [] → s.clean = true →
      (∀ i, i ≤ r.rn.toNat → s.region (done + 8 * i) = .global) →
      let answer := fun (st : Word) => exec (.hostEnqueue q off bytes) s = .next (ended [st])
      (recordBad w = true → answer 3) ∧
      ∀ e, recordBad w = false → s.asEntry r.asid = .ok e →
        let valid := e[0].getLsbD 0 = true
        let fits := r.strips.toNat ≤ 2 ^ 24 ∧ r.team.toNat ≤ 4 * (s.permitted r.cores).length
        (¬ valid → answer 3) ∧ (valid → ¬ fits → answer 2) ∧
        (valid → fits → 256 ≤ (s.queue q).records.length → answer 4) ∧
        (valid → fits → (s.queue q).records.length < 256 → r.kind ≠ 0 → r.strips = 0 →
          exec (.hostEnqueue q off bytes) s = .next (ended (1 :: List.replicate r.rn.toNat (ropIdentity r.rop)))) ∧
        (valid → fits → (s.queue q).records.length < 256 → (r.kind = 0 ∨ r.strips ≠ 0) →
          ∃ t, exec (.hostEnqueue q off bytes) s = .next t ∧ t = { s with camp := t.camp } ∧
            t.camp = { s.camp with queues := t.camp.queues } ∧
            (t.queue q) = { s.queue q with
              records := (s.queue q).records ++ [{ record := r, headAt := s.baseClock }] } ∧
            ∀ k, k ≠ q → t.queue k = s.queue k))) ∧
  (∀ (s : State) (n : Fin 32),
    ((s.msixTable.get n).masked = false → s.signal n.val = { s with msix := s.msix ++ [n.val] }) ∧
    ((s.msixTable.get n).masked = true → ∃ p, s.signal n.val = { s with msixPending := p } ∧
      ∀ i, i < 32 → p.getLsbD i = (decide (i = n.val) || s.msixPending.getLsbD i))) ∧
  (∀ (s : State) (v : Word) (h : HartId), h.val = v.toNat % 128 → s.mgmt.base = true →
    ((s.hart h).live = true → (s.saveArea h).isSome = true →
      exec (.hostPreempt v) s = .next (s.setHart h { s.hart h with preemptReq := true })) ∧
    ((s.hart h).live = false ∨ s.saveArea h = none → exec (.hostPreempt v) s = .next s) ∧
    exec (.hsig v) s = .next (s.setHart h { s.hart h with hostSig := true })) ∧
  (∀ (s : State) (off : Nat), s.memoryUp = true → s.locks = [] →
    let size := Config.memBytes s.part
    (∀ bytes, (off + bytes.length ≤ size → s.clean = true →
        exec (.hostMemoryWrite off bytes) s = .next { s with mem := memPuts s.mem (writesAt off bytes) }) ∧
      (size < off + bytes.length → exec (.hostMemoryWrite off bytes) s = .next s)) ∧
    (∀ n, let reply := fun r => { s with hostReplies := s.hostReplies ++ [r] }
      (size < off + n → exec (.hostMemoryRead off n) s = .next (reply .unsupported)) ∧
      (off + n ≤ size → (∀ b ∈ s.badLines, b.line * 128 + 128 ≤ off ∨ off + n ≤ b.line * 128) →
        exec (.hostMemoryRead off n) s =
          .next (reply (.data ((List.range n).map (fun i => memGet s.mem (off + i)))))) ∧
      (∀ b, off + n ≤ size → b ∈ s.badLines → s.badLines.length = 1 → off < b.line * 128 + 128 → b.line * 128 < off + n →
        (s.mgmt.elogAt ≠ s.baseClock ∨ ∀ c ∈ s.mgmt.elogChips, c ≤ 8) →
        ∃ t, exec (.hostMemoryRead off n) s = .next t ∧
          t = ({ s with mgmt := t.mgmt, hostReplies := s.hostReplies ++ [.abort] } : State).signal 17 ∧
          t.mgmt = { s.mgmt with elog := t.mgmt.elog, elogAt := s.baseClock, elogChips := t.mgmt.elogChips } ∧
          t.mgmt.elog.next = s.mgmt.elog.next + 1 ∧
          t.mgmt.elog.ovf = (s.mgmt.elog.ovf || (s.mgmt.elog.entries.get s.mgmt.elog.next.toFin).getLsbD 0) ∧
          (t.mgmt.elog.entries.get s.mgmt.elog.next.toFin).toNat = b.line % 2 ^ 45 * 128 + 1))) ∧
  (∀ (s : State) (v : Word), s.mgmt.base = true → s.hostUp = true →
    let w := fun (off : Nat) => exec (.controlRegisterWrite off v) s
    let ports := Config.hasFab s.part = true
    w 0x10000 = .next { s with camp := { s.camp with astab := v &&& 0x000FFFFFFFFFFFE0 } } ∧
    w 0x10008 = .next { s with camp := { s.camp with drops := s.camp.drops &&& ~~~(v.setWidth 32) } } ∧
    w 0x10010 = exec (.hostPreempt v) s ∧ w 0x10018 = exec (.hsig v) s ∧ w 0x20000 = exec (.hostFence v) s ∧
    (∀ n : Fin 16, let a := s.apertures.get n
      w (0x30000 + 32 * n.val) = .next { s with apertures := s.apertures.set n.val { a with hbase := v } n.isLt } ∧
      w (0x30008 + 32 * n.val) =
        .next { s with apertures := s.apertures.set n.val { a with size := v.setWidth 8 } n.isLt }) ∧
    (ports → w 0x40000 = .next { s with fabric := { s.fabric with
      ident := if s.fabric.en then s.fabric.ident else v.setWidth 8 } }) ∧
    w 0x40008 = exec (.fabricEnable v) s ∧
    (ports → w 0x40010 = .next { s with fabric := { s.fabric with fto := v.setWidth 32 } }) ∧
    (¬ ports → w 0x40000 = .next s ∧ w 0x40010 = .next s) ∧
    (∀ n : Fin 32, let x := s.msixTable.get n
      let put := fun (y : MsixEntry) => ({ s with msixTable := s.msixTable.set n.val y n.isLt } : State)
      let y : MsixEntry := { x with data := v.setWidth 32, masked := v.getLsbD 32 }
      (s.msixPending.getLsbD n.val = false ∨ x.masked = true →
        w (0x300000 + 16 * n.val) = .next (put { x with addr := v &&& 0xFFFFFFFFFFFFFFFC })) ∧
      (s.msixPending.getLsbD n.val = false ∨ y.masked = true → w (0x300008 + 16 * n.val) = .next (put y)) ∧
      (s.msixPending.getLsbD n.val = true → y.masked = false → ∃ p, w (0x300008 + 16 * n.val) =
          .next { put y with msixPending := p, msix := s.msix ++ [n.val] } ∧
        ∀ i, i < 32 → p.getLsbD i = (!decide (i = n.val) && s.msixPending.getLsbD i))) ∧
    w 0x100480 = .next { s with mgmt := { s.mgmt with
      flog := { s.mgmt.flog with ovf := s.mgmt.flog.ovf && !v.getLsbD 4 } } } ∧
    w 0x100580 = .next { s with mgmt := { s.mgmt with
      elog := { s.mgmt.elog with ovf := s.mgmt.elog.ovf && !v.getLsbD 4 } } } ∧
    (v.toNat % 256 = 1 → w 0x200000 = exec .getcert s) ∧ (v.toNat % 256 = 2 → w 0x200000 = exec .attest s) ∧
    (v.toNat % 256 = 3 → w 0x200000 = exec .loadfw s) ∧
    (v.toNat % 256 = 0 ∨ 3 < v.toNat % 256 → w 0x200000 = exec (.mailboxBadCommand (v.setWidth 8)) s) ∧
    w 0x200008 = .next { s with mailbox := { s.mailbox with ovr := s.mailbox.ovr && !v.getLsbD 9 } } ∧
    w 0x200010 = .next { s with mailbox := if s.mailbox.busy then s.mailbox else { s.mailbox with arg0 := v } } ∧
    w 0x200018 =
      .next { s with mailbox := if s.mailbox.busy then s.mailbox else { s.mailbox with arg1 := v.setWidth 32 } } ∧
    ∀ k, k < 4 → (s.mailbox.busy = true → w (0x200040 + 8 * k) = .next s) ∧
      (s.mailbox.busy = false → ∃ n : Vector Byte 32, w (0x200040 + 8 * k) =
          .next { s with mailbox := { s.mailbox with nonce := n } } ∧
        ∀ i : Fin 32, n.get i = if 8 * k ≤ i.val ∧ i.val < 8 * k + 8 then BitVec.ofNat 8 (v.toNat / 256 ^ (i.val - 8 * k))
          else s.mailbox.nonce.get i))

/-! ### Placement and the end of launches (chapter 12) -/

/-- At the next base clock that is a multiple of 8 base camp serves its next rotation slot; a lone head that can be placed
leaves its queue as a new launch, and its team starts at the positions base camp chose, rank r with the registers of R320
and every other register at its reset value. A head that has not waited 2^20 base clocks changes nothing; one that has,
and cannot be placed, has BLOCKED or PARKED harts pre-empted for it (R321). When every hart of a launch has ended its
results and its completion word are written, its queue's vector is signalled and its barriers are free (R316). A hart of a
failed launch leaves its position at a boundary once its core's writes are home (R404).
The model's choices it rests on: logs 45, 47, 48, 49, 50, 51 and 67. -/
def Obligations.PlacementAndCompletion : Prop :=
  (∀ s : State, s.mgmt.powered = true →
    let clock := (s.baseClock / 8 + 1) * 8
    (s.mgmt.base = false → exec .rotationDecision s = .next { s with baseClock := clock }) ∧
    (∀ (q : Fin 16) (r : Queued) (rest : List Queued) (ps : List HartId) (e : Vector Word 4), s.mgmt.base = true →
      s.camp.promises = [] → s.locks = [] → s.camp.owed = [] → (∀ k, (s.queue k).resume = []) → (∀ x ∈ s.camp.launches, x.lostRanks = []) →
      (∀ h, (s.hart h).status ≠ .halted) → (s.queue q).records = r :: rest → (∀ k, k ≠ q → (s.queue k).records = []) →
      s.positionsFor q r.record [] = some ps → s.asEntry r.record.asid = .ok e → e[0].getLsbD 0 = true →
      (∀ x ∈ s.camp.launches, x.ident ≠ s.camp.nextIdent) → s.mem.wf = true →
      ∃ t, exec .rotationDecision s = .next t ∧ t.baseClock = clock ∧ t.camp.slot = (s.camp.slot + 1) % 15 ∧
        (t.queue q).records.map (fun x => x.record) = rest.map (fun x => x.record) ∧ (∀ k, k ≠ q → t.queue k = s.queue k) ∧
        (∃ x, t.launch s.camp.nextIdent = some x ∧ x.record = r.record ∧ x.queue = q ∧ x.failed = none ∧ x.retired = 0 ∧
          x.opens = [] ∧ x.count = 0) ∧
        ps.length = r.record.team.toNat ∧ s.sameQueues t ∧
        (∀ a, a < 0xC0000000000 → memGet t.mem a = memGet s.mem a) ∧
        (∀ h, h ∉ ps → t.hart h = s.hart h) ∧
        ∀ n (hn : n < ps.length), let y := t.hart ps[n]
          y = { Hart.initial with status := .running, launch := s.camp.nextIdent, rank := n, x := y.x,
                                  pc := r.record.entry, asid := r.record.asid, ptbase := e[0] &&& 0x000FFFFFFFFF8000,
                                  tvec := e[1] &&& 0x0000FFFFFFFFFFFC,
                                  sr := if 2 ≤ r.record.prio.toNat then 0x8004 else 0x0004,
                                  headAt := (s.core (coreOf ps[n])).cycle.toNat,
                                  hostSig := (s.hart ps[n]).hostSig } ∧
          y.xr 2 = e[2] + BitVec.ofNat 64 (n + 1) * e[3] ∧ y.xr 3 = r.record.args ∧ y.xr 10 = BitVec.ofNat 64 n ∧
          y.xr 11 = r.record.team.setWidth 64 ∧
          ∀ k : Reg, k ≠ 2 → k ≠ 3 → k ≠ 10 → k ≠ 11 → y.xr k = 0)) ∧
  (∀ (s : State) (q : Fin 16) (r : Queued) (rest : List Queued), (s.queue q).records = r :: rest →
    (s.baseClock < r.headAt + 2 ^ 20 ∨ (s.positionsFor q r.record []).isSome = true →
      exec (.queueHeadWaitLimit q) s = .next s) ∧
    (∀ hs, r.headAt + 2 ^ 20 ≤ s.baseClock → s.positionsFor q r.record [] = none → s.camp.owed = [] →
      s.victims q r.record [] (allHarts.reverse.filter (s.displaceable q r.record)) = some hs →
      ∃ t, exec (.queueHeadWaitLimit q) s = .next t ∧ t.camp = { s.camp with owed := [(q, hs)] } ∧ s.sameMemory t ∧
        s.sameQueues t ∧ (s.positionsFor q r.record hs).isSome = true ∧
        (∀ h ∈ hs, ((s.hart h).status = .parked ∨ ∃ w, (s.hart h).status = .blocked w) ∧ (s.hart h).inh = false ∧
          (s.saveArea h).isSome = true ∧
          t.hart h = { s.hart h with preemptReq := true }) ∧
        ∀ h, h ∉ hs → t.hart h = s.hart h)) ∧
  (∀ (s : State) (l : Nat) (x : Launch), s.launch l = some x → s.launchEnded x = true → s.locks = [] → s.clean = true →
    (∀ i, i ≤ x.trailer.length → s.region (x.record.done.toNat + 8 * i) = .global) →
    let done := x.record.done.toNat
    let st := x.failed.getD (if x.record.kind = 0 ∨ x.count = x.record.strips.toNat then 0x01 else 0x09)
    let count := if x.record.kind = 0 then x.retired else x.count
    let words := (x.trailer.zipIdx).flatMap (fun p => writesAt (done + 8 + 8 * p.2) (leBytes 8 p.1.toNat))
    ∃ t, exec (.completionWordWrite l) s = .next t ∧
      t.mem = memPuts s.mem (words ++ writesAt done (leBytes 8 (count % 2 ^ 32 * 2 ^ 32 + st.toNat))) ∧
      t.msix = (s.signal (1 + x.queue.val)).msix ∧ t.msixPending = (s.signal (1 + x.queue.val)).msixPending ∧ t.launch l = none ∧ (∀ h, t.hart h = s.hart h) ∧ s.sameQueues t ∧
      ∀ n, (s.camp.barriers.get n).owner = some l → (t.camp.barriers.get n).owner = none ∧
        (t.camp.barriers.get n).gen = (s.camp.barriers.get n).gen + 1) ∧
  (∀ (s : State) (h : HartId),
    ((s.hart h).stopReq = false → exec (.teamHartStop h) s = .next s) ∧
    ((s.hart h).stopReq = true → (s.hart h).preemptible = true → (s.core (coreOf h)).queue = [] →
      ∃ t, exec (.teamHartStop h) s = .next t ∧ t.hart h = { Hart.initial with hostSig := (s.hart h).hostSig } ∧
        (∀ g, g ≠ h → t.hart g = s.hart g) ∧ s.sameMemory t ∧ s.sameQueues t ∧
        (t.core (coreOf h)).tileOwner ≠ some h ∧
        ∀ n y, (t.core (coreOf h)).slots.get n = some y → y.owner ≠ h))

/-! ### Fencing (chapter 13) -/

/-- Each trigger of a fence, on a chiplet in service, fences it with its reason: the chiplet is FENCED with the next
generation, its harts and cores lose everything but what management reads, and its local memories are zero; no other hart
changes but for a stop request, no other byte of memory changes, vector 0 is signalled and the fence log takes an entry; a
launch with a hart there loses that rank when belayed, fails with a cairn record when roped, and fails with FENCED
otherwise. A FENCE write with another key, and a sensor at or below TCRIT, fence nothing. A LANE_SRAM_UNCORRECTABLE trap is
counted for its chiplet, and the limit is reached once 64 stand within 2^30 core clocks, each taken as 10/7 base clocks, the
ratio of R2's nominal rates (R2, R16, R345, R348, R361 to R366, R397, R399). The statement is for a chiplet none of whose VAMOs
and stores waits for another module.
The model's choices it rests on: logs 51 and 53, and 47, by which that ratio stands whatever the clocks of R397 do. -/
def Obligations.FenceEvents : Prop :=
  ∀ (s : State) (c : ChipletId), s.inService c = true → s.mem.wf = true →
    (∀ f ∈ s.vamos, chipletOf (coreOf f.owner) ≠ c) →
    (∀ h r, chipletOf (coreOf h) = c → (s.hart h).remote = .storing r → r.away = false) →
    let fenced := fun (s : State) (reason : Byte) (o : Out) => ∃ t, o = .next t ∧
      t.chiplet c = { st := .fenced, gen := (s.chiplet c).gen + 1, reason := reason, reports := [], limit := false,
                      fencedAt := s.baseClock } ∧
      (∀ k, k ≠ c → t.chiplet k = s.chiplet k) ∧
      (∀ h, chipletOf (coreOf h) = c → t.hart h = { Hart.initial with hostSig := (s.hart h).hostSig }) ∧
      (∀ h, chipletOf (coreOf h) ≠ c → t.hart h = { s.hart h with stopReq := (t.hart h).stopReq }) ∧
      (∀ k, chipletOf k = c → t.core k = { Core.initial with
        clockStep := (s.core k).clockStep, stepAt := (s.core k).stepAt, temp := (s.core k).temp }) ∧
      (∀ k, chipletOf k ≠ c → t.core k = s.core k) ∧
      (∀ a, memGet t.mem a = if ∃ k : CoreId, chipletOf k = c ∧ slotBase k.val ≤ a ∧ a < slotBase k.val + 0x440000 then 0
        else memGet s.mem a) ∧
      t.msix = (s.signal 0).msix ∧ t.msixPending = (s.signal 0).msixPending ∧
      (s.mgmt.flogAt ≠ s.baseClock → (t.mgmt.flog.entries.get s.mgmt.flog.next.toFin).toNat =
        s.baseClock / 1024 % 2 ^ 32 * 2 ^ 32 + ((s.chiplet c).gen + 1).toNat * 2 ^ 24 + reason.toNat * 2 ^ 16 +
          c.val * 256 + 1) ∧
      ∀ (h : HartId) (x : Launch), chipletOf (coreOf h) = c → (s.hart h).live = true →
        s.launch (s.hart h).launch = some x → x.failed = none →
        ∃ z, t.launch x.ident = some z ∧ (x.record.kind = 0 → z.failed = some 0x07) ∧
          (x.record.kind = 1 → z.failed = none ∧ (s.hart h).rank ∈ z.lostRanks ∧ z.openOf (s.hart h).rank = none) ∧
          (x.record.kind = 2 → z.failed = some 0x06 ∧ z.cairn.isSome = true)
    (∀ v : Word, s.mgmt.base = true → v.toNat % 256 = c.val → c.val < Config.chiplets s.part →
      (v.toNat / 256 % 256 = 0xA5 → fenced s 0x64 (exec (.hostFence v) s)) ∧
      (v.toNat / 256 % 256 ≠ 0xA5 → exec (.hostFence v) s = .next s)) ∧
    ((s.chiplet c).limit = true → fenced s 0x62 (exec (.laneSramReportLimit c) s)) ∧
    ((s.chiplet c).limit = false → exec (.laneSramReportLimit c) s = .next s) ∧
    (∀ (h : HartId) (v e : Word), chipletOf (coreOf h) = c →
      let k := s.chiplet c
      ∃ x, (s.trapHart h 0x62 v e).chiplet c = x ∧ x = { k with reports := x.reports, limit := x.limit } ∧
        x.reports = (s.baseClock :: k.reports).take 64 ∧
        (x.limit = true ↔ k.limit = true ∨
          ∃ old, k.reports[62]? = some old ∧ 7 * (s.baseClock - old) < 10 * 2 ^ 30)) ∧
    fenced s 0x62 (exec (.chipletStateUncorrectable c) s) ∧ fenced s 0x64 (exec (.ucieLinkFailure c) s) ∧
    fenced s 0x64 (exec (.managementFenceRequest c) s) ∧ fenced s 0x64 (exec (.supplyLimit c) s) ∧
    ∀ (k : CoreId) (temp : Byte), chipletOf k = c → c.val < Config.chiplets s.part → let u := s.setCore k { s.core k with temp := temp }
      (110 < temp.toNat → fenced u 0x64 (exec (.thermalTcrit k temp) s)) ∧
      (temp.toNat ≤ 110 → exec (.thermalTcrit k temp) s = .next u)

/-! ### Saving and restoring contexts (chapter 13) -/

/-- A due PREEMPT whose hart's writes are home writes the image of Tables 13.6 to 13.8 but for its doubleword 0, and no other
byte; lane state that cannot be read fences the chiplet. The end of the save writes doubleword 0, releases the units, frees
the position, and puts the context at the end of its queue's resume list unless its launch has failed. A restore loads a good
image and enters the supervisor with PREEMPT at the image's pc; a bad one halts the hart and fails its launch. CTXS writes
the image with epc as its pc, doubleword 0 last, and releases the hart's units; CTXL loads a good image with its tile unit
and slots, keeping MODE, INH, the cause and tval, and is CONTEXT_BAD for another and TILE_BUSY_OWNED for a tile unit that
another hart owns (R349 to R360). The loads are those of images without copies in flight.
The model's choices it rests on: logs 28, 29, 31, 32, 51, 80, 81 and 83. -/
def Obligations.ContextResults : Prop :=
  (∀ w : Word, imageHead w = none ↔ w.extractLsb' 48 16 ≠ 0x4301 ∨ (w.getLsbD 36 = true ∧ w.getLsbD 37 = true) ∨
    ∃ i, (i = 38 ∨ i = 39 ∨ (7 ≤ i ∧ i < 34)) ∧ w.getLsbD i = true) ∧
  ∀ s : State, s.locks = [] → s.clean = true → s.mem.wf = true →
    let units := fun (t : State) (h : HartId) (rd : Nat → Byte) (x : ImageHead) (u : ImageUnits) =>
      let old := s.core (coreOf h)
      let new := t.core (coreOf h)
      (x.tile = true → new.tileOwner = some h ∧ new.z = #v[imageTile rd 0, imageTile rd 1]) ∧
      (x.tile = false → new.tileOwner = if old.tileOwner = some h then none else old.tileOwner) ∧
      (∀ n : Fin 8, new.slots.get n = match u.cursors.find? (fun p => p.1 == n.val) with
        | some p => some { owner := h, cur := p.2 }
        | none => (old.slots.get n).bind (fun y => if y.owner = h then none else some y)) ∧
      new.copies = old.copies.filter (fun k => k.owner != h || k.retired)
    let freed := fun (t : State) (h : HartId) => (t.core (coreOf h)).tileOwner ≠ some h ∧
      (∀ n y, (t.core (coreOf h)).slots.get n = some y → y.owner ≠ h) ∧
      ∀ k ∈ (t.core (coreOf h)).copies, k.owner = h → k.retired = true
    (∀ (h : HartId) (base : Nat), s.saveArea h = some base →
      let y := s.hart h
      let rd := fun (o : Nat) => memGet s.mem (base + o)
      (s.preemptDue h = false → exec (.preempt h) s = .next s) ∧
      (s.preemptDue h = true → s.quiet h = true → s.saveError h = none →
        ∃ t, exec (.preempt h) s = .next t ∧
          t.hart h = { y with status := .saving, preemptReq := false, hostSig := false } ∧
          (∀ g, g ≠ h → t.hart g = s.hart g) ∧ s.sameQueues t ∧
          ∀ a, memGet t.mem a =
            ((if base ≤ a then s.savedByte h y.pc y.sr (a - base) else none).getD (memGet s.mem a))) ∧
      (s.preemptDue h = true → s.quiet h = true → s.saveError h ≠ none → s.inService (chipletOf (coreOf h)) = true →
        ∃ t, exec (.preempt h) s = .next t ∧ (t.chiplet (chipletOf (coreOf h))).st = .fenced ∧
          (t.chiplet (chipletOf (coreOf h))).reason = 0x62) ∧
      (∀ x, y.status = .saving → s.launch y.launch = some x →
        ∃ t, exec (.contextSaveComplete h) s = .next t ∧ t.hart h = Hart.initial ∧ (∀ g, g ≠ h → t.hart g = s.hart g) ∧
          s.sameQueues t ∧ t.mem = memPuts s.mem (writesAt base (leBytes 8 (s.headWord h).toNat)) ∧ freed t h ∧
          (t.queue x.queue).resume = (s.queue x.queue).resume ++ (if x.failed.isSome then [] else [s.savedOf h]) ∧
          ∀ k, k ≠ x.queue → t.queue k = s.queue k) ∧
      (y.status = .restoring → (imageHead (imageWord rd 0) = none ∨
          ∃ x, imageHead (imageWord rd 0) = some x ∧ imageUnits s.part rd x = none) →
        ∃ t, exec (.contextRestore h) s = .next t ∧ (t.hart h).status = .halted ∧ s.sameMemory t ∧
          ∀ x, s.launch y.launch = some x → x.failed = none → ∃ z, t.launch y.launch = some z ∧ z.failed = some 0x05) ∧
      (∀ x u, y.status = .restoring → imageHead (imageWord rd 0) = some x → imageUnits s.part rd x = some u → u.copies = [] →
        (x.tile = true → ∀ g, (s.core (coreOf h)).tileOwner = some g → g = h) →
        (∀ n z, x.curs.testBit n.val = true → (s.core (coreOf h)).slots.get n = some z → z.owner = h) →
        (imageWord rd 16).getLsbD 4 = false →
        let cycle := (s.core (coreOf h)).cycle
        ∃ t, exec (.contextRestore h) s = .next t ∧ (∀ g, g ≠ h → t.hart g = s.hart g) ∧ s.sameMemory t ∧ s.sameQueues t ∧
          t.hart h = { ({ y.loadImage rd x cycle with
            status := .running, pc := imageWord rd 8
            sr := (imageWord rd 16).setWidth 16 &&& srMask }).enterTrap 0x70 0 (imageWord rd 8) with headAt := cycle.toNat } ∧
          units t h rd x u)) ∧
    (∀ (a : Reg) (ps : List Place), (s.me.xr a).toNat % 0x10000 = 0 → s.quiet s.cur = true → (∀ p ∈ ps, p.mark = none) →
      let h := s.me
      let rd := fun (o : Nat) => memGet s.mem (areaAddr ps o)
      (s.probeArea .write (h.xr a) 132 = .ok ps → s.inBelay s.cur = false → s.saveError s.cur = none →
        (∀ o r, o < 0x420000 → r < 0x420000 → areaAddr ps o = areaAddr ps r → o = r) →
        ∃ t, exec (.ctxs a) s = .next t ∧ t.me = { h with hostSig := false }.advance ∧ t.cur = s.cur ∧ s.sameOthers t ∧
          s.sameQueues t ∧ freed t s.cur ∧
          (∀ k, (∀ o, o < 0x420000 → areaAddr ps o ≠ k) → memGet t.mem k = memGet s.mem k) ∧
          ∀ o, o < 0x420000 → memGet t.mem (areaAddr ps o) =
            if o < 8 then BitVec.ofNat 8 ((s.headWord s.cur).toNat / 256 ^ o)
            else (s.savedByte s.cur h.epc (srLeave h.sr) o).getD (rd o)) ∧
      (s.probeArea .read (h.xr a) 132 = .ok ps →
        ((imageHead (imageWord rd 0) = none ∨ ∃ x, imageHead (imageWord rd 0) = some x ∧ imageUnits s.part rd x = none) →
          exec (.ctxl a) s = s.trapped 0x74 (h.xr a)) ∧
        ∀ x u, imageHead (imageWord rd 0) = some x → imageUnits s.part rd x = some u → u.copies = [] →
          (∀ g, x.tile = true → (s.core (coreOf s.cur)).tileOwner = some g → g ≠ s.cur →
            exec (.ctxl a) s = s.trapped 0x34 (BitVec.ofNat 64 g.val)) ∧
          ((x.tile = true → ∀ g, (s.core (coreOf s.cur)).tileOwner = some g → g = s.cur) →
            (∀ n y, x.curs.testBit n.val = true → (s.core (coreOf s.cur)).slots.get n = some y → y.owner = s.cur) →
            ∃ t, exec (.ctxl a) s = .next t ∧ t.cur = s.cur ∧ s.sameOthers t ∧ s.sameMemory t ∧ s.sameQueues t ∧
              units t s.cur rd x u ∧
              let img := imageWord rd 16
              let y := { h.loadImage rd x (s.core (coreOf s.cur)).cycle with
                status := .running, pc := h.pc, epc := imageWord rd 8, sr := t.me.sr }
              t.me = y.advance ∧ t.me.cause = h.cause ∧ t.me.tval = h.tval ∧
              t.me.sr.getLsbD 0 = h.sr.getLsbD 0 ∧ t.me.sr.getLsbD 4 = h.sr.getLsbD 4 ∧
              t.me.sr.getLsbD 1 = img.getLsbD 0 ∧ t.me.sr.getLsbD 3 = img.getLsbD 2 ∧
              ∀ i, (i = 2 ∨ (8 ≤ i ∧ i ≤ 10) ∨ i = 14 ∨ i = 15) → t.me.sr.getLsbD i = img.getLsbD i)))

/-- What a save writes a restore reads back (R355, R357): from any bytes that hold the image of a context, a load gives every
register of the context with its value, at the cycle of its new core for alarm, with a shadow that is not valid as zero; the
image's head names its units, and they are the context's cursors, copies and tile cells, whose reserved bits are 0 (R263). A context has the regular fields of
`Hart.Regular`.
The model's choice it rests on: log 28. -/
def Obligations.SavedContextIsRestored : Prop :=
  ∀ (s : State) (h : HartId) (rd : Nat → Byte) (pc : Word) (sr : BitVec 16) (z : Hart) (cycle : Word),
    let y := s.hart h
    let core := s.core (coreOf h)
    let copies := core.copies.filter (fun c => c.owner == h && !c.retired)
    y.Regular → copies.length ≤ 2 →
    (∀ o b, s.savedByte h pc sr o = some b → rd o = b) → imageWord rd 0 = s.headWord h →
    imageWord rd 8 = pc ∧ imageWord rd 16 = sr.setWidth 64 ∧
    ∃ x, imageHead (imageWord rd 0) = some x ∧ x.shad = y.shadow.valid ∧ (x.tile = true ↔ core.tileOwner = some h) ∧
      x.ncopy = copies.length ∧
      (∀ n : Fin 8, x.curs.testBit n.val = true ↔ ∃ c, core.slots.get n = some { owner := h, cur := c }) ∧
      z.loadImage rd x cycle = { z with
        x := y.x, f := y.f, v := y.v, k := y.k, q := y.q, shadow := if y.shadow.valid then y.shadow else Shadow.zero
        vl := y.vl, vstart := y.vstart, vtype := y.vtype, mfmt := y.mfmt, avl := y.avl, sidx := y.sidx
        tshape := y.tshape, zcfg := y.zcfg, satCount := y.satCount, satEvp := y.satEvp, satthr := y.satthr
        fflags := y.fflags, lbeg := y.lbeg, lrem := y.lrem, llen := y.llen, ld := y.ld
        alarm := if y.alarm = 0 then 0 else cycle + BitVec.ofNat 64 (max (y.alarm.toNat - core.cycle.toNat) 1)
        tvec := y.tvec, asid := y.asid, ptbase := y.ptbase, hscratch := y.hscratch, pfxst := y.pfxst
        pfxLive := false, marks := [], remote := .idle, pins := [], kept := none, held := false, fenceAt := 0 } ∧
      (x.tile = true → ∀ (n : Fin 2) (k : Nat), k < 131072 →
        tileGet (imageTile rd n.val) k = tileGet (core.z.get n) k &&&
          if y.zcfg.getLsbD (16 * n.val + 15) then 0xFFFFFFFF else 0x03FFFFFFFFFFFFFF) ∧
      ((∀ c ∈ copies, copyFault c.form.toNat c.d = none ∧ c.next < 65536) → (Config.hasWeave s.part = true ∨ x.curs = 0) →
        (∀ (n : Fin 8) (c : Cursor), core.slots.get n = some { owner := h, cur := c } → Cursor.ofImage c.image = some c) →
        ∃ u, imageUnits s.part rd x = some u ∧
          u.copies = copies.map (fun c =>
            { form := c.form.toNat, d := c.d, k := c.k, next := c.next, loc := c.loc, desc := c.desc }) ∧
          ∀ n : Fin 8, (u.cursors.find? (fun p => p.1 == n.val)).map (fun p => p.2) =
            (core.slots.get n).bind (fun y => if y.owner = h then some y.cur else none))

/-! ### Power, chiplets, clocks and the mailbox (chapter 17) -/

/-- POWER_ON brings a module that is off to base die ready with everything but its flash at reset, stops at a step that
fails, and enters recovery when neither bank is valid: a bank is valid when its signature verifies against the vendor key and
its SVN is at least the fused one; POWER_LOSS leaves the flash (R393, R400, R402). Chiplets join in the order 0, 1, …; one
that joins is PROVISIONAL with empty harts, cores and local memories, and one whose test fails is FENCED with reason 0x64; the
tile self-test brings FULL service at a decision boundary, with nothing else changed, or a fence (R394, R395). A clock step
falls by 1 to no less than 4 when the core is hot or supply droops, and rises by 1 to its limit when it is cool and supplied,
at least 2^16 clocks after it last changed; a reading above TCRIT acts as such (R397). A mailbox command starts when none runs
and otherwise only sets OVR; its end clears BUSY, sets RES and signals vector 18; ATTEST makes the report of Table 17.7; the
end of LOADFW writes a good image to the spare bank and moves the marker; another op ends at once with RES 2 (R400 to R402,
Table 17.6).
The model's choices it rests on: logs 4, 54 to 58 and 70. -/
def Obligations.PowerAndMailboxEvents : Prop :=
  let valid := fun (img : List Byte) => verifies Config.vendorKey (Config.signedPart img) (Config.signaturePart img) = true ∧
    Config.fusedSvn.toNat ≤ (Config.imageSvn img).toNat
  (∀ s : State, exec .powerLoss s = .next { State.reset with
      part := s.part, flash := s.flash, agenda := s.agenda, tick := s.tick, group := s.group } ∧
    (s.mgmt.powered = true → ∀ stop : Nat, exec (.powerOn stop) s = .next s) ∧
    (s.mgmt.powered = false → ∀ stop : Nat, ∃ t, exec (.powerOn stop) s = .next t ∧
      t = { State.reset with part := s.part, flash := t.flash, agenda := s.agenda, tick := s.tick, group := s.group,
                             mgmt := t.mgmt } ∧
      t.flash.banks = s.flash.banks ∧ t.mgmt.powered = true ∧
      let m := s.flash.marker
      let up := fun (b : Fin 2) => t.mgmt.recov = false ∧ t.flash.marker = b ∧ t.mgmt.bank = b ∧
        (stop = 2 → t.mgmt.stage = 2 ∧ t.mgmt.base = false) ∧
        (stop = 3 ∨ stop = 4 → t.mgmt.stage = BitVec.ofNat 5 stop ∧ t.mgmt.base = false ∧ t.mgmt.memErr = true) ∧
        (stop < 2 ∨ 4 < stop → t.mgmt.stage = 5 ∧ t.mgmt.base = true ∧ t.mgmt.memErr = false)
      (valid (s.flash.banks.get m) → up m) ∧
      (¬ valid (s.flash.banks.get m) → valid (s.flash.banks.get (1 - m)) → up (1 - m)) ∧
      (¬ valid (s.flash.banks.get m) → ¬ valid (s.flash.banks.get (1 - m)) →
        t.mgmt.recov = true ∧ t.mgmt.base = false ∧ t.mgmt.stage = 1 ∧ t.flash.marker = m))) ∧
  (∀ (s : State) (c : ChipletId), s.mgmt.base = true → c.val < Config.chiplets s.part → s.mem.wf = true →
    let st := (s.chiplet c).st
    let turn := ∀ k : ChipletId, k.val < c.val → k.val < Config.chiplets s.part → (s.chiplet k).st ≠ .off
    (st = .fenced ∨ (st = .off ∧ turn) →
      (∃ t, exec (.chipletJoin c true) s = .next t ∧
        t.chiplet c = { s.chiplet c with st := .provisional, reports := [] } ∧
        (∀ k, k ≠ c → t.chiplet k = s.chiplet k) ∧ t.mgmt = { s.mgmt with stage := 6 } ∧
        (∀ h, t.hart h = if chipletOf (coreOf h) = c then { Hart.initial with hostSig := (s.hart h).hostSig } else s.hart h) ∧
        (∀ k, t.core k = if chipletOf k = c then { Core.initial with clockStep := 8, temp := (s.core k).temp }
          else s.core k) ∧
        ∀ a, memGet t.mem a = if ∃ k : CoreId, chipletOf k = c ∧ slotBase k.val ≤ a ∧ a < slotBase k.val + 0x440000 then 0
          else memGet s.mem a) ∧
      ∃ t, exec (.chipletJoin c false) s = .next t ∧ t = { s with chiplets := t.chiplets, mgmt := { s.mgmt with stage := 6 } } ∧
        t.chiplet c = { s.chiplet c with st := .fenced, reason := 0x64 } ∧ ∀ k, k ≠ c → t.chiplet k = s.chiplet k) ∧
    (st ≠ .fenced → ¬ (st = .off ∧ turn) → ∀ pass, exec (.chipletJoin c pass) s = .next s) ∧
    (st = .provisional →
      (s.baseClock % 8 = 0 → ∃ t, exec (.tileSelfTest c true) s = .next t ∧ t = { s with chiplets := t.chiplets } ∧
        t.chiplet c = { s.chiplet c with st := .full } ∧ ∀ k, k ≠ c → t.chiplet k = s.chiplet k) ∧
      (s.baseClock % 8 ≠ 0 → exec (.tileSelfTest c true) s = .next s) ∧
      ∃ t, exec (.tileSelfTest c false) s = .next t ∧ (t.chiplet c).st = .fenced ∧ (t.chiplet c).reason = 0x64 ∧
        (t.chiplet c).gen = (s.chiplet c).gen + 1) ∧
    (st ≠ .provisional → ∀ pass, exec (.tileSelfTest c pass) s = .next s)) ∧
  (∀ (s : State) (c : CoreId) (temp : Byte) (droop : Bool), (chipletOf c).val < Config.chiplets s.part →
    let k := s.core c
    let due := s.inService (chipletOf c) = true ∧ k.stepAt + 2 ^ 16 ≤ k.cycle.toNat
    let put := fun (n : Nat) => (Host.Outcome.next
      (s.setCore c { k with temp := temp, clockStep := n, stepAt := k.cycle.toNat }) : Out)
    let same := (Host.Outcome.next (s.setCore c { k with temp := temp }) : Out)
    let top := if (s.chiplet (chipletOf c)).st = .provisional then 8 else 16
    let down := exec (.clockStepDecrease c temp droop) s
    let up := exec (.clockStepIncrease c temp droop) s
    (110 < temp.toNat → down = exec (.thermalTcrit c temp) s ∧ up = exec (.thermalTcrit c temp) s) ∧
    (temp.toNat ≤ 110 →
      (due → (95 < temp.toNat ∨ droop = true) → down = put (max 4 (k.clockStep - 1))) ∧
      (¬ due ∨ (temp.toNat ≤ 95 ∧ droop = false) → down = same) ∧
      (due → temp.toNat < 85 → droop = false → up = put (min top (k.clockStep + 1))) ∧
      (¬ due ∨ 85 ≤ temp.toNat ∨ droop = true → up = same))) ∧
  (∀ s : State, s.hostUp = true →
    let m := s.mailbox
    let bad := fun (op : Byte) => (Host.Outcome.next (({ s with mailbox := { m with op := op, res := 2 } } : State).signal 18) : Out)
    (m.busy = true →
      let late := (Host.Outcome.next { s with mailbox := { m with ovr := true } } : Out)
      exec .getcert s = late ∧ exec .attest s = late ∧ exec .loadfw s = late ∧
      ∀ op : Byte, (op = 0 ∨ 3 < op.toNat) → exec (.mailboxBadCommand op) s = late) ∧
    (m.busy = false → s.mgmt.recov = false →
      exec .getcert s = .next { s with mailbox := { m with
        busy := true, op := 1, buf := Config.certificate.take 4096
        len := BitVec.ofNat 32 (min 4096 Config.certificate.length) } } ∧
      let img := s.flash.banks.get s.mgmt.bank
      let body := leBytes 8 (featWord s.part).toNat ++
        leBytes 8 ((Config.imageFwver img).toNat * 2 ^ 32 + (Config.imageSvn img).toNat * 2 ^ 16) ++ sha384 img ++
        m.nonce.toList ++ leBytes 8 s.mstat.toNat ++ leBytes 8 s.fabric.ident.toNat
      let buf := body ++ signs Config.identityKey (Config.signatureSecret body) body
      body.length = 112 ∧ buf.length = 208 ∧ exec .attest s = .next { s with mailbox := { m with
        busy := true, op := 2, buf := buf, len := 208 } }) ∧
    (m.busy = false → s.mgmt.recov = true → exec .getcert s = bad 1 ∧ exec .attest s = bad 2) ∧
    (m.busy = false → exec .loadfw s = .next { s with mailbox := { m with busy := true, op := 3 } }) ∧
    (∀ op : Byte, (op = 0 ∨ 3 < op.toNat) → m.busy = false → exec (.mailboxBadCommand op) s = bad op) ∧
    (m.busy = false → exec .mailboxCommandComplete s = .next s) ∧
    (m.busy = true → s.locks = [] →
      let ended := fun (f : Flash) (res : Byte) => exec .mailboxCommandComplete s = .next
        (({ s with flash := f, mailbox := { m with busy := false, res := res } } : State).signal 18)
      let off := m.arg0.toNat
      let size := m.arg1.toNat
      let img := (List.range size).map (fun i => memGet s.mem (off + i))
      let good := size ≤ 2 ^ 24 ∧ off + size ≤ Config.memBytes s.part ∧
        (∀ b ∈ s.badLines, b.line * 128 + 128 ≤ off ∨ off + size ≤ b.line * 128) ∧ valid img
      let spare := 1 - (if s.mgmt.recov then s.flash.marker else s.mgmt.bank)
      (m.op ≠ 3 → ended s.flash 0) ∧
      (m.op = 3 → good → ended { banks := s.flash.banks.set spare.val img spare.isLt, marker := spare } 0) ∧
      (m.op = 3 → ¬ good → ended s.flash 1)))

/-! ### The memory system between instructions (chapters 7 and 8) -/

/-- A queued write that may leave reaches its home, or is dropped when its fence generation is stale, and leaves its
queue; a page walk that ends in a leaf puts it into its core's translation cache; a lock of another module that is released
leaves its line to the first access that waits for it, or to any, and every other line as it was, and a lock of this module's
VAMO stays; the first reservation that waits in a slice is granted when its lines fit, and only it (R199, R229, R252, R362).
The model's choices it rests on: logs 10, 18, 20, 21 and 25 (which reservation of a slice is granted). -/
def Obligations.MemorySystemEvents : Prop :=
  (∀ (s : State) (c : CoreId) (i : Nat) (w : QueuedWrite), (s.core c).queue[i]? = some w →
    (s.canLeave (s.core c).queue i = false → exec (.storeQueueWriteHome c i) s = .next s) ∧
    (s.canLeave (s.core c).queue i = true → ∃ t, exec (.storeQueueWriteHome c i) s = .next t ∧
      (t.core c).queue = (s.core c).queue.eraseIdx i ∧ (∀ k, k ≠ c → (t.core k).queue = (s.core k).queue) ∧
      (∀ h, t.hart h = s.hart h) ∧
      ((s.chiplet (chipletOf (coreOf w.hart))).gen ≠ w.gen → t.mem = s.mem) ∧
      ((s.chiplet (chipletOf (coreOf w.hart))).gen = w.gen → s.clean = true → (∀ b ∈ w.bytes, s.homeLost b.pa = false) →
        s.mem.wf = true → (∀ k, k ≠ c → t.core k = s.core k) ∧ ∀ a, memGet t.mem a = w.bytes.foldl (fun old b =>
          if b.pa = a then (old &&& ~~~b.mask) ||| (b.val &&& b.mask) else old) (memGet s.mem a)))) ∧
  (∀ (s : State) (h : HartId) (va pte : Word) (pteAddr : Nat) (big : Bool), (s.hart h).live = true → va.toNat < 2 ^ 48 →
    isLocal va.toNat = false →
    s.walk (s.walkStop h va.toNat) ((s.hart h).ptbase.toNat / 2 ^ 15) va.toNat = .leaf pte pteAddr big →
    let e : TEntry := { asid := (s.hart h).asid, vpn := BitVec.ofNat 33 (va.toNat / 2 ^ 15), big := big, pte := pte,
                        pteAddr := pteAddr }
    ∃ t, exec (.pageWalk h va) s = .next t ∧ e ∈ (t.core (coreOf h)).tcache ∧
      e.hits (s.hart h).asid va.toNat = true ∧ (∀ g, t.hart g = s.hart g) ∧ s.sameMemory t ∧ s.sameQueues t ∧
      ∀ k, k ≠ coreOf h → t.core k = s.core k) ∧
  (∀ (s : State) (line : Nat) (l : LineLock), l ∈ s.locks → l.line = line → (∀ k ∈ s.locks, k.line = line → k = l) →
    (∀ h, l.holder = some (.hart h) → exec (.lockedLineGrant line) s = .next s) ∧
    ((∀ h, l.holder ≠ some (.hart h)) → ∃ t, exec (.lockedLineGrant line) s = .next t ∧ t = { s with locks := t.locks } ∧
      (l.waiting = [] → ∀ pa, pa / 128 = line → t.lineHeld pa = false) ∧
      (∀ h rest, l.waiting = h :: rest → ∀ g, (t.lockedFor g line = true ↔ g ≠ h)) ∧
      ∀ k, k.line ≠ line → (k.holder.isSome = true ∨ k.waiting ≠ []) → (k ∈ t.locks ↔ k ∈ s.locks))) ∧
  (∀ (s : State) (slice : Nat) (before after : List Reservation) (r : Reservation),
    s.reservations = before ++ r :: after → r.slice = slice → r.granted = false →
    (∀ k ∈ before, ¬ (k.slice = slice ∧ k.granted = false)) →
    let held := s.heldIn slice +
      ((s.reservations.filter (fun k => k.slice == slice && k.granted)).map (fun k => k.lines)).sum
    (held + r.lines ≤ 65536 → exec (.lockReservationGrant slice) s = .next { s with
      reservations := before ++ { r with granted := true } :: after }) ∧
    (65536 < held + r.lines → exec (.lockReservationGrant slice) s = .next s))
end

