-- ==== Sys2Proof/Laws/Decode.lean ====
section
/-! SUPPORT. What decoding gives: the field checks and the decoder agree. -/

namespace Sys2Proof.Laws

/-! ### The fields of packed words -/

@[simp] theorem fOp_packR (op : BitVec 6) (d a b : Reg) (fn : BitVec 11) :
    fOp (packR op d a b fn) = op := by
  unfold fOp packR
  apply BitVec.eq_of_getLsbD_eq
  intro i hi
  simp only [BitVec.getLsbD_extractLsb', BitVec.getLsbD_append, hi, decide_true, Bool.true_and]
  repeat' split
  all_goals first | omega | (congr 1; omega)

@[simp] theorem fD_packR (op : BitVec 6) (d a b : Reg) (fn : BitVec 11) :
    fD (packR op d a b fn) = d := by
  unfold fD packR
  apply BitVec.eq_of_getLsbD_eq
  intro i hi
  simp only [BitVec.getLsbD_extractLsb', BitVec.getLsbD_append, hi, decide_true, Bool.true_and]
  repeat' split
  all_goals first | omega | (congr 1; omega)

@[simp] theorem fA_packR (op : BitVec 6) (d a b : Reg) (fn : BitVec 11) :
    fA (packR op d a b fn) = a := by
  unfold fA packR
  apply BitVec.eq_of_getLsbD_eq
  intro i hi
  simp only [BitVec.getLsbD_extractLsb', BitVec.getLsbD_append, hi, decide_true, Bool.true_and]
  repeat' split
  all_goals first | omega | (congr 1; omega)

@[simp] theorem fB_packR (op : BitVec 6) (d a b : Reg) (fn : BitVec 11) :
    fB (packR op d a b fn) = b := by
  unfold fB packR
  apply BitVec.eq_of_getLsbD_eq
  intro i hi
  simp only [BitVec.getLsbD_extractLsb', BitVec.getLsbD_append, hi, decide_true, Bool.true_and]
  repeat' split
  all_goals first | omega | (congr 1; omega)

@[simp] theorem fFn_packR (op : BitVec 6) (d a b : Reg) (fn : BitVec 11) :
    fFn (packR op d a b fn) = fn := by
  unfold fFn packR
  apply BitVec.eq_of_getLsbD_eq
  intro i hi
  simp only [BitVec.getLsbD_extractLsb', BitVec.getLsbD_append, hi, decide_true, Bool.true_and]
  repeat' split
  all_goals first | omega | (congr 1; omega)

@[simp] theorem fOp_packI (op : BitVec 6) (d a : Reg) (imm : BitVec 16) :
    fOp (packI op d a imm) = op := by
  unfold fOp packI
  apply BitVec.eq_of_getLsbD_eq
  intro i hi
  simp only [BitVec.getLsbD_extractLsb', BitVec.getLsbD_append, hi, decide_true, Bool.true_and]
  repeat' split
  all_goals first | omega | (congr 1; omega)

@[simp] theorem fD_packI (op : BitVec 6) (d a : Reg) (imm : BitVec 16) :
    fD (packI op d a imm) = d := by
  unfold fD packI
  apply BitVec.eq_of_getLsbD_eq
  intro i hi
  simp only [BitVec.getLsbD_extractLsb', BitVec.getLsbD_append, hi, decide_true, Bool.true_and]
  repeat' split
  all_goals first | omega | (congr 1; omega)

@[simp] theorem fA_packI (op : BitVec 6) (d a : Reg) (imm : BitVec 16) :
    fA (packI op d a imm) = a := by
  unfold fA packI
  apply BitVec.eq_of_getLsbD_eq
  intro i hi
  simp only [BitVec.getLsbD_extractLsb', BitVec.getLsbD_append, hi, decide_true, Bool.true_and]
  repeat' split
  all_goals first | omega | (congr 1; omega)

@[simp] theorem fImm16_packI (op : BitVec 6) (d a : Reg) (imm : BitVec 16) :
    fImm16 (packI op d a imm) = imm := by
  unfold fImm16 packI
  apply BitVec.eq_of_getLsbD_eq
  intro i hi
  simp only [BitVec.getLsbD_extractLsb', BitVec.getLsbD_append, hi, decide_true, Bool.true_and]
  repeat' split
  all_goals first | omega | (congr 1; omega)

@[simp] theorem fOp_packJ (op : BitVec 6) (d : Reg) (off : BitVec 21) :
    fOp (packJ op d off) = op := by
  unfold fOp packJ
  apply BitVec.eq_of_getLsbD_eq
  intro i hi
  simp only [BitVec.getLsbD_extractLsb', BitVec.getLsbD_append, hi, decide_true, Bool.true_and]
  repeat' split
  all_goals first | omega | (congr 1; omega)

@[simp] theorem fD_packJ (op : BitVec 6) (d : Reg) (off : BitVec 21) :
    fD (packJ op d off) = d := by
  unfold fD packJ
  apply BitVec.eq_of_getLsbD_eq
  intro i hi
  simp only [BitVec.getLsbD_extractLsb', BitVec.getLsbD_append, hi, decide_true, Bool.true_and]
  repeat' split
  all_goals first | omega | (congr 1; omega)

@[simp] theorem fOff21_packJ (op : BitVec 6) (d : Reg) (off : BitVec 21) :
    fOff21 (packJ op d off) = off := by
  unfold fOff21 packJ
  apply BitVec.eq_of_getLsbD_eq
  intro i hi
  simp only [BitVec.getLsbD_extractLsb', BitVec.getLsbD_append, hi, decide_true, Bool.true_and]
  repeat' split
  all_goals first | omega | (congr 1; omega)

@[simp] theorem fOp_packM13 (op : BitVec 6) (d a : Reg) (sz : BitVec 3) (imm : BitVec 13) :
    fOp (packM13 op d a sz imm) = op := by
  unfold fOp packM13
  apply BitVec.eq_of_getLsbD_eq
  intro i hi
  simp only [BitVec.getLsbD_extractLsb', BitVec.getLsbD_append, hi, decide_true, Bool.true_and]
  repeat' split
  all_goals first | omega | (congr 1; omega)

@[simp] theorem fD_packM13 (op : BitVec 6) (d a : Reg) (sz : BitVec 3) (imm : BitVec 13) :
    fD (packM13 op d a sz imm) = d := by
  unfold fD packM13
  apply BitVec.eq_of_getLsbD_eq
  intro i hi
  simp only [BitVec.getLsbD_extractLsb', BitVec.getLsbD_append, hi, decide_true, Bool.true_and]
  repeat' split
  all_goals first | omega | (congr 1; omega)

@[simp] theorem fA_packM13 (op : BitVec 6) (d a : Reg) (sz : BitVec 3) (imm : BitVec 13) :
    fA (packM13 op d a sz imm) = a := by
  unfold fA packM13
  apply BitVec.eq_of_getLsbD_eq
  intro i hi
  simp only [BitVec.getLsbD_extractLsb', BitVec.getLsbD_append, hi, decide_true, Bool.true_and]
  repeat' split
  all_goals first | omega | (congr 1; omega)

@[simp] theorem fSz_packM13 (op : BitVec 6) (d a : Reg) (sz : BitVec 3) (imm : BitVec 13) :
    fSz (packM13 op d a sz imm) = sz := by
  unfold fSz packM13
  apply BitVec.eq_of_getLsbD_eq
  intro i hi
  simp only [BitVec.getLsbD_extractLsb', BitVec.getLsbD_append, hi, decide_true, Bool.true_and]
  repeat' split
  all_goals first | omega | (congr 1; omega)

@[simp] theorem fImm13_packM13 (op : BitVec 6) (d a : Reg) (sz : BitVec 3) (imm : BitVec 13) :
    fImm13 (packM13 op d a sz imm) = imm := by
  unfold fImm13 packM13
  apply BitVec.eq_of_getLsbD_eq
  intro i hi
  simp only [BitVec.getLsbD_extractLsb', BitVec.getLsbD_append, hi, decide_true, Bool.true_and]
  repeat' split
  all_goals first | omega | (congr 1; omega)

@[simp] theorem fOp_packV (op : BitVec 6) (d a b : Reg) (k : KReg) (bk : BitVec 2) (fn : BitVec 6) :
    fOp (packV op d a b k bk fn) = op := by
  unfold fOp packV
  apply BitVec.eq_of_getLsbD_eq
  intro i hi
  simp only [BitVec.getLsbD_extractLsb', BitVec.getLsbD_append, hi, decide_true, Bool.true_and]
  repeat' split
  all_goals first | omega | (congr 1; omega)

@[simp] theorem fD_packV (op : BitVec 6) (d a b : Reg) (k : KReg) (bk : BitVec 2) (fn : BitVec 6) :
    fD (packV op d a b k bk fn) = d := by
  unfold fD packV
  apply BitVec.eq_of_getLsbD_eq
  intro i hi
  simp only [BitVec.getLsbD_extractLsb', BitVec.getLsbD_append, hi, decide_true, Bool.true_and]
  repeat' split
  all_goals first | omega | (congr 1; omega)

@[simp] theorem fA_packV (op : BitVec 6) (d a b : Reg) (k : KReg) (bk : BitVec 2) (fn : BitVec 6) :
    fA (packV op d a b k bk fn) = a := by
  unfold fA packV
  apply BitVec.eq_of_getLsbD_eq
  intro i hi
  simp only [BitVec.getLsbD_extractLsb', BitVec.getLsbD_append, hi, decide_true, Bool.true_and]
  repeat' split
  all_goals first | omega | (congr 1; omega)

@[simp] theorem fB_packV (op : BitVec 6) (d a b : Reg) (k : KReg) (bk : BitVec 2) (fn : BitVec 6) :
    fB (packV op d a b k bk fn) = b := by
  unfold fB packV
  apply BitVec.eq_of_getLsbD_eq
  intro i hi
  simp only [BitVec.getLsbD_extractLsb', BitVec.getLsbD_append, hi, decide_true, Bool.true_and]
  repeat' split
  all_goals first | omega | (congr 1; omega)

@[simp] theorem fK_packV (op : BitVec 6) (d a b : Reg) (k : KReg) (bk : BitVec 2) (fn : BitVec 6) :
    fK (packV op d a b k bk fn) = k := by
  unfold fK packV
  apply BitVec.eq_of_getLsbD_eq
  intro i hi
  simp only [BitVec.getLsbD_extractLsb', BitVec.getLsbD_append, hi, decide_true, Bool.true_and]
  repeat' split
  all_goals first | omega | (congr 1; omega)

@[simp] theorem fKind_packV (op : BitVec 6) (d a b : Reg) (k : KReg) (bk : BitVec 2) (fn : BitVec 6) :
    fKind (packV op d a b k bk fn) = bk := by
  unfold fKind packV
  apply BitVec.eq_of_getLsbD_eq
  intro i hi
  simp only [BitVec.getLsbD_extractLsb', BitVec.getLsbD_append, hi, decide_true, Bool.true_and]
  repeat' split
  all_goals first | omega | (congr 1; omega)

@[simp] theorem fFn6_packV (op : BitVec 6) (d a b : Reg) (k : KReg) (bk : BitVec 2) (fn : BitVec 6) :
    fFn6 (packV op d a b k bk fn) = fn := by
  unfold fFn6 packV
  apply BitVec.eq_of_getLsbD_eq
  intro i hi
  simp only [BitVec.getLsbD_extractLsb', BitVec.getLsbD_append, hi, decide_true, Bool.true_and]
  repeat' split
  all_goals first | omega | (congr 1; omega)

@[simp] theorem fFn_packV (op : BitVec 6) (d a b : Reg) (k : KReg) (bk : BitVec 2) (fn : BitVec 6) :
    fFn (packV op d a b k bk fn) = k ++ bk ++ fn := by
  unfold fFn packV
  apply BitVec.eq_of_getLsbD_eq
  intro i hi
  simp only [BitVec.getLsbD_extractLsb', BitVec.getLsbD_append, hi, decide_true, Bool.true_and]
  repeat' split
  all_goals first | omega | (congr 1; omega)

@[simp] theorem fOp_packVM (op : BitVec 6) (v a x : Reg) (k : KReg) (mv p : BitVec 4) :
    fOp (packVM op v a x k mv p) = op := by
  unfold fOp packVM
  apply BitVec.eq_of_getLsbD_eq
  intro i hi
  simp only [BitVec.getLsbD_extractLsb', BitVec.getLsbD_append, hi, decide_true, Bool.true_and]
  repeat' split
  all_goals first | omega | (congr 1; omega)

@[simp] theorem fD_packVM (op : BitVec 6) (v a x : Reg) (k : KReg) (mv p : BitVec 4) :
    fD (packVM op v a x k mv p) = v := by
  unfold fD packVM
  apply BitVec.eq_of_getLsbD_eq
  intro i hi
  simp only [BitVec.getLsbD_extractLsb', BitVec.getLsbD_append, hi, decide_true, Bool.true_and]
  repeat' split
  all_goals first | omega | (congr 1; omega)

@[simp] theorem fA_packVM (op : BitVec 6) (v a x : Reg) (k : KReg) (mv p : BitVec 4) :
    fA (packVM op v a x k mv p) = a := by
  unfold fA packVM
  apply BitVec.eq_of_getLsbD_eq
  intro i hi
  simp only [BitVec.getLsbD_extractLsb', BitVec.getLsbD_append, hi, decide_true, Bool.true_and]
  repeat' split
  all_goals first | omega | (congr 1; omega)

@[simp] theorem fB_packVM (op : BitVec 6) (v a x : Reg) (k : KReg) (mv p : BitVec 4) :
    fB (packVM op v a x k mv p) = x := by
  unfold fB packVM
  apply BitVec.eq_of_getLsbD_eq
  intro i hi
  simp only [BitVec.getLsbD_extractLsb', BitVec.getLsbD_append, hi, decide_true, Bool.true_and]
  repeat' split
  all_goals first | omega | (congr 1; omega)

@[simp] theorem fK_packVM (op : BitVec 6) (v a x : Reg) (k : KReg) (mv p : BitVec 4) :
    fK (packVM op v a x k mv p) = k := by
  unfold fK packVM
  apply BitVec.eq_of_getLsbD_eq
  intro i hi
  simp only [BitVec.getLsbD_extractLsb', BitVec.getLsbD_append, hi, decide_true, Bool.true_and]
  repeat' split
  all_goals first | omega | (congr 1; omega)

@[simp] theorem fMv_packVM (op : BitVec 6) (v a x : Reg) (k : KReg) (mv p : BitVec 4) :
    fMv (packVM op v a x k mv p) = mv := by
  unfold fMv packVM
  apply BitVec.eq_of_getLsbD_eq
  intro i hi
  simp only [BitVec.getLsbD_extractLsb', BitVec.getLsbD_append, hi, decide_true, Bool.true_and]
  repeat' split
  all_goals first | omega | (congr 1; omega)

@[simp] theorem fP4_packVM (op : BitVec 6) (v a x : Reg) (k : KReg) (mv p : BitVec 4) :
    fP4 (packVM op v a x k mv p) = p := by
  unfold fP4 packVM
  apply BitVec.eq_of_getLsbD_eq
  intro i hi
  simp only [BitVec.getLsbD_extractLsb', BitVec.getLsbD_append, hi, decide_true, Bool.true_and]
  repeat' split
  all_goals first | omega | (congr 1; omega)

@[simp] theorem fFn_packVM (op : BitVec 6) (v a x : Reg) (k : KReg) (mv p : BitVec 4) :
    fFn (packVM op v a x k mv p) = k ++ mv ++ p := by
  unfold fFn packVM
  apply BitVec.eq_of_getLsbD_eq
  intro i hi
  simp only [BitVec.getLsbD_extractLsb', BitVec.getLsbD_append, hi, decide_true, Bool.true_and]
  repeat' split
  all_goals first | omega | (congr 1; omega)

@[simp] theorem fOp_packM (op : BitVec 6) (z : BitVec 1) (va vb : Reg) (kr kc : KReg) (fn : BitVec 9) :
    fOp (packM op z va vb kr kc fn) = op := by
  unfold fOp packM
  apply BitVec.eq_of_getLsbD_eq
  intro i hi
  simp only [BitVec.getLsbD_extractLsb', BitVec.getLsbD_append, hi, decide_true, Bool.true_and]
  repeat' split
  all_goals first | omega | (congr 1; omega)

@[simp] theorem fZ_packM (op : BitVec 6) (z : BitVec 1) (va vb : Reg) (kr kc : KReg) (fn : BitVec 9) :
    fZ (packM op z va vb kr kc fn) = z := by
  unfold fZ packM
  apply BitVec.eq_of_getLsbD_eq
  intro i hi
  simp only [BitVec.getLsbD_extractLsb', BitVec.getLsbD_append, hi, decide_true, Bool.true_and]
  repeat' split
  all_goals first | omega | (congr 1; omega)

@[simp] theorem fMa_packM (op : BitVec 6) (z : BitVec 1) (va vb : Reg) (kr kc : KReg) (fn : BitVec 9) :
    fMa (packM op z va vb kr kc fn) = va := by
  unfold fMa packM
  apply BitVec.eq_of_getLsbD_eq
  intro i hi
  simp only [BitVec.getLsbD_extractLsb', BitVec.getLsbD_append, hi, decide_true, Bool.true_and]
  repeat' split
  all_goals first | omega | (congr 1; omega)

@[simp] theorem fMb_packM (op : BitVec 6) (z : BitVec 1) (va vb : Reg) (kr kc : KReg) (fn : BitVec 9) :
    fMb (packM op z va vb kr kc fn) = vb := by
  unfold fMb packM
  apply BitVec.eq_of_getLsbD_eq
  intro i hi
  simp only [BitVec.getLsbD_extractLsb', BitVec.getLsbD_append, hi, decide_true, Bool.true_and]
  repeat' split
  all_goals first | omega | (congr 1; omega)

@[simp] theorem fKr_packM (op : BitVec 6) (z : BitVec 1) (va vb : Reg) (kr kc : KReg) (fn : BitVec 9) :
    fKr (packM op z va vb kr kc fn) = kr := by
  unfold fKr packM
  apply BitVec.eq_of_getLsbD_eq
  intro i hi
  simp only [BitVec.getLsbD_extractLsb', BitVec.getLsbD_append, hi, decide_true, Bool.true_and]
  repeat' split
  all_goals first | omega | (congr 1; omega)

@[simp] theorem fKc_packM (op : BitVec 6) (z : BitVec 1) (va vb : Reg) (kr kc : KReg) (fn : BitVec 9) :
    fKc (packM op z va vb kr kc fn) = kc := by
  unfold fKc packM
  apply BitVec.eq_of_getLsbD_eq
  intro i hi
  simp only [BitVec.getLsbD_extractLsb', BitVec.getLsbD_append, hi, decide_true, Bool.true_and]
  repeat' split
  all_goals first | omega | (congr 1; omega)

@[simp] theorem fFn9_packM (op : BitVec 6) (z : BitVec 1) (va vb : Reg) (kr kc : KReg) (fn : BitVec 9) :
    fFn9 (packM op z va vb kr kc fn) = fn := by
  unfold fFn9 packM
  apply BitVec.eq_of_getLsbD_eq
  intro i hi
  simp only [BitVec.getLsbD_extractLsb', BitVec.getLsbD_append, hi, decide_true, Bool.true_and]
  repeat' split
  all_goals first | omega | (congr 1; omega)

/-! ### Fields of joined fields -/

theorem extract_low (v w : Nat) (a : BitVec v) (b : BitVec w) (s n : Nat) (h : s + n ≤ w) :
    (a ++ b).extractLsb' s n = b.extractLsb' s n := by
  apply BitVec.eq_of_getLsbD_eq
  intro i hi
  simp only [BitVec.getLsbD_extractLsb', BitVec.getLsbD_append, hi, decide_true, Bool.true_and]
  split
  · rfl
  · omega

theorem extract_high (v w : Nat) (a : BitVec v) (b : BitVec w) (s n : Nat) (h : w ≤ s) :
    (a ++ b).extractLsb' s n = a.extractLsb' (s - w) n := by
  apply BitVec.eq_of_getLsbD_eq
  intro i hi
  simp only [BitVec.getLsbD_extractLsb', BitVec.getLsbD_append, hi, decide_true, Bool.true_and]
  split
  · omega
  · congr 1; omega

theorem extract_all (w : Nat) (a : BitVec w) : a.extractLsb' 0 w = a := by
  apply BitVec.eq_of_getLsbD_eq
  intro i hi
  simp [hi]

@[simp] theorem kOf_kField (k : KReg) : kOf (kField k) = k := by
  unfold kOf kField
  rw [extract_low _ _ _ _ _ _ (by decide), extract_all]

@[simp] theorem kHi_kField (k : KReg) : kHi (kField k) = 0 := by
  unfold kHi kField
  rw [extract_high _ _ _ _ _ _ (by decide), extract_all]

/-! ### Checks and decoder -/

theorem pfxOk_iff (w : BitVec 32) : pfxOk w = (decodePfx w).isSome := by
  unfold pfxOk decodePfx
  simp only []
  repeat' split
  all_goals simp_all
  exact Classical.or_iff_not_imp_left.mpr (by simpa using ‹_›)

theorem xcpyOk_iff (w : BitVec 32) : xcpyOk w = (decodeXcpy w).isSome := by
  unfold xcpyOk decodeXcpy asK
  repeat' split
  all_goals simp_all
  · rcases ‹_ ∨ _› with h | h <;> intro hb ha
    · exact absurd hb h
    · omega
  · omega

theorem weaveOk_iff (w : BitVec 32) : weaveOk w = (decodeWeave w).isSome := by
  unfold weaveOk decodeWeave asK unused
  simp only []
  repeat' split
  all_goals simp_all

theorem farmOk_iff (w : BitVec 32) : farmOk w = (decodeFarm w).isSome := by
  unfold farmOk decodeFarm unused
  simp only []
  repeat' split
  all_goals simp_all

theorem fabOk_iff (w : BitVec 32) : fabOk w = (decodeFab w).isSome := by
  unfold fabOk decodeFab unused
  simp only []
  repeat' split
  all_goals simp_all

/-- A word passes check 3 of Table 2.2 exactly when the decoder answers an instruction. -/
theorem fieldsOk_iff (w : BitVec 32) : fieldsOk w = (decodeMajor w).isSome := by
  unfold fieldsOk decodeMajor
  split
  · exact pfxOk_iff w
  · exact xcpyOk_iff w
  · exact weaveOk_iff w
  · exact farmOk_iff w
  · exact fabOk_iff w
  · rfl

end Sys2Proof.Laws
end

