-- ==== Sys2Proof/Laws/State.lean ====
section
/-! SUPPORT. One lemma for each field under each update of State, and the accessors over the updates. -/

namespace Sys2Proof.Laws
open Sys2Proof.Machine

/-! ### setHart -/

@[simp] theorem setHart_part (s : State) (h : HartId) (x : Hart) : (s.setHart h x).part = s.part := rfl
@[simp] theorem setHart_mem (s : State) (h : HartId) (x : Hart) : (s.setHart h x).mem = s.mem := rfl
@[simp] theorem setHart_badLines (s : State) (h : HartId) (x : Hart) : (s.setHart h x).badLines = s.badLines := rfl
@[simp] theorem setHart_locks (s : State) (h : HartId) (x : Hart) : (s.setHart h x).locks = s.locks := rfl
@[simp] theorem setHart_reservations (s : State) (h : HartId) (x : Hart) : (s.setHart h x).reservations = s.reservations := rfl
@[simp] theorem setHart_cores (s : State) (h : HartId) (x : Hart) : (s.setHart h x).cores = s.cores := rfl
@[simp] theorem setHart_chiplets (s : State) (h : HartId) (x : Hart) : (s.setHart h x).chiplets = s.chiplets := rfl
@[simp] theorem setHart_camp (s : State) (h : HartId) (x : Hart) : (s.setHart h x).camp = s.camp := rfl
@[simp] theorem setHart_apertures (s : State) (h : HartId) (x : Hart) : (s.setHart h x).apertures = s.apertures := rfl
@[simp] theorem setHart_hostOut (s : State) (h : HartId) (x : Hart) : (s.setHart h x).hostOut = s.hostOut := rfl
@[simp] theorem setHart_hostReplies (s : State) (h : HartId) (x : Hart) : (s.setHart h x).hostReplies = s.hostReplies := rfl
@[simp] theorem setHart_msix (s : State) (h : HartId) (x : Hart) : (s.setHart h x).msix = s.msix := rfl
@[simp] theorem setHart_fabric (s : State) (h : HartId) (x : Hart) : (s.setHart h x).fabric = s.fabric := rfl
@[simp] theorem setHart_collectives (s : State) (h : HartId) (x : Hart) : (s.setHart h x).collectives = s.collectives := rfl
@[simp] theorem setHart_nodes (s : State) (h : HartId) (x : Hart) : (s.setHart h x).nodes = s.nodes := rfl
@[simp] theorem setHart_mgmt (s : State) (h : HartId) (x : Hart) : (s.setHart h x).mgmt = s.mgmt := rfl
@[simp] theorem setHart_mailbox (s : State) (h : HartId) (x : Hart) : (s.setHart h x).mailbox = s.mailbox := rfl
@[simp] theorem setHart_flash (s : State) (h : HartId) (x : Hart) : (s.setHart h x).flash = s.flash := rfl
@[simp] theorem setHart_baseClock (s : State) (h : HartId) (x : Hart) : (s.setHart h x).baseClock = s.baseClock := rfl
@[simp] theorem setHart_agenda (s : State) (h : HartId) (x : Hart) : (s.setHart h x).agenda = s.agenda := rfl
@[simp] theorem setHart_cur (s : State) (h : HartId) (x : Hart) : (s.setHart h x).cur = s.cur := rfl
@[simp] theorem setHart_tick (s : State) (h : HartId) (x : Hart) : (s.setHart h x).tick = s.tick := rfl
@[simp] theorem setHart_slice (s : State) (h : HartId) (x : Hart) : (s.setHart h x).slice = s.slice := rfl
@[simp] theorem setHart_group (s : State) (h : HartId) (x : Hart) : (s.setHart h x).group = s.group := rfl
@[simp] theorem setHart_nextAgent (s : State) (h : HartId) (x : Hart) : (s.setHart h x).nextAgent = s.nextAgent := rfl
@[simp] theorem setHart_vamos (s : State) (h : HartId) (x : Hart) : (s.setHart h x).vamos = s.vamos := rfl
@[simp] theorem setHart_msixTable (s : State) (h : HartId) (x : Hart) : (s.setHart h x).msixTable = s.msixTable := rfl
@[simp] theorem setHart_msixPending (s : State) (h : HartId) (x : Hart) : (s.setHart h x).msixPending = s.msixPending := rfl
@[simp] theorem setHart_roots (s : State) (h : HartId) (x : Hart) : (s.setHart h x).roots = s.roots := rfl

/-! ### setCore -/

@[simp] theorem setCore_part (s : State) (c : CoreId) (x : Core) : (s.setCore c x).part = s.part := rfl
@[simp] theorem setCore_mem (s : State) (c : CoreId) (x : Core) : (s.setCore c x).mem = s.mem := rfl
@[simp] theorem setCore_badLines (s : State) (c : CoreId) (x : Core) : (s.setCore c x).badLines = s.badLines := rfl
@[simp] theorem setCore_locks (s : State) (c : CoreId) (x : Core) : (s.setCore c x).locks = s.locks := rfl
@[simp] theorem setCore_reservations (s : State) (c : CoreId) (x : Core) : (s.setCore c x).reservations = s.reservations := rfl
@[simp] theorem setCore_harts (s : State) (c : CoreId) (x : Core) : (s.setCore c x).harts = s.harts := rfl
@[simp] theorem setCore_chiplets (s : State) (c : CoreId) (x : Core) : (s.setCore c x).chiplets = s.chiplets := rfl
@[simp] theorem setCore_camp (s : State) (c : CoreId) (x : Core) : (s.setCore c x).camp = s.camp := rfl
@[simp] theorem setCore_apertures (s : State) (c : CoreId) (x : Core) : (s.setCore c x).apertures = s.apertures := rfl
@[simp] theorem setCore_hostOut (s : State) (c : CoreId) (x : Core) : (s.setCore c x).hostOut = s.hostOut := rfl
@[simp] theorem setCore_hostReplies (s : State) (c : CoreId) (x : Core) : (s.setCore c x).hostReplies = s.hostReplies := rfl
@[simp] theorem setCore_msix (s : State) (c : CoreId) (x : Core) : (s.setCore c x).msix = s.msix := rfl
@[simp] theorem setCore_fabric (s : State) (c : CoreId) (x : Core) : (s.setCore c x).fabric = s.fabric := rfl
@[simp] theorem setCore_collectives (s : State) (c : CoreId) (x : Core) : (s.setCore c x).collectives = s.collectives := rfl
@[simp] theorem setCore_nodes (s : State) (c : CoreId) (x : Core) : (s.setCore c x).nodes = s.nodes := rfl
@[simp] theorem setCore_mgmt (s : State) (c : CoreId) (x : Core) : (s.setCore c x).mgmt = s.mgmt := rfl
@[simp] theorem setCore_mailbox (s : State) (c : CoreId) (x : Core) : (s.setCore c x).mailbox = s.mailbox := rfl
@[simp] theorem setCore_flash (s : State) (c : CoreId) (x : Core) : (s.setCore c x).flash = s.flash := rfl
@[simp] theorem setCore_baseClock (s : State) (c : CoreId) (x : Core) : (s.setCore c x).baseClock = s.baseClock := rfl
@[simp] theorem setCore_agenda (s : State) (c : CoreId) (x : Core) : (s.setCore c x).agenda = s.agenda := rfl
@[simp] theorem setCore_cur (s : State) (c : CoreId) (x : Core) : (s.setCore c x).cur = s.cur := rfl
@[simp] theorem setCore_tick (s : State) (c : CoreId) (x : Core) : (s.setCore c x).tick = s.tick := rfl
@[simp] theorem setCore_slice (s : State) (c : CoreId) (x : Core) : (s.setCore c x).slice = s.slice := rfl
@[simp] theorem setCore_group (s : State) (c : CoreId) (x : Core) : (s.setCore c x).group = s.group := rfl
@[simp] theorem setCore_nextAgent (s : State) (c : CoreId) (x : Core) : (s.setCore c x).nextAgent = s.nextAgent := rfl
@[simp] theorem setCore_vamos (s : State) (c : CoreId) (x : Core) : (s.setCore c x).vamos = s.vamos := rfl
@[simp] theorem setCore_msixTable (s : State) (c : CoreId) (x : Core) : (s.setCore c x).msixTable = s.msixTable := rfl
@[simp] theorem setCore_msixPending (s : State) (c : CoreId) (x : Core) : (s.setCore c x).msixPending = s.msixPending := rfl
@[simp] theorem setCore_roots (s : State) (c : CoreId) (x : Core) : (s.setCore c x).roots = s.roots := rfl

/-! ### modChiplet -/

@[simp] theorem modChiplet_part (s : State) (c : ChipletId) (f : Chiplet → Chiplet) : (s.modChiplet c f).part = s.part := rfl
@[simp] theorem modChiplet_mem (s : State) (c : ChipletId) (f : Chiplet → Chiplet) : (s.modChiplet c f).mem = s.mem := rfl
@[simp] theorem modChiplet_badLines (s : State) (c : ChipletId) (f : Chiplet → Chiplet) : (s.modChiplet c f).badLines = s.badLines := rfl
@[simp] theorem modChiplet_locks (s : State) (c : ChipletId) (f : Chiplet → Chiplet) : (s.modChiplet c f).locks = s.locks := rfl
@[simp] theorem modChiplet_reservations (s : State) (c : ChipletId) (f : Chiplet → Chiplet) : (s.modChiplet c f).reservations = s.reservations := rfl
@[simp] theorem modChiplet_harts (s : State) (c : ChipletId) (f : Chiplet → Chiplet) : (s.modChiplet c f).harts = s.harts := rfl
@[simp] theorem modChiplet_cores (s : State) (c : ChipletId) (f : Chiplet → Chiplet) : (s.modChiplet c f).cores = s.cores := rfl
@[simp] theorem modChiplet_camp (s : State) (c : ChipletId) (f : Chiplet → Chiplet) : (s.modChiplet c f).camp = s.camp := rfl
@[simp] theorem modChiplet_apertures (s : State) (c : ChipletId) (f : Chiplet → Chiplet) : (s.modChiplet c f).apertures = s.apertures := rfl
@[simp] theorem modChiplet_hostOut (s : State) (c : ChipletId) (f : Chiplet → Chiplet) : (s.modChiplet c f).hostOut = s.hostOut := rfl
@[simp] theorem modChiplet_hostReplies (s : State) (c : ChipletId) (f : Chiplet → Chiplet) : (s.modChiplet c f).hostReplies = s.hostReplies := rfl
@[simp] theorem modChiplet_msix (s : State) (c : ChipletId) (f : Chiplet → Chiplet) : (s.modChiplet c f).msix = s.msix := rfl
@[simp] theorem modChiplet_fabric (s : State) (c : ChipletId) (f : Chiplet → Chiplet) : (s.modChiplet c f).fabric = s.fabric := rfl
@[simp] theorem modChiplet_collectives (s : State) (c : ChipletId) (f : Chiplet → Chiplet) : (s.modChiplet c f).collectives = s.collectives := rfl
@[simp] theorem modChiplet_nodes (s : State) (c : ChipletId) (f : Chiplet → Chiplet) : (s.modChiplet c f).nodes = s.nodes := rfl
@[simp] theorem modChiplet_mgmt (s : State) (c : ChipletId) (f : Chiplet → Chiplet) : (s.modChiplet c f).mgmt = s.mgmt := rfl
@[simp] theorem modChiplet_mailbox (s : State) (c : ChipletId) (f : Chiplet → Chiplet) : (s.modChiplet c f).mailbox = s.mailbox := rfl
@[simp] theorem modChiplet_flash (s : State) (c : ChipletId) (f : Chiplet → Chiplet) : (s.modChiplet c f).flash = s.flash := rfl
@[simp] theorem modChiplet_baseClock (s : State) (c : ChipletId) (f : Chiplet → Chiplet) : (s.modChiplet c f).baseClock = s.baseClock := rfl
@[simp] theorem modChiplet_agenda (s : State) (c : ChipletId) (f : Chiplet → Chiplet) : (s.modChiplet c f).agenda = s.agenda := rfl
@[simp] theorem modChiplet_cur (s : State) (c : ChipletId) (f : Chiplet → Chiplet) : (s.modChiplet c f).cur = s.cur := rfl
@[simp] theorem modChiplet_tick (s : State) (c : ChipletId) (f : Chiplet → Chiplet) : (s.modChiplet c f).tick = s.tick := rfl
@[simp] theorem modChiplet_slice (s : State) (c : ChipletId) (f : Chiplet → Chiplet) : (s.modChiplet c f).slice = s.slice := rfl
@[simp] theorem modChiplet_group (s : State) (c : ChipletId) (f : Chiplet → Chiplet) : (s.modChiplet c f).group = s.group := rfl
@[simp] theorem modChiplet_nextAgent (s : State) (c : ChipletId) (f : Chiplet → Chiplet) : (s.modChiplet c f).nextAgent = s.nextAgent := rfl
@[simp] theorem modChiplet_vamos (s : State) (c : ChipletId) (f : Chiplet → Chiplet) : (s.modChiplet c f).vamos = s.vamos := rfl
@[simp] theorem modChiplet_msixTable (s : State) (c : ChipletId) (f : Chiplet → Chiplet) : (s.modChiplet c f).msixTable = s.msixTable := rfl
@[simp] theorem modChiplet_msixPending (s : State) (c : ChipletId) (f : Chiplet → Chiplet) : (s.modChiplet c f).msixPending = s.msixPending := rfl
@[simp] theorem modChiplet_roots (s : State) (c : ChipletId) (f : Chiplet → Chiplet) : (s.modChiplet c f).roots = s.roots := rfl

/-! ### modLaunch -/

@[simp] theorem modLaunch_part (s : State) (l : Nat) (f : Launch → Launch) : (s.modLaunch l f).part = s.part := rfl
@[simp] theorem modLaunch_mem (s : State) (l : Nat) (f : Launch → Launch) : (s.modLaunch l f).mem = s.mem := rfl
@[simp] theorem modLaunch_badLines (s : State) (l : Nat) (f : Launch → Launch) : (s.modLaunch l f).badLines = s.badLines := rfl
@[simp] theorem modLaunch_locks (s : State) (l : Nat) (f : Launch → Launch) : (s.modLaunch l f).locks = s.locks := rfl
@[simp] theorem modLaunch_reservations (s : State) (l : Nat) (f : Launch → Launch) : (s.modLaunch l f).reservations = s.reservations := rfl
@[simp] theorem modLaunch_harts (s : State) (l : Nat) (f : Launch → Launch) : (s.modLaunch l f).harts = s.harts := rfl
@[simp] theorem modLaunch_cores (s : State) (l : Nat) (f : Launch → Launch) : (s.modLaunch l f).cores = s.cores := rfl
@[simp] theorem modLaunch_chiplets (s : State) (l : Nat) (f : Launch → Launch) : (s.modLaunch l f).chiplets = s.chiplets := rfl
@[simp] theorem modLaunch_apertures (s : State) (l : Nat) (f : Launch → Launch) : (s.modLaunch l f).apertures = s.apertures := rfl
@[simp] theorem modLaunch_hostOut (s : State) (l : Nat) (f : Launch → Launch) : (s.modLaunch l f).hostOut = s.hostOut := rfl
@[simp] theorem modLaunch_hostReplies (s : State) (l : Nat) (f : Launch → Launch) : (s.modLaunch l f).hostReplies = s.hostReplies := rfl
@[simp] theorem modLaunch_msix (s : State) (l : Nat) (f : Launch → Launch) : (s.modLaunch l f).msix = s.msix := rfl
@[simp] theorem modLaunch_fabric (s : State) (l : Nat) (f : Launch → Launch) : (s.modLaunch l f).fabric = s.fabric := rfl
@[simp] theorem modLaunch_collectives (s : State) (l : Nat) (f : Launch → Launch) : (s.modLaunch l f).collectives = s.collectives := rfl
@[simp] theorem modLaunch_nodes (s : State) (l : Nat) (f : Launch → Launch) : (s.modLaunch l f).nodes = s.nodes := rfl
@[simp] theorem modLaunch_mgmt (s : State) (l : Nat) (f : Launch → Launch) : (s.modLaunch l f).mgmt = s.mgmt := rfl
@[simp] theorem modLaunch_mailbox (s : State) (l : Nat) (f : Launch → Launch) : (s.modLaunch l f).mailbox = s.mailbox := rfl
@[simp] theorem modLaunch_flash (s : State) (l : Nat) (f : Launch → Launch) : (s.modLaunch l f).flash = s.flash := rfl
@[simp] theorem modLaunch_baseClock (s : State) (l : Nat) (f : Launch → Launch) : (s.modLaunch l f).baseClock = s.baseClock := rfl
@[simp] theorem modLaunch_agenda (s : State) (l : Nat) (f : Launch → Launch) : (s.modLaunch l f).agenda = s.agenda := rfl
@[simp] theorem modLaunch_cur (s : State) (l : Nat) (f : Launch → Launch) : (s.modLaunch l f).cur = s.cur := rfl
@[simp] theorem modLaunch_tick (s : State) (l : Nat) (f : Launch → Launch) : (s.modLaunch l f).tick = s.tick := rfl
@[simp] theorem modLaunch_slice (s : State) (l : Nat) (f : Launch → Launch) : (s.modLaunch l f).slice = s.slice := rfl
@[simp] theorem modLaunch_group (s : State) (l : Nat) (f : Launch → Launch) : (s.modLaunch l f).group = s.group := rfl
@[simp] theorem modLaunch_nextAgent (s : State) (l : Nat) (f : Launch → Launch) : (s.modLaunch l f).nextAgent = s.nextAgent := rfl
@[simp] theorem modLaunch_vamos (s : State) (l : Nat) (f : Launch → Launch) : (s.modLaunch l f).vamos = s.vamos := rfl
@[simp] theorem modLaunch_msixTable (s : State) (l : Nat) (f : Launch → Launch) : (s.modLaunch l f).msixTable = s.msixTable := rfl
@[simp] theorem modLaunch_msixPending (s : State) (l : Nat) (f : Launch → Launch) : (s.modLaunch l f).msixPending = s.msixPending := rfl
@[simp] theorem modLaunch_roots (s : State) (l : Nat) (f : Launch → Launch) : (s.modLaunch l f).roots = s.roots := rfl

/-! ### modQueue -/

@[simp] theorem modQueue_part (s : State) (q : Fin 16) (f : LaunchQueue → LaunchQueue) : (s.modQueue q f).part = s.part := rfl
@[simp] theorem modQueue_mem (s : State) (q : Fin 16) (f : LaunchQueue → LaunchQueue) : (s.modQueue q f).mem = s.mem := rfl
@[simp] theorem modQueue_badLines (s : State) (q : Fin 16) (f : LaunchQueue → LaunchQueue) : (s.modQueue q f).badLines = s.badLines := rfl
@[simp] theorem modQueue_locks (s : State) (q : Fin 16) (f : LaunchQueue → LaunchQueue) : (s.modQueue q f).locks = s.locks := rfl
@[simp] theorem modQueue_reservations (s : State) (q : Fin 16) (f : LaunchQueue → LaunchQueue) : (s.modQueue q f).reservations = s.reservations := rfl
@[simp] theorem modQueue_harts (s : State) (q : Fin 16) (f : LaunchQueue → LaunchQueue) : (s.modQueue q f).harts = s.harts := rfl
@[simp] theorem modQueue_cores (s : State) (q : Fin 16) (f : LaunchQueue → LaunchQueue) : (s.modQueue q f).cores = s.cores := rfl
@[simp] theorem modQueue_chiplets (s : State) (q : Fin 16) (f : LaunchQueue → LaunchQueue) : (s.modQueue q f).chiplets = s.chiplets := rfl
@[simp] theorem modQueue_apertures (s : State) (q : Fin 16) (f : LaunchQueue → LaunchQueue) : (s.modQueue q f).apertures = s.apertures := rfl
@[simp] theorem modQueue_hostOut (s : State) (q : Fin 16) (f : LaunchQueue → LaunchQueue) : (s.modQueue q f).hostOut = s.hostOut := rfl
@[simp] theorem modQueue_hostReplies (s : State) (q : Fin 16) (f : LaunchQueue → LaunchQueue) : (s.modQueue q f).hostReplies = s.hostReplies := rfl
@[simp] theorem modQueue_msix (s : State) (q : Fin 16) (f : LaunchQueue → LaunchQueue) : (s.modQueue q f).msix = s.msix := rfl
@[simp] theorem modQueue_fabric (s : State) (q : Fin 16) (f : LaunchQueue → LaunchQueue) : (s.modQueue q f).fabric = s.fabric := rfl
@[simp] theorem modQueue_collectives (s : State) (q : Fin 16) (f : LaunchQueue → LaunchQueue) : (s.modQueue q f).collectives = s.collectives := rfl
@[simp] theorem modQueue_nodes (s : State) (q : Fin 16) (f : LaunchQueue → LaunchQueue) : (s.modQueue q f).nodes = s.nodes := rfl
@[simp] theorem modQueue_mgmt (s : State) (q : Fin 16) (f : LaunchQueue → LaunchQueue) : (s.modQueue q f).mgmt = s.mgmt := rfl
@[simp] theorem modQueue_mailbox (s : State) (q : Fin 16) (f : LaunchQueue → LaunchQueue) : (s.modQueue q f).mailbox = s.mailbox := rfl
@[simp] theorem modQueue_flash (s : State) (q : Fin 16) (f : LaunchQueue → LaunchQueue) : (s.modQueue q f).flash = s.flash := rfl
@[simp] theorem modQueue_baseClock (s : State) (q : Fin 16) (f : LaunchQueue → LaunchQueue) : (s.modQueue q f).baseClock = s.baseClock := rfl
@[simp] theorem modQueue_agenda (s : State) (q : Fin 16) (f : LaunchQueue → LaunchQueue) : (s.modQueue q f).agenda = s.agenda := rfl
@[simp] theorem modQueue_cur (s : State) (q : Fin 16) (f : LaunchQueue → LaunchQueue) : (s.modQueue q f).cur = s.cur := rfl
@[simp] theorem modQueue_tick (s : State) (q : Fin 16) (f : LaunchQueue → LaunchQueue) : (s.modQueue q f).tick = s.tick := rfl
@[simp] theorem modQueue_slice (s : State) (q : Fin 16) (f : LaunchQueue → LaunchQueue) : (s.modQueue q f).slice = s.slice := rfl
@[simp] theorem modQueue_group (s : State) (q : Fin 16) (f : LaunchQueue → LaunchQueue) : (s.modQueue q f).group = s.group := rfl
@[simp] theorem modQueue_nextAgent (s : State) (q : Fin 16) (f : LaunchQueue → LaunchQueue) : (s.modQueue q f).nextAgent = s.nextAgent := rfl
@[simp] theorem modQueue_vamos (s : State) (q : Fin 16) (f : LaunchQueue → LaunchQueue) : (s.modQueue q f).vamos = s.vamos := rfl
@[simp] theorem modQueue_msixTable (s : State) (q : Fin 16) (f : LaunchQueue → LaunchQueue) : (s.modQueue q f).msixTable = s.msixTable := rfl
@[simp] theorem modQueue_msixPending (s : State) (q : Fin 16) (f : LaunchQueue → LaunchQueue) : (s.modQueue q f).msixPending = s.msixPending := rfl
@[simp] theorem modQueue_roots (s : State) (q : Fin 16) (f : LaunchQueue → LaunchQueue) : (s.modQueue q f).roots = s.roots := rfl

/-! ### modBarrier -/

@[simp] theorem modBarrier_part (s : State) (n : Fin 64) (f : Barrier → Barrier) : (s.modBarrier n f).part = s.part := rfl
@[simp] theorem modBarrier_mem (s : State) (n : Fin 64) (f : Barrier → Barrier) : (s.modBarrier n f).mem = s.mem := rfl
@[simp] theorem modBarrier_badLines (s : State) (n : Fin 64) (f : Barrier → Barrier) : (s.modBarrier n f).badLines = s.badLines := rfl
@[simp] theorem modBarrier_locks (s : State) (n : Fin 64) (f : Barrier → Barrier) : (s.modBarrier n f).locks = s.locks := rfl
@[simp] theorem modBarrier_reservations (s : State) (n : Fin 64) (f : Barrier → Barrier) : (s.modBarrier n f).reservations = s.reservations := rfl
@[simp] theorem modBarrier_harts (s : State) (n : Fin 64) (f : Barrier → Barrier) : (s.modBarrier n f).harts = s.harts := rfl
@[simp] theorem modBarrier_cores (s : State) (n : Fin 64) (f : Barrier → Barrier) : (s.modBarrier n f).cores = s.cores := rfl
@[simp] theorem modBarrier_chiplets (s : State) (n : Fin 64) (f : Barrier → Barrier) : (s.modBarrier n f).chiplets = s.chiplets := rfl
@[simp] theorem modBarrier_apertures (s : State) (n : Fin 64) (f : Barrier → Barrier) : (s.modBarrier n f).apertures = s.apertures := rfl
@[simp] theorem modBarrier_hostOut (s : State) (n : Fin 64) (f : Barrier → Barrier) : (s.modBarrier n f).hostOut = s.hostOut := rfl
@[simp] theorem modBarrier_hostReplies (s : State) (n : Fin 64) (f : Barrier → Barrier) : (s.modBarrier n f).hostReplies = s.hostReplies := rfl
@[simp] theorem modBarrier_msix (s : State) (n : Fin 64) (f : Barrier → Barrier) : (s.modBarrier n f).msix = s.msix := rfl
@[simp] theorem modBarrier_fabric (s : State) (n : Fin 64) (f : Barrier → Barrier) : (s.modBarrier n f).fabric = s.fabric := rfl
@[simp] theorem modBarrier_collectives (s : State) (n : Fin 64) (f : Barrier → Barrier) : (s.modBarrier n f).collectives = s.collectives := rfl
@[simp] theorem modBarrier_nodes (s : State) (n : Fin 64) (f : Barrier → Barrier) : (s.modBarrier n f).nodes = s.nodes := rfl
@[simp] theorem modBarrier_mgmt (s : State) (n : Fin 64) (f : Barrier → Barrier) : (s.modBarrier n f).mgmt = s.mgmt := rfl
@[simp] theorem modBarrier_mailbox (s : State) (n : Fin 64) (f : Barrier → Barrier) : (s.modBarrier n f).mailbox = s.mailbox := rfl
@[simp] theorem modBarrier_flash (s : State) (n : Fin 64) (f : Barrier → Barrier) : (s.modBarrier n f).flash = s.flash := rfl
@[simp] theorem modBarrier_baseClock (s : State) (n : Fin 64) (f : Barrier → Barrier) : (s.modBarrier n f).baseClock = s.baseClock := rfl
@[simp] theorem modBarrier_agenda (s : State) (n : Fin 64) (f : Barrier → Barrier) : (s.modBarrier n f).agenda = s.agenda := rfl
@[simp] theorem modBarrier_cur (s : State) (n : Fin 64) (f : Barrier → Barrier) : (s.modBarrier n f).cur = s.cur := rfl
@[simp] theorem modBarrier_tick (s : State) (n : Fin 64) (f : Barrier → Barrier) : (s.modBarrier n f).tick = s.tick := rfl
@[simp] theorem modBarrier_slice (s : State) (n : Fin 64) (f : Barrier → Barrier) : (s.modBarrier n f).slice = s.slice := rfl
@[simp] theorem modBarrier_group (s : State) (n : Fin 64) (f : Barrier → Barrier) : (s.modBarrier n f).group = s.group := rfl
@[simp] theorem modBarrier_nextAgent (s : State) (n : Fin 64) (f : Barrier → Barrier) : (s.modBarrier n f).nextAgent = s.nextAgent := rfl
@[simp] theorem modBarrier_vamos (s : State) (n : Fin 64) (f : Barrier → Barrier) : (s.modBarrier n f).vamos = s.vamos := rfl
@[simp] theorem modBarrier_msixTable (s : State) (n : Fin 64) (f : Barrier → Barrier) : (s.modBarrier n f).msixTable = s.msixTable := rfl
@[simp] theorem modBarrier_msixPending (s : State) (n : Fin 64) (f : Barrier → Barrier) : (s.modBarrier n f).msixPending = s.msixPending := rfl
@[simp] theorem modBarrier_roots (s : State) (n : Fin 64) (f : Barrier → Barrier) : (s.modBarrier n f).roots = s.roots := rfl

/-! ### modFabric -/

@[simp] theorem modFabric_part (s : State) (f : Fabric → Fabric) : (s.modFabric f).part = s.part := rfl
@[simp] theorem modFabric_mem (s : State) (f : Fabric → Fabric) : (s.modFabric f).mem = s.mem := rfl
@[simp] theorem modFabric_badLines (s : State) (f : Fabric → Fabric) : (s.modFabric f).badLines = s.badLines := rfl
@[simp] theorem modFabric_locks (s : State) (f : Fabric → Fabric) : (s.modFabric f).locks = s.locks := rfl
@[simp] theorem modFabric_reservations (s : State) (f : Fabric → Fabric) : (s.modFabric f).reservations = s.reservations := rfl
@[simp] theorem modFabric_harts (s : State) (f : Fabric → Fabric) : (s.modFabric f).harts = s.harts := rfl
@[simp] theorem modFabric_cores (s : State) (f : Fabric → Fabric) : (s.modFabric f).cores = s.cores := rfl
@[simp] theorem modFabric_chiplets (s : State) (f : Fabric → Fabric) : (s.modFabric f).chiplets = s.chiplets := rfl
@[simp] theorem modFabric_camp (s : State) (f : Fabric → Fabric) : (s.modFabric f).camp = s.camp := rfl
@[simp] theorem modFabric_apertures (s : State) (f : Fabric → Fabric) : (s.modFabric f).apertures = s.apertures := rfl
@[simp] theorem modFabric_hostOut (s : State) (f : Fabric → Fabric) : (s.modFabric f).hostOut = s.hostOut := rfl
@[simp] theorem modFabric_hostReplies (s : State) (f : Fabric → Fabric) : (s.modFabric f).hostReplies = s.hostReplies := rfl
@[simp] theorem modFabric_msix (s : State) (f : Fabric → Fabric) : (s.modFabric f).msix = s.msix := rfl
@[simp] theorem modFabric_collectives (s : State) (f : Fabric → Fabric) : (s.modFabric f).collectives = s.collectives := rfl
@[simp] theorem modFabric_nodes (s : State) (f : Fabric → Fabric) : (s.modFabric f).nodes = s.nodes := rfl
@[simp] theorem modFabric_mgmt (s : State) (f : Fabric → Fabric) : (s.modFabric f).mgmt = s.mgmt := rfl
@[simp] theorem modFabric_mailbox (s : State) (f : Fabric → Fabric) : (s.modFabric f).mailbox = s.mailbox := rfl
@[simp] theorem modFabric_flash (s : State) (f : Fabric → Fabric) : (s.modFabric f).flash = s.flash := rfl
@[simp] theorem modFabric_baseClock (s : State) (f : Fabric → Fabric) : (s.modFabric f).baseClock = s.baseClock := rfl
@[simp] theorem modFabric_agenda (s : State) (f : Fabric → Fabric) : (s.modFabric f).agenda = s.agenda := rfl
@[simp] theorem modFabric_cur (s : State) (f : Fabric → Fabric) : (s.modFabric f).cur = s.cur := rfl
@[simp] theorem modFabric_tick (s : State) (f : Fabric → Fabric) : (s.modFabric f).tick = s.tick := rfl
@[simp] theorem modFabric_slice (s : State) (f : Fabric → Fabric) : (s.modFabric f).slice = s.slice := rfl
@[simp] theorem modFabric_group (s : State) (f : Fabric → Fabric) : (s.modFabric f).group = s.group := rfl
@[simp] theorem modFabric_nextAgent (s : State) (f : Fabric → Fabric) : (s.modFabric f).nextAgent = s.nextAgent := rfl
@[simp] theorem modFabric_vamos (s : State) (f : Fabric → Fabric) : (s.modFabric f).vamos = s.vamos := rfl
@[simp] theorem modFabric_msixTable (s : State) (f : Fabric → Fabric) : (s.modFabric f).msixTable = s.msixTable := rfl
@[simp] theorem modFabric_msixPending (s : State) (f : Fabric → Fabric) : (s.modFabric f).msixPending = s.msixPending := rfl
@[simp] theorem modFabric_roots (s : State) (f : Fabric → Fabric) : (s.modFabric f).roots = s.roots := rfl

/-! ### signal -/

@[simp] theorem signal_part (s : State) (n : Nat) : (s.signal n).part = s.part := by
  unfold State.signal; split <;> rfl
@[simp] theorem signal_mem (s : State) (n : Nat) : (s.signal n).mem = s.mem := by
  unfold State.signal; split <;> rfl
@[simp] theorem signal_badLines (s : State) (n : Nat) : (s.signal n).badLines = s.badLines := by
  unfold State.signal; split <;> rfl
@[simp] theorem signal_locks (s : State) (n : Nat) : (s.signal n).locks = s.locks := by
  unfold State.signal; split <;> rfl
@[simp] theorem signal_reservations (s : State) (n : Nat) : (s.signal n).reservations = s.reservations := by
  unfold State.signal; split <;> rfl
@[simp] theorem signal_harts (s : State) (n : Nat) : (s.signal n).harts = s.harts := by
  unfold State.signal; split <;> rfl
@[simp] theorem signal_cores (s : State) (n : Nat) : (s.signal n).cores = s.cores := by
  unfold State.signal; split <;> rfl
@[simp] theorem signal_chiplets (s : State) (n : Nat) : (s.signal n).chiplets = s.chiplets := by
  unfold State.signal; split <;> rfl
@[simp] theorem signal_camp (s : State) (n : Nat) : (s.signal n).camp = s.camp := by
  unfold State.signal; split <;> rfl
@[simp] theorem signal_apertures (s : State) (n : Nat) : (s.signal n).apertures = s.apertures := by
  unfold State.signal; split <;> rfl
@[simp] theorem signal_hostOut (s : State) (n : Nat) : (s.signal n).hostOut = s.hostOut := by
  unfold State.signal; split <;> rfl
@[simp] theorem signal_hostReplies (s : State) (n : Nat) : (s.signal n).hostReplies = s.hostReplies := by
  unfold State.signal; split <;> rfl
@[simp] theorem signal_fabric (s : State) (n : Nat) : (s.signal n).fabric = s.fabric := by
  unfold State.signal; split <;> rfl
@[simp] theorem signal_collectives (s : State) (n : Nat) : (s.signal n).collectives = s.collectives := by
  unfold State.signal; split <;> rfl
@[simp] theorem signal_nodes (s : State) (n : Nat) : (s.signal n).nodes = s.nodes := by
  unfold State.signal; split <;> rfl
@[simp] theorem signal_mgmt (s : State) (n : Nat) : (s.signal n).mgmt = s.mgmt := by
  unfold State.signal; split <;> rfl
@[simp] theorem signal_mailbox (s : State) (n : Nat) : (s.signal n).mailbox = s.mailbox := by
  unfold State.signal; split <;> rfl
@[simp] theorem signal_flash (s : State) (n : Nat) : (s.signal n).flash = s.flash := by
  unfold State.signal; split <;> rfl
@[simp] theorem signal_baseClock (s : State) (n : Nat) : (s.signal n).baseClock = s.baseClock := by
  unfold State.signal; split <;> rfl
@[simp] theorem signal_agenda (s : State) (n : Nat) : (s.signal n).agenda = s.agenda := by
  unfold State.signal; split <;> rfl
@[simp] theorem signal_cur (s : State) (n : Nat) : (s.signal n).cur = s.cur := by
  unfold State.signal; split <;> rfl
@[simp] theorem signal_tick (s : State) (n : Nat) : (s.signal n).tick = s.tick := by
  unfold State.signal; split <;> rfl
@[simp] theorem signal_slice (s : State) (n : Nat) : (s.signal n).slice = s.slice := by
  unfold State.signal; split <;> rfl
@[simp] theorem signal_group (s : State) (n : Nat) : (s.signal n).group = s.group := by
  unfold State.signal; split <;> rfl
@[simp] theorem signal_nextAgent (s : State) (n : Nat) : (s.signal n).nextAgent = s.nextAgent := by
  unfold State.signal; split <;> rfl
@[simp] theorem signal_vamos (s : State) (n : Nat) : (s.signal n).vamos = s.vamos := by
  unfold State.signal; split <;> rfl
@[simp] theorem signal_msixTable (s : State) (n : Nat) : (s.signal n).msixTable = s.msixTable := by
  unfold State.signal; split <;> rfl
@[simp] theorem signal_roots (s : State) (n : Nat) : (s.signal n).roots = s.roots := by
  unfold State.signal; split <;> rfl

/-! ### step1 -/

@[simp] theorem step1_part (s : State) : (s.step1).part = s.part := rfl
@[simp] theorem step1_mem (s : State) : (s.step1).mem = s.mem := rfl
@[simp] theorem step1_badLines (s : State) : (s.step1).badLines = s.badLines := rfl
@[simp] theorem step1_locks (s : State) : (s.step1).locks = s.locks := rfl
@[simp] theorem step1_reservations (s : State) : (s.step1).reservations = s.reservations := rfl
@[simp] theorem step1_harts (s : State) : (s.step1).harts = s.harts := rfl
@[simp] theorem step1_cores (s : State) : (s.step1).cores = s.cores := rfl
@[simp] theorem step1_chiplets (s : State) : (s.step1).chiplets = s.chiplets := rfl
@[simp] theorem step1_camp (s : State) : (s.step1).camp = s.camp := rfl
@[simp] theorem step1_apertures (s : State) : (s.step1).apertures = s.apertures := rfl
@[simp] theorem step1_hostOut (s : State) : (s.step1).hostOut = s.hostOut := rfl
@[simp] theorem step1_hostReplies (s : State) : (s.step1).hostReplies = s.hostReplies := rfl
@[simp] theorem step1_msix (s : State) : (s.step1).msix = s.msix := rfl
@[simp] theorem step1_fabric (s : State) : (s.step1).fabric = s.fabric := rfl
@[simp] theorem step1_collectives (s : State) : (s.step1).collectives = s.collectives := rfl
@[simp] theorem step1_nodes (s : State) : (s.step1).nodes = s.nodes := rfl
@[simp] theorem step1_mgmt (s : State) : (s.step1).mgmt = s.mgmt := rfl
@[simp] theorem step1_mailbox (s : State) : (s.step1).mailbox = s.mailbox := rfl
@[simp] theorem step1_flash (s : State) : (s.step1).flash = s.flash := rfl
@[simp] theorem step1_baseClock (s : State) : (s.step1).baseClock = s.baseClock := rfl
@[simp] theorem step1_agenda (s : State) : (s.step1).agenda = s.agenda := rfl
@[simp] theorem step1_cur (s : State) : (s.step1).cur = s.cur := rfl
@[simp] theorem step1_slice (s : State) : (s.step1).slice = s.slice := rfl
@[simp] theorem step1_group (s : State) : (s.step1).group = s.group := rfl
@[simp] theorem step1_nextAgent (s : State) : (s.step1).nextAgent = s.nextAgent := rfl
@[simp] theorem step1_vamos (s : State) : (s.step1).vamos = s.vamos := rfl
@[simp] theorem step1_msixTable (s : State) : (s.step1).msixTable = s.msixTable := rfl
@[simp] theorem step1_msixPending (s : State) : (s.step1).msixPending = s.msixPending := rfl
@[simp] theorem step1_roots (s : State) : (s.step1).roots = s.roots := rfl

/-! ### Updates through another -/

theorem modHart_eq (s : State) (h : HartId) (f : Hart → Hart) : s.modHart h f = s.setHart h (f (s.hart h)) := rfl
theorem setMe_eq (s : State) (x : Hart) : s.setMe x = s.setHart s.cur x := rfl
theorem modMe_eq (s : State) (f : Hart → Hart) : s.modMe f = s.setHart s.cur (f s.me) := rfl
theorem modCore_eq (s : State) (c : CoreId) (f : Core → Core) : s.modCore c f = s.setCore c (f (s.core c)) := rfl
theorem modMyCore_eq (s : State) (f : Core → Core) : s.modMyCore f = s.setCore (coreOf s.cur) (f s.myCore) := rfl
theorem me_eq (s : State) : s.me = s.hart s.cur := rfl
theorem myCore_eq (s : State) : s.myCore = s.core (coreOf s.cur) := rfl

/-! ### Harts, cores and chiplets -/

theorem vget_set_same {α : Type} {n : Nat} (v : Vector α n) (i : Fin n) (x : α) : (v.set i.val x i.isLt).get i = x := by
  show (v.set i.val x i.isLt)[i.val] = x
  simp

theorem vget_set_ne {α : Type} {n : Nat} (v : Vector α n) {i j : Fin n} (x : α) (e : j ≠ i) :
    (v.set i.val x i.isLt).get j = v.get j := by
  show (v.set i.val x i.isLt)[j.val] = v[j.val]
  have : i.val ≠ j.val := fun k => e (Fin.ext k.symm)
  simp [this]

@[simp] theorem hart_setHart_same (s : State) (h : HartId) (x : Hart) : (s.setHart h x).hart h = x := by
  exact vget_set_same _ _ _

@[simp] theorem hart_setHart_ne (s : State) {g h : HartId} (x : Hart) (n : g ≠ h) :
    (s.setHart h x).hart g = s.hart g := by
  exact vget_set_ne _ _ n

theorem hart_setHart (s : State) (g h : HartId) (x : Hart) :
    (s.setHart h x).hart g = if g = h then x else s.hart g := by
  split
  · next e => rw [e, hart_setHart_same]
  · next n => exact hart_setHart_ne s x n

@[simp] theorem core_setCore_same (s : State) (c : CoreId) (x : Core) : (s.setCore c x).core c = x := by
  exact vget_set_same _ _ _

@[simp] theorem core_setCore_ne (s : State) {b c : CoreId} (x : Core) (n : b ≠ c) :
    (s.setCore c x).core b = s.core b := by
  exact vget_set_ne _ _ n

theorem core_setCore (s : State) (b c : CoreId) (x : Core) :
    (s.setCore c x).core b = if b = c then x else s.core b := by
  split
  · next e => rw [e, core_setCore_same]
  · next n => exact core_setCore_ne s x n

@[simp] theorem chiplet_modChiplet_same (s : State) (c : ChipletId) (f : Chiplet → Chiplet) :
    (s.modChiplet c f).chiplet c = f (s.chiplet c) := by
  exact vget_set_same _ _ _

@[simp] theorem chiplet_modChiplet_ne (s : State) {b c : ChipletId} (f : Chiplet → Chiplet) (n : b ≠ c) :
    (s.modChiplet c f).chiplet b = s.chiplet b := by
  exact vget_set_ne _ _ n

@[simp] theorem queue_modQueue_same (s : State) (q : Fin 16) (f : LaunchQueue → LaunchQueue) :
    (s.modQueue q f).queue q = f (s.queue q) := by
  exact vget_set_same _ _ _

@[simp] theorem queue_modQueue_ne (s : State) {p q : Fin 16} (f : LaunchQueue → LaunchQueue) (n : p ≠ q) :
    (s.modQueue q f).queue p = s.queue p := by
  exact vget_set_ne _ _ n

/-! ### What an accessor reads -/

theorem hart_congr {s t : State} (e : s.harts = t.harts) (h : HartId) : s.hart h = t.hart h := by
  simp [State.hart, e]
theorem core_congr {s t : State} (e : s.cores = t.cores) (c : CoreId) : s.core c = t.core c := by
  simp [State.core, e]
theorem chiplet_congr {s t : State} (e : s.chiplets = t.chiplets) (c : ChipletId) : s.chiplet c = t.chiplet c := by
  simp [State.chiplet, e]
theorem launch_congr {s t : State} (e : s.camp = t.camp) (l : Nat) : s.launch l = t.launch l := by
  simp [State.launch, e]
theorem queue_congr {s t : State} (e : s.camp = t.camp) (q : Fin 16) : s.queue q = t.queue q := by
  simp [State.queue, e]
theorem region_congr {s t : State} (e : s.part = t.part) (pa : Nat) : s.region pa = t.region pa := by
  simp [State.region, e]

@[simp] theorem core_setHart (s : State) (h : HartId) (x : Hart) (i : CoreId) : (s.setHart h x).core i = s.core i := rfl
@[simp] theorem chiplet_setHart (s : State) (h : HartId) (x : Hart) (i : ChipletId) : (s.setHart h x).chiplet i = s.chiplet i := rfl
@[simp] theorem launch_setHart (s : State) (h : HartId) (x : Hart) (i : Nat) : (s.setHart h x).launch i = s.launch i := rfl
@[simp] theorem queue_setHart (s : State) (h : HartId) (x : Hart) (i : Fin 16) : (s.setHart h x).queue i = s.queue i := rfl
@[simp] theorem region_setHart (s : State) (h : HartId) (x : Hart) (i : Nat) : (s.setHart h x).region i = s.region i := rfl
@[simp] theorem hart_setCore (s : State) (c : CoreId) (x : Core) (i : HartId) : (s.setCore c x).hart i = s.hart i := rfl
@[simp] theorem chiplet_setCore (s : State) (c : CoreId) (x : Core) (i : ChipletId) : (s.setCore c x).chiplet i = s.chiplet i := rfl
@[simp] theorem launch_setCore (s : State) (c : CoreId) (x : Core) (i : Nat) : (s.setCore c x).launch i = s.launch i := rfl
@[simp] theorem queue_setCore (s : State) (c : CoreId) (x : Core) (i : Fin 16) : (s.setCore c x).queue i = s.queue i := rfl
@[simp] theorem region_setCore (s : State) (c : CoreId) (x : Core) (i : Nat) : (s.setCore c x).region i = s.region i := rfl
@[simp] theorem hart_modChiplet (s : State) (c : ChipletId) (f : Chiplet → Chiplet) (i : HartId) : (s.modChiplet c f).hart i = s.hart i := rfl
@[simp] theorem core_modChiplet (s : State) (c : ChipletId) (f : Chiplet → Chiplet) (i : CoreId) : (s.modChiplet c f).core i = s.core i := rfl
@[simp] theorem launch_modChiplet (s : State) (c : ChipletId) (f : Chiplet → Chiplet) (i : Nat) : (s.modChiplet c f).launch i = s.launch i := rfl
@[simp] theorem queue_modChiplet (s : State) (c : ChipletId) (f : Chiplet → Chiplet) (i : Fin 16) : (s.modChiplet c f).queue i = s.queue i := rfl
@[simp] theorem region_modChiplet (s : State) (c : ChipletId) (f : Chiplet → Chiplet) (i : Nat) : (s.modChiplet c f).region i = s.region i := rfl
@[simp] theorem hart_modLaunch (s : State) (l : Nat) (f : Launch → Launch) (i : HartId) : (s.modLaunch l f).hart i = s.hart i := rfl
@[simp] theorem core_modLaunch (s : State) (l : Nat) (f : Launch → Launch) (i : CoreId) : (s.modLaunch l f).core i = s.core i := rfl
@[simp] theorem chiplet_modLaunch (s : State) (l : Nat) (f : Launch → Launch) (i : ChipletId) : (s.modLaunch l f).chiplet i = s.chiplet i := rfl
@[simp] theorem region_modLaunch (s : State) (l : Nat) (f : Launch → Launch) (i : Nat) : (s.modLaunch l f).region i = s.region i := rfl
@[simp] theorem hart_modQueue (s : State) (q : Fin 16) (f : LaunchQueue → LaunchQueue) (i : HartId) : (s.modQueue q f).hart i = s.hart i := rfl
@[simp] theorem core_modQueue (s : State) (q : Fin 16) (f : LaunchQueue → LaunchQueue) (i : CoreId) : (s.modQueue q f).core i = s.core i := rfl
@[simp] theorem chiplet_modQueue (s : State) (q : Fin 16) (f : LaunchQueue → LaunchQueue) (i : ChipletId) : (s.modQueue q f).chiplet i = s.chiplet i := rfl
@[simp] theorem region_modQueue (s : State) (q : Fin 16) (f : LaunchQueue → LaunchQueue) (i : Nat) : (s.modQueue q f).region i = s.region i := rfl
@[simp] theorem hart_modBarrier (s : State) (n : Fin 64) (f : Barrier → Barrier) (i : HartId) : (s.modBarrier n f).hart i = s.hart i := rfl
@[simp] theorem core_modBarrier (s : State) (n : Fin 64) (f : Barrier → Barrier) (i : CoreId) : (s.modBarrier n f).core i = s.core i := rfl
@[simp] theorem chiplet_modBarrier (s : State) (n : Fin 64) (f : Barrier → Barrier) (i : ChipletId) : (s.modBarrier n f).chiplet i = s.chiplet i := rfl
@[simp] theorem region_modBarrier (s : State) (n : Fin 64) (f : Barrier → Barrier) (i : Nat) : (s.modBarrier n f).region i = s.region i := rfl
@[simp] theorem hart_modFabric (s : State) (f : Fabric → Fabric) (i : HartId) : (s.modFabric f).hart i = s.hart i := rfl
@[simp] theorem core_modFabric (s : State) (f : Fabric → Fabric) (i : CoreId) : (s.modFabric f).core i = s.core i := rfl
@[simp] theorem chiplet_modFabric (s : State) (f : Fabric → Fabric) (i : ChipletId) : (s.modFabric f).chiplet i = s.chiplet i := rfl
@[simp] theorem launch_modFabric (s : State) (f : Fabric → Fabric) (i : Nat) : (s.modFabric f).launch i = s.launch i := rfl
@[simp] theorem queue_modFabric (s : State) (f : Fabric → Fabric) (i : Fin 16) : (s.modFabric f).queue i = s.queue i := rfl
@[simp] theorem region_modFabric (s : State) (f : Fabric → Fabric) (i : Nat) : (s.modFabric f).region i = s.region i := rfl
@[simp] theorem hart_signal (s : State) (n : Nat) (i : HartId) : (s.signal n).hart i = s.hart i := by
  unfold State.signal; split <;> rfl
@[simp] theorem core_signal (s : State) (n : Nat) (i : CoreId) : (s.signal n).core i = s.core i := by
  unfold State.signal; split <;> rfl
@[simp] theorem chiplet_signal (s : State) (n : Nat) (i : ChipletId) : (s.signal n).chiplet i = s.chiplet i := by
  unfold State.signal; split <;> rfl
@[simp] theorem launch_signal (s : State) (n : Nat) (i : Nat) : (s.signal n).launch i = s.launch i := by
  unfold State.signal; split <;> rfl
@[simp] theorem queue_signal (s : State) (n : Nat) (i : Fin 16) : (s.signal n).queue i = s.queue i := by
  unfold State.signal; split <;> rfl
@[simp] theorem region_signal (s : State) (n : Nat) (i : Nat) : (s.signal n).region i = s.region i := by
  unfold State.signal; split <;> rfl
@[simp] theorem hart_step1 (s : State)  (i : HartId) : (s.step1 ).hart i = s.hart i := rfl
@[simp] theorem core_step1 (s : State)  (i : CoreId) : (s.step1 ).core i = s.core i := rfl
@[simp] theorem chiplet_step1 (s : State)  (i : ChipletId) : (s.step1 ).chiplet i = s.chiplet i := rfl
@[simp] theorem launch_step1 (s : State)  (i : Nat) : (s.step1 ).launch i = s.launch i := rfl
@[simp] theorem queue_step1 (s : State)  (i : Fin 16) : (s.step1 ).queue i = s.queue i := rfl
@[simp] theorem region_step1 (s : State)  (i : Nat) : (s.step1 ).region i = s.region i := rfl

@[simp] theorem setHart_self (s : State) (h : HartId) : s.setHart h (s.hart h) = s := by
  have e : s.harts.set h.val (s.harts.get h) h.isLt = s.harts := by
    apply Vector.ext
    intro i hi
    by_cases c : h.val = i <;> simp [Vector.get, c]
  simp only [State.setHart, State.hart, e]

@[simp] theorem setHart_setHart (s : State) (h : HartId) (x y : Hart) : (s.setHart h x).setHart h y = s.setHart h y := by
  simp [State.setHart]

@[simp] theorem me_setMe (s : State) (x : Hart) : (s.setMe x).me = x := hart_setHart_same s s.cur x
@[simp] theorem cur_setMe (s : State) (x : Hart) : (s.setMe x).cur = s.cur := rfl
@[simp] theorem mem_setMe (s : State) (x : Hart) : (s.setMe x).mem = s.mem := rfl
@[simp] theorem core_setMe (s : State) (x : Hart) (c : CoreId) : (s.setMe x).core c = s.core c := rfl
@[simp] theorem setMe_setMe (s : State) (x y : Hart) : (s.setMe x).setMe y = s.setMe y := setHart_setHart s s.cur x y
@[simp] theorem setMe_me (s : State) : s.setMe s.me = s := setHart_self s s.cur

end Sys2Proof.Laws
end

