-- ==== Sys2Proof/Laws/Hart.lean ====
section
/-! SUPPORT. One lemma for each field under each update of Hart, what register reads give after a write, and the frames of
completion and of vector writes. -/

namespace Sys2Proof.Laws
open Sys2Proof.Machine

/-! ### putX -/

@[simp] theorem putX_status (h : Hart) (r : Reg) (v : Word) : (h.putX r v).status = h.status := by
 unfold Hart.putX; split <;> rfl
@[simp] theorem putX_launch (h : Hart) (r : Reg) (v : Word) : (h.putX r v).launch = h.launch := by
 unfold Hart.putX; split <;> rfl
@[simp] theorem putX_rank (h : Hart) (r : Reg) (v : Word) : (h.putX r v).rank = h.rank := by
 unfold Hart.putX; split <;> rfl
@[simp] theorem putX_f (h : Hart) (r : Reg) (v : Word) : (h.putX r v).f = h.f := by
 unfold Hart.putX; split <;> rfl
@[simp] theorem putX_pc (h : Hart) (r : Reg) (v : Word) : (h.putX r v).pc = h.pc := by
 unfold Hart.putX; split <;> rfl
@[simp] theorem putX_v (h : Hart) (r : Reg) (v : Word) : (h.putX r v).v = h.v := by
 unfold Hart.putX; split <;> rfl
@[simp] theorem putX_k (h : Hart) (r : Reg) (v : Word) : (h.putX r v).k = h.k := by
 unfold Hart.putX; split <;> rfl
@[simp] theorem putX_q (h : Hart) (r : Reg) (v : Word) : (h.putX r v).q = h.q := by
 unfold Hart.putX; split <;> rfl
@[simp] theorem putX_shadow (h : Hart) (r : Reg) (v : Word) : (h.putX r v).shadow = h.shadow := by
 unfold Hart.putX; split <;> rfl
@[simp] theorem putX_vl (h : Hart) (r : Reg) (v : Word) : (h.putX r v).vl = h.vl := by
 unfold Hart.putX; split <;> rfl
@[simp] theorem putX_vstart (h : Hart) (r : Reg) (v : Word) : (h.putX r v).vstart = h.vstart := by
 unfold Hart.putX; split <;> rfl
@[simp] theorem putX_vtype (h : Hart) (r : Reg) (v : Word) : (h.putX r v).vtype = h.vtype := by
 unfold Hart.putX; split <;> rfl
@[simp] theorem putX_mfmt (h : Hart) (r : Reg) (v : Word) : (h.putX r v).mfmt = h.mfmt := by
 unfold Hart.putX; split <;> rfl
@[simp] theorem putX_avl (h : Hart) (r : Reg) (v : Word) : (h.putX r v).avl = h.avl := by
 unfold Hart.putX; split <;> rfl
@[simp] theorem putX_sidx (h : Hart) (r : Reg) (v : Word) : (h.putX r v).sidx = h.sidx := by
 unfold Hart.putX; split <;> rfl
@[simp] theorem putX_tshape (h : Hart) (r : Reg) (v : Word) : (h.putX r v).tshape = h.tshape := by
 unfold Hart.putX; split <;> rfl
@[simp] theorem putX_zcfg (h : Hart) (r : Reg) (v : Word) : (h.putX r v).zcfg = h.zcfg := by
 unfold Hart.putX; split <;> rfl
@[simp] theorem putX_satCount (h : Hart) (r : Reg) (v : Word) : (h.putX r v).satCount = h.satCount := by
 unfold Hart.putX; split <;> rfl
@[simp] theorem putX_satEvp (h : Hart) (r : Reg) (v : Word) : (h.putX r v).satEvp = h.satEvp := by
 unfold Hart.putX; split <;> rfl
@[simp] theorem putX_satthr (h : Hart) (r : Reg) (v : Word) : (h.putX r v).satthr = h.satthr := by
 unfold Hart.putX; split <;> rfl
@[simp] theorem putX_fflags (h : Hart) (r : Reg) (v : Word) : (h.putX r v).fflags = h.fflags := by
 unfold Hart.putX; split <;> rfl
@[simp] theorem putX_lbeg (h : Hart) (r : Reg) (v : Word) : (h.putX r v).lbeg = h.lbeg := by
 unfold Hart.putX; split <;> rfl
@[simp] theorem putX_lrem (h : Hart) (r : Reg) (v : Word) : (h.putX r v).lrem = h.lrem := by
 unfold Hart.putX; split <;> rfl
@[simp] theorem putX_llen (h : Hart) (r : Reg) (v : Word) : (h.putX r v).llen = h.llen := by
 unfold Hart.putX; split <;> rfl
@[simp] theorem putX_ld (h : Hart) (r : Reg) (v : Word) : (h.putX r v).ld = h.ld := by
 unfold Hart.putX; split <;> rfl
@[simp] theorem putX_alarm (h : Hart) (r : Reg) (v : Word) : (h.putX r v).alarm = h.alarm := by
 unfold Hart.putX; split <;> rfl
@[simp] theorem putX_sr (h : Hart) (r : Reg) (v : Word) : (h.putX r v).sr = h.sr := by
 unfold Hart.putX; split <;> rfl
@[simp] theorem putX_cause (h : Hart) (r : Reg) (v : Word) : (h.putX r v).cause = h.cause := by
 unfold Hart.putX; split <;> rfl
@[simp] theorem putX_epc (h : Hart) (r : Reg) (v : Word) : (h.putX r v).epc = h.epc := by
 unfold Hart.putX; split <;> rfl
@[simp] theorem putX_tval (h : Hart) (r : Reg) (v : Word) : (h.putX r v).tval = h.tval := by
 unfold Hart.putX; split <;> rfl
@[simp] theorem putX_tvec (h : Hart) (r : Reg) (v : Word) : (h.putX r v).tvec = h.tvec := by
 unfold Hart.putX; split <;> rfl
@[simp] theorem putX_asid (h : Hart) (r : Reg) (v : Word) : (h.putX r v).asid = h.asid := by
 unfold Hart.putX; split <;> rfl
@[simp] theorem putX_ptbase (h : Hart) (r : Reg) (v : Word) : (h.putX r v).ptbase = h.ptbase := by
 unfold Hart.putX; split <;> rfl
@[simp] theorem putX_hscratch (h : Hart) (r : Reg) (v : Word) : (h.putX r v).hscratch = h.hscratch := by
 unfold Hart.putX; split <;> rfl
@[simp] theorem putX_pfxst (h : Hart) (r : Reg) (v : Word) : (h.putX r v).pfxst = h.pfxst := by
 unfold Hart.putX; split <;> rfl
@[simp] theorem putX_pfxLive (h : Hart) (r : Reg) (v : Word) : (h.putX r v).pfxLive = h.pfxLive := by
 unfold Hart.putX; split <;> rfl
@[simp] theorem putX_preemptReq (h : Hart) (r : Reg) (v : Word) : (h.putX r v).preemptReq = h.preemptReq := by
 unfold Hart.putX; split <;> rfl
@[simp] theorem putX_hostSig (h : Hart) (r : Reg) (v : Word) : (h.putX r v).hostSig = h.hostSig := by
 unfold Hart.putX; split <;> rfl
@[simp] theorem putX_stopReq (h : Hart) (r : Reg) (v : Word) : (h.putX r v).stopReq = h.stopReq := by
 unfold Hart.putX; split <;> rfl
@[simp] theorem putX_reports (h : Hart) (r : Reg) (v : Word) : (h.putX r v).reports = h.reports := by
 unfold Hart.putX; split <;> rfl
@[simp] theorem putX_remote (h : Hart) (r : Reg) (v : Word) : (h.putX r v).remote = h.remote := by
 unfold Hart.putX; split <;> rfl
@[simp] theorem putX_pins (h : Hart) (r : Reg) (v : Word) : (h.putX r v).pins = h.pins := by
 unfold Hart.putX; split <;> rfl
@[simp] theorem putX_kept (h : Hart) (r : Reg) (v : Word) : (h.putX r v).kept = h.kept := by
 unfold Hart.putX; split <;> rfl
@[simp] theorem putX_held (h : Hart) (r : Reg) (v : Word) : (h.putX r v).held = h.held := by
 unfold Hart.putX; split <;> rfl
@[simp] theorem putX_fenceAt (h : Hart) (r : Reg) (v : Word) : (h.putX r v).fenceAt = h.fenceAt := by
 unfold Hart.putX; split <;> rfl
@[simp] theorem putX_sentAt (h : Hart) (r : Reg) (v : Word) : (h.putX r v).sentAt = h.sentAt := by
 unfold Hart.putX; split <;> rfl
@[simp] theorem putX_marks (h : Hart) (r : Reg) (v : Word) : (h.putX r v).marks = h.marks := by
 unfold Hart.putX; split <;> rfl
@[simp] theorem putX_starve (h : Hart) (r : Reg) (v : Word) : (h.putX r v).starve = h.starve := by
 unfold Hart.putX; split <;> rfl
@[simp] theorem putX_headAt (h : Hart) (r : Reg) (v : Word) : (h.putX r v).headAt = h.headAt := by
 unfold Hart.putX; split <;> rfl

/-! ### putF -/

@[simp] theorem putF_status (h : Hart) (r : Reg) (v : Word) : (h.putF r v).status = h.status := rfl
@[simp] theorem putF_launch (h : Hart) (r : Reg) (v : Word) : (h.putF r v).launch = h.launch := rfl
@[simp] theorem putF_rank (h : Hart) (r : Reg) (v : Word) : (h.putF r v).rank = h.rank := rfl
@[simp] theorem putF_x (h : Hart) (r : Reg) (v : Word) : (h.putF r v).x = h.x := rfl
@[simp] theorem putF_pc (h : Hart) (r : Reg) (v : Word) : (h.putF r v).pc = h.pc := rfl
@[simp] theorem putF_v (h : Hart) (r : Reg) (v : Word) : (h.putF r v).v = h.v := rfl
@[simp] theorem putF_k (h : Hart) (r : Reg) (v : Word) : (h.putF r v).k = h.k := rfl
@[simp] theorem putF_q (h : Hart) (r : Reg) (v : Word) : (h.putF r v).q = h.q := rfl
@[simp] theorem putF_shadow (h : Hart) (r : Reg) (v : Word) : (h.putF r v).shadow = h.shadow := rfl
@[simp] theorem putF_vl (h : Hart) (r : Reg) (v : Word) : (h.putF r v).vl = h.vl := rfl
@[simp] theorem putF_vstart (h : Hart) (r : Reg) (v : Word) : (h.putF r v).vstart = h.vstart := rfl
@[simp] theorem putF_vtype (h : Hart) (r : Reg) (v : Word) : (h.putF r v).vtype = h.vtype := rfl
@[simp] theorem putF_mfmt (h : Hart) (r : Reg) (v : Word) : (h.putF r v).mfmt = h.mfmt := rfl
@[simp] theorem putF_avl (h : Hart) (r : Reg) (v : Word) : (h.putF r v).avl = h.avl := rfl
@[simp] theorem putF_sidx (h : Hart) (r : Reg) (v : Word) : (h.putF r v).sidx = h.sidx := rfl
@[simp] theorem putF_tshape (h : Hart) (r : Reg) (v : Word) : (h.putF r v).tshape = h.tshape := rfl
@[simp] theorem putF_zcfg (h : Hart) (r : Reg) (v : Word) : (h.putF r v).zcfg = h.zcfg := rfl
@[simp] theorem putF_satCount (h : Hart) (r : Reg) (v : Word) : (h.putF r v).satCount = h.satCount := rfl
@[simp] theorem putF_satEvp (h : Hart) (r : Reg) (v : Word) : (h.putF r v).satEvp = h.satEvp := rfl
@[simp] theorem putF_satthr (h : Hart) (r : Reg) (v : Word) : (h.putF r v).satthr = h.satthr := rfl
@[simp] theorem putF_fflags (h : Hart) (r : Reg) (v : Word) : (h.putF r v).fflags = h.fflags := rfl
@[simp] theorem putF_lbeg (h : Hart) (r : Reg) (v : Word) : (h.putF r v).lbeg = h.lbeg := rfl
@[simp] theorem putF_lrem (h : Hart) (r : Reg) (v : Word) : (h.putF r v).lrem = h.lrem := rfl
@[simp] theorem putF_llen (h : Hart) (r : Reg) (v : Word) : (h.putF r v).llen = h.llen := rfl
@[simp] theorem putF_ld (h : Hart) (r : Reg) (v : Word) : (h.putF r v).ld = h.ld := rfl
@[simp] theorem putF_alarm (h : Hart) (r : Reg) (v : Word) : (h.putF r v).alarm = h.alarm := rfl
@[simp] theorem putF_sr (h : Hart) (r : Reg) (v : Word) : (h.putF r v).sr = h.sr := rfl
@[simp] theorem putF_cause (h : Hart) (r : Reg) (v : Word) : (h.putF r v).cause = h.cause := rfl
@[simp] theorem putF_epc (h : Hart) (r : Reg) (v : Word) : (h.putF r v).epc = h.epc := rfl
@[simp] theorem putF_tval (h : Hart) (r : Reg) (v : Word) : (h.putF r v).tval = h.tval := rfl
@[simp] theorem putF_tvec (h : Hart) (r : Reg) (v : Word) : (h.putF r v).tvec = h.tvec := rfl
@[simp] theorem putF_asid (h : Hart) (r : Reg) (v : Word) : (h.putF r v).asid = h.asid := rfl
@[simp] theorem putF_ptbase (h : Hart) (r : Reg) (v : Word) : (h.putF r v).ptbase = h.ptbase := rfl
@[simp] theorem putF_hscratch (h : Hart) (r : Reg) (v : Word) : (h.putF r v).hscratch = h.hscratch := rfl
@[simp] theorem putF_pfxst (h : Hart) (r : Reg) (v : Word) : (h.putF r v).pfxst = h.pfxst := rfl
@[simp] theorem putF_pfxLive (h : Hart) (r : Reg) (v : Word) : (h.putF r v).pfxLive = h.pfxLive := rfl
@[simp] theorem putF_preemptReq (h : Hart) (r : Reg) (v : Word) : (h.putF r v).preemptReq = h.preemptReq := rfl
@[simp] theorem putF_hostSig (h : Hart) (r : Reg) (v : Word) : (h.putF r v).hostSig = h.hostSig := rfl
@[simp] theorem putF_stopReq (h : Hart) (r : Reg) (v : Word) : (h.putF r v).stopReq = h.stopReq := rfl
@[simp] theorem putF_reports (h : Hart) (r : Reg) (v : Word) : (h.putF r v).reports = h.reports := rfl
@[simp] theorem putF_remote (h : Hart) (r : Reg) (v : Word) : (h.putF r v).remote = h.remote := rfl
@[simp] theorem putF_pins (h : Hart) (r : Reg) (v : Word) : (h.putF r v).pins = h.pins := rfl
@[simp] theorem putF_kept (h : Hart) (r : Reg) (v : Word) : (h.putF r v).kept = h.kept := rfl
@[simp] theorem putF_held (h : Hart) (r : Reg) (v : Word) : (h.putF r v).held = h.held := rfl
@[simp] theorem putF_fenceAt (h : Hart) (r : Reg) (v : Word) : (h.putF r v).fenceAt = h.fenceAt := rfl
@[simp] theorem putF_sentAt (h : Hart) (r : Reg) (v : Word) : (h.putF r v).sentAt = h.sentAt := rfl
@[simp] theorem putF_marks (h : Hart) (r : Reg) (v : Word) : (h.putF r v).marks = h.marks := rfl
@[simp] theorem putF_starve (h : Hart) (r : Reg) (v : Word) : (h.putF r v).starve = h.starve := rfl
@[simp] theorem putF_headAt (h : Hart) (r : Reg) (v : Word) : (h.putF r v).headAt = h.headAt := rfl

/-! ### putV -/

@[simp] theorem putV_status (h : Hart) (r : Reg) (v : VReg) : (h.putV r v).status = h.status := rfl
@[simp] theorem putV_launch (h : Hart) (r : Reg) (v : VReg) : (h.putV r v).launch = h.launch := rfl
@[simp] theorem putV_rank (h : Hart) (r : Reg) (v : VReg) : (h.putV r v).rank = h.rank := rfl
@[simp] theorem putV_x (h : Hart) (r : Reg) (v : VReg) : (h.putV r v).x = h.x := rfl
@[simp] theorem putV_f (h : Hart) (r : Reg) (v : VReg) : (h.putV r v).f = h.f := rfl
@[simp] theorem putV_pc (h : Hart) (r : Reg) (v : VReg) : (h.putV r v).pc = h.pc := rfl
@[simp] theorem putV_k (h : Hart) (r : Reg) (v : VReg) : (h.putV r v).k = h.k := rfl
@[simp] theorem putV_q (h : Hart) (r : Reg) (v : VReg) : (h.putV r v).q = h.q := rfl
@[simp] theorem putV_shadow (h : Hart) (r : Reg) (v : VReg) : (h.putV r v).shadow = h.shadow := rfl
@[simp] theorem putV_vl (h : Hart) (r : Reg) (v : VReg) : (h.putV r v).vl = h.vl := rfl
@[simp] theorem putV_vstart (h : Hart) (r : Reg) (v : VReg) : (h.putV r v).vstart = h.vstart := rfl
@[simp] theorem putV_vtype (h : Hart) (r : Reg) (v : VReg) : (h.putV r v).vtype = h.vtype := rfl
@[simp] theorem putV_mfmt (h : Hart) (r : Reg) (v : VReg) : (h.putV r v).mfmt = h.mfmt := rfl
@[simp] theorem putV_avl (h : Hart) (r : Reg) (v : VReg) : (h.putV r v).avl = h.avl := rfl
@[simp] theorem putV_sidx (h : Hart) (r : Reg) (v : VReg) : (h.putV r v).sidx = h.sidx := rfl
@[simp] theorem putV_tshape (h : Hart) (r : Reg) (v : VReg) : (h.putV r v).tshape = h.tshape := rfl
@[simp] theorem putV_zcfg (h : Hart) (r : Reg) (v : VReg) : (h.putV r v).zcfg = h.zcfg := rfl
@[simp] theorem putV_satCount (h : Hart) (r : Reg) (v : VReg) : (h.putV r v).satCount = h.satCount := rfl
@[simp] theorem putV_satEvp (h : Hart) (r : Reg) (v : VReg) : (h.putV r v).satEvp = h.satEvp := rfl
@[simp] theorem putV_satthr (h : Hart) (r : Reg) (v : VReg) : (h.putV r v).satthr = h.satthr := rfl
@[simp] theorem putV_fflags (h : Hart) (r : Reg) (v : VReg) : (h.putV r v).fflags = h.fflags := rfl
@[simp] theorem putV_lbeg (h : Hart) (r : Reg) (v : VReg) : (h.putV r v).lbeg = h.lbeg := rfl
@[simp] theorem putV_lrem (h : Hart) (r : Reg) (v : VReg) : (h.putV r v).lrem = h.lrem := rfl
@[simp] theorem putV_llen (h : Hart) (r : Reg) (v : VReg) : (h.putV r v).llen = h.llen := rfl
@[simp] theorem putV_ld (h : Hart) (r : Reg) (v : VReg) : (h.putV r v).ld = h.ld := rfl
@[simp] theorem putV_alarm (h : Hart) (r : Reg) (v : VReg) : (h.putV r v).alarm = h.alarm := rfl
@[simp] theorem putV_sr (h : Hart) (r : Reg) (v : VReg) : (h.putV r v).sr = h.sr := rfl
@[simp] theorem putV_cause (h : Hart) (r : Reg) (v : VReg) : (h.putV r v).cause = h.cause := rfl
@[simp] theorem putV_epc (h : Hart) (r : Reg) (v : VReg) : (h.putV r v).epc = h.epc := rfl
@[simp] theorem putV_tval (h : Hart) (r : Reg) (v : VReg) : (h.putV r v).tval = h.tval := rfl
@[simp] theorem putV_tvec (h : Hart) (r : Reg) (v : VReg) : (h.putV r v).tvec = h.tvec := rfl
@[simp] theorem putV_asid (h : Hart) (r : Reg) (v : VReg) : (h.putV r v).asid = h.asid := rfl
@[simp] theorem putV_ptbase (h : Hart) (r : Reg) (v : VReg) : (h.putV r v).ptbase = h.ptbase := rfl
@[simp] theorem putV_hscratch (h : Hart) (r : Reg) (v : VReg) : (h.putV r v).hscratch = h.hscratch := rfl
@[simp] theorem putV_pfxst (h : Hart) (r : Reg) (v : VReg) : (h.putV r v).pfxst = h.pfxst := rfl
@[simp] theorem putV_pfxLive (h : Hart) (r : Reg) (v : VReg) : (h.putV r v).pfxLive = h.pfxLive := rfl
@[simp] theorem putV_preemptReq (h : Hart) (r : Reg) (v : VReg) : (h.putV r v).preemptReq = h.preemptReq := rfl
@[simp] theorem putV_hostSig (h : Hart) (r : Reg) (v : VReg) : (h.putV r v).hostSig = h.hostSig := rfl
@[simp] theorem putV_stopReq (h : Hart) (r : Reg) (v : VReg) : (h.putV r v).stopReq = h.stopReq := rfl
@[simp] theorem putV_reports (h : Hart) (r : Reg) (v : VReg) : (h.putV r v).reports = h.reports := rfl
@[simp] theorem putV_remote (h : Hart) (r : Reg) (v : VReg) : (h.putV r v).remote = h.remote := rfl
@[simp] theorem putV_pins (h : Hart) (r : Reg) (v : VReg) : (h.putV r v).pins = h.pins := rfl
@[simp] theorem putV_kept (h : Hart) (r : Reg) (v : VReg) : (h.putV r v).kept = h.kept := rfl
@[simp] theorem putV_held (h : Hart) (r : Reg) (v : VReg) : (h.putV r v).held = h.held := rfl
@[simp] theorem putV_fenceAt (h : Hart) (r : Reg) (v : VReg) : (h.putV r v).fenceAt = h.fenceAt := rfl
@[simp] theorem putV_sentAt (h : Hart) (r : Reg) (v : VReg) : (h.putV r v).sentAt = h.sentAt := rfl
@[simp] theorem putV_marks (h : Hart) (r : Reg) (v : VReg) : (h.putV r v).marks = h.marks := rfl
@[simp] theorem putV_starve (h : Hart) (r : Reg) (v : VReg) : (h.putV r v).starve = h.starve := rfl
@[simp] theorem putV_headAt (h : Hart) (r : Reg) (v : VReg) : (h.putV r v).headAt = h.headAt := rfl

/-! ### putK -/

@[simp] theorem putK_status (h : Hart) (r : KReg) (v : Plane) : (h.putK r v).status = h.status := rfl
@[simp] theorem putK_launch (h : Hart) (r : KReg) (v : Plane) : (h.putK r v).launch = h.launch := rfl
@[simp] theorem putK_rank (h : Hart) (r : KReg) (v : Plane) : (h.putK r v).rank = h.rank := rfl
@[simp] theorem putK_x (h : Hart) (r : KReg) (v : Plane) : (h.putK r v).x = h.x := rfl
@[simp] theorem putK_f (h : Hart) (r : KReg) (v : Plane) : (h.putK r v).f = h.f := rfl
@[simp] theorem putK_pc (h : Hart) (r : KReg) (v : Plane) : (h.putK r v).pc = h.pc := rfl
@[simp] theorem putK_v (h : Hart) (r : KReg) (v : Plane) : (h.putK r v).v = h.v := rfl
@[simp] theorem putK_q (h : Hart) (r : KReg) (v : Plane) : (h.putK r v).q = h.q := rfl
@[simp] theorem putK_shadow (h : Hart) (r : KReg) (v : Plane) : (h.putK r v).shadow = h.shadow := rfl
@[simp] theorem putK_vl (h : Hart) (r : KReg) (v : Plane) : (h.putK r v).vl = h.vl := rfl
@[simp] theorem putK_vstart (h : Hart) (r : KReg) (v : Plane) : (h.putK r v).vstart = h.vstart := rfl
@[simp] theorem putK_vtype (h : Hart) (r : KReg) (v : Plane) : (h.putK r v).vtype = h.vtype := rfl
@[simp] theorem putK_mfmt (h : Hart) (r : KReg) (v : Plane) : (h.putK r v).mfmt = h.mfmt := rfl
@[simp] theorem putK_avl (h : Hart) (r : KReg) (v : Plane) : (h.putK r v).avl = h.avl := rfl
@[simp] theorem putK_sidx (h : Hart) (r : KReg) (v : Plane) : (h.putK r v).sidx = h.sidx := rfl
@[simp] theorem putK_tshape (h : Hart) (r : KReg) (v : Plane) : (h.putK r v).tshape = h.tshape := rfl
@[simp] theorem putK_zcfg (h : Hart) (r : KReg) (v : Plane) : (h.putK r v).zcfg = h.zcfg := rfl
@[simp] theorem putK_satCount (h : Hart) (r : KReg) (v : Plane) : (h.putK r v).satCount = h.satCount := rfl
@[simp] theorem putK_satEvp (h : Hart) (r : KReg) (v : Plane) : (h.putK r v).satEvp = h.satEvp := rfl
@[simp] theorem putK_satthr (h : Hart) (r : KReg) (v : Plane) : (h.putK r v).satthr = h.satthr := rfl
@[simp] theorem putK_fflags (h : Hart) (r : KReg) (v : Plane) : (h.putK r v).fflags = h.fflags := rfl
@[simp] theorem putK_lbeg (h : Hart) (r : KReg) (v : Plane) : (h.putK r v).lbeg = h.lbeg := rfl
@[simp] theorem putK_lrem (h : Hart) (r : KReg) (v : Plane) : (h.putK r v).lrem = h.lrem := rfl
@[simp] theorem putK_llen (h : Hart) (r : KReg) (v : Plane) : (h.putK r v).llen = h.llen := rfl
@[simp] theorem putK_ld (h : Hart) (r : KReg) (v : Plane) : (h.putK r v).ld = h.ld := rfl
@[simp] theorem putK_alarm (h : Hart) (r : KReg) (v : Plane) : (h.putK r v).alarm = h.alarm := rfl
@[simp] theorem putK_sr (h : Hart) (r : KReg) (v : Plane) : (h.putK r v).sr = h.sr := rfl
@[simp] theorem putK_cause (h : Hart) (r : KReg) (v : Plane) : (h.putK r v).cause = h.cause := rfl
@[simp] theorem putK_epc (h : Hart) (r : KReg) (v : Plane) : (h.putK r v).epc = h.epc := rfl
@[simp] theorem putK_tval (h : Hart) (r : KReg) (v : Plane) : (h.putK r v).tval = h.tval := rfl
@[simp] theorem putK_tvec (h : Hart) (r : KReg) (v : Plane) : (h.putK r v).tvec = h.tvec := rfl
@[simp] theorem putK_asid (h : Hart) (r : KReg) (v : Plane) : (h.putK r v).asid = h.asid := rfl
@[simp] theorem putK_ptbase (h : Hart) (r : KReg) (v : Plane) : (h.putK r v).ptbase = h.ptbase := rfl
@[simp] theorem putK_hscratch (h : Hart) (r : KReg) (v : Plane) : (h.putK r v).hscratch = h.hscratch := rfl
@[simp] theorem putK_pfxst (h : Hart) (r : KReg) (v : Plane) : (h.putK r v).pfxst = h.pfxst := rfl
@[simp] theorem putK_pfxLive (h : Hart) (r : KReg) (v : Plane) : (h.putK r v).pfxLive = h.pfxLive := rfl
@[simp] theorem putK_preemptReq (h : Hart) (r : KReg) (v : Plane) : (h.putK r v).preemptReq = h.preemptReq := rfl
@[simp] theorem putK_hostSig (h : Hart) (r : KReg) (v : Plane) : (h.putK r v).hostSig = h.hostSig := rfl
@[simp] theorem putK_stopReq (h : Hart) (r : KReg) (v : Plane) : (h.putK r v).stopReq = h.stopReq := rfl
@[simp] theorem putK_reports (h : Hart) (r : KReg) (v : Plane) : (h.putK r v).reports = h.reports := rfl
@[simp] theorem putK_remote (h : Hart) (r : KReg) (v : Plane) : (h.putK r v).remote = h.remote := rfl
@[simp] theorem putK_pins (h : Hart) (r : KReg) (v : Plane) : (h.putK r v).pins = h.pins := rfl
@[simp] theorem putK_kept (h : Hart) (r : KReg) (v : Plane) : (h.putK r v).kept = h.kept := rfl
@[simp] theorem putK_held (h : Hart) (r : KReg) (v : Plane) : (h.putK r v).held = h.held := rfl
@[simp] theorem putK_fenceAt (h : Hart) (r : KReg) (v : Plane) : (h.putK r v).fenceAt = h.fenceAt := rfl
@[simp] theorem putK_sentAt (h : Hart) (r : KReg) (v : Plane) : (h.putK r v).sentAt = h.sentAt := rfl
@[simp] theorem putK_marks (h : Hart) (r : KReg) (v : Plane) : (h.putK r v).marks = h.marks := rfl
@[simp] theorem putK_starve (h : Hart) (r : KReg) (v : Plane) : (h.putK r v).starve = h.starve := rfl
@[simp] theorem putK_headAt (h : Hart) (r : KReg) (v : Plane) : (h.putK r v).headAt = h.headAt := rfl

/-! ### putQ -/

@[simp] theorem putQ_status (h : Hart) (r : Reg) (v : QReg) : (h.putQ r v).status = h.status := rfl
@[simp] theorem putQ_launch (h : Hart) (r : Reg) (v : QReg) : (h.putQ r v).launch = h.launch := rfl
@[simp] theorem putQ_rank (h : Hart) (r : Reg) (v : QReg) : (h.putQ r v).rank = h.rank := rfl
@[simp] theorem putQ_x (h : Hart) (r : Reg) (v : QReg) : (h.putQ r v).x = h.x := rfl
@[simp] theorem putQ_f (h : Hart) (r : Reg) (v : QReg) : (h.putQ r v).f = h.f := rfl
@[simp] theorem putQ_pc (h : Hart) (r : Reg) (v : QReg) : (h.putQ r v).pc = h.pc := rfl
@[simp] theorem putQ_v (h : Hart) (r : Reg) (v : QReg) : (h.putQ r v).v = h.v := rfl
@[simp] theorem putQ_k (h : Hart) (r : Reg) (v : QReg) : (h.putQ r v).k = h.k := rfl
@[simp] theorem putQ_shadow (h : Hart) (r : Reg) (v : QReg) : (h.putQ r v).shadow = h.shadow := rfl
@[simp] theorem putQ_vl (h : Hart) (r : Reg) (v : QReg) : (h.putQ r v).vl = h.vl := rfl
@[simp] theorem putQ_vstart (h : Hart) (r : Reg) (v : QReg) : (h.putQ r v).vstart = h.vstart := rfl
@[simp] theorem putQ_vtype (h : Hart) (r : Reg) (v : QReg) : (h.putQ r v).vtype = h.vtype := rfl
@[simp] theorem putQ_mfmt (h : Hart) (r : Reg) (v : QReg) : (h.putQ r v).mfmt = h.mfmt := rfl
@[simp] theorem putQ_avl (h : Hart) (r : Reg) (v : QReg) : (h.putQ r v).avl = h.avl := rfl
@[simp] theorem putQ_sidx (h : Hart) (r : Reg) (v : QReg) : (h.putQ r v).sidx = h.sidx := rfl
@[simp] theorem putQ_tshape (h : Hart) (r : Reg) (v : QReg) : (h.putQ r v).tshape = h.tshape := rfl
@[simp] theorem putQ_zcfg (h : Hart) (r : Reg) (v : QReg) : (h.putQ r v).zcfg = h.zcfg := rfl
@[simp] theorem putQ_satCount (h : Hart) (r : Reg) (v : QReg) : (h.putQ r v).satCount = h.satCount := rfl
@[simp] theorem putQ_satEvp (h : Hart) (r : Reg) (v : QReg) : (h.putQ r v).satEvp = h.satEvp := rfl
@[simp] theorem putQ_satthr (h : Hart) (r : Reg) (v : QReg) : (h.putQ r v).satthr = h.satthr := rfl
@[simp] theorem putQ_fflags (h : Hart) (r : Reg) (v : QReg) : (h.putQ r v).fflags = h.fflags := rfl
@[simp] theorem putQ_lbeg (h : Hart) (r : Reg) (v : QReg) : (h.putQ r v).lbeg = h.lbeg := rfl
@[simp] theorem putQ_lrem (h : Hart) (r : Reg) (v : QReg) : (h.putQ r v).lrem = h.lrem := rfl
@[simp] theorem putQ_llen (h : Hart) (r : Reg) (v : QReg) : (h.putQ r v).llen = h.llen := rfl
@[simp] theorem putQ_ld (h : Hart) (r : Reg) (v : QReg) : (h.putQ r v).ld = h.ld := rfl
@[simp] theorem putQ_alarm (h : Hart) (r : Reg) (v : QReg) : (h.putQ r v).alarm = h.alarm := rfl
@[simp] theorem putQ_sr (h : Hart) (r : Reg) (v : QReg) : (h.putQ r v).sr = h.sr := rfl
@[simp] theorem putQ_cause (h : Hart) (r : Reg) (v : QReg) : (h.putQ r v).cause = h.cause := rfl
@[simp] theorem putQ_epc (h : Hart) (r : Reg) (v : QReg) : (h.putQ r v).epc = h.epc := rfl
@[simp] theorem putQ_tval (h : Hart) (r : Reg) (v : QReg) : (h.putQ r v).tval = h.tval := rfl
@[simp] theorem putQ_tvec (h : Hart) (r : Reg) (v : QReg) : (h.putQ r v).tvec = h.tvec := rfl
@[simp] theorem putQ_asid (h : Hart) (r : Reg) (v : QReg) : (h.putQ r v).asid = h.asid := rfl
@[simp] theorem putQ_ptbase (h : Hart) (r : Reg) (v : QReg) : (h.putQ r v).ptbase = h.ptbase := rfl
@[simp] theorem putQ_hscratch (h : Hart) (r : Reg) (v : QReg) : (h.putQ r v).hscratch = h.hscratch := rfl
@[simp] theorem putQ_pfxst (h : Hart) (r : Reg) (v : QReg) : (h.putQ r v).pfxst = h.pfxst := rfl
@[simp] theorem putQ_pfxLive (h : Hart) (r : Reg) (v : QReg) : (h.putQ r v).pfxLive = h.pfxLive := rfl
@[simp] theorem putQ_preemptReq (h : Hart) (r : Reg) (v : QReg) : (h.putQ r v).preemptReq = h.preemptReq := rfl
@[simp] theorem putQ_hostSig (h : Hart) (r : Reg) (v : QReg) : (h.putQ r v).hostSig = h.hostSig := rfl
@[simp] theorem putQ_stopReq (h : Hart) (r : Reg) (v : QReg) : (h.putQ r v).stopReq = h.stopReq := rfl
@[simp] theorem putQ_reports (h : Hart) (r : Reg) (v : QReg) : (h.putQ r v).reports = h.reports := rfl
@[simp] theorem putQ_remote (h : Hart) (r : Reg) (v : QReg) : (h.putQ r v).remote = h.remote := rfl
@[simp] theorem putQ_pins (h : Hart) (r : Reg) (v : QReg) : (h.putQ r v).pins = h.pins := rfl
@[simp] theorem putQ_kept (h : Hart) (r : Reg) (v : QReg) : (h.putQ r v).kept = h.kept := rfl
@[simp] theorem putQ_held (h : Hart) (r : Reg) (v : QReg) : (h.putQ r v).held = h.held := rfl
@[simp] theorem putQ_fenceAt (h : Hart) (r : Reg) (v : QReg) : (h.putQ r v).fenceAt = h.fenceAt := rfl
@[simp] theorem putQ_sentAt (h : Hart) (r : Reg) (v : QReg) : (h.putQ r v).sentAt = h.sentAt := rfl
@[simp] theorem putQ_marks (h : Hart) (r : Reg) (v : QReg) : (h.putQ r v).marks = h.marks := rfl
@[simp] theorem putQ_starve (h : Hart) (r : Reg) (v : QReg) : (h.putQ r v).starve = h.starve := rfl
@[simp] theorem putQ_headAt (h : Hart) (r : Reg) (v : QReg) : (h.putQ r v).headAt = h.headAt := rfl

/-! ### setX -/

@[simp] theorem setX_status (h : Hart) (r : Reg) (v : Word) : (h.setX r v).status = h.status := by
 unfold Hart.setX; split <;> simp
@[simp] theorem setX_launch (h : Hart) (r : Reg) (v : Word) : (h.setX r v).launch = h.launch := by
 unfold Hart.setX; split <;> simp
@[simp] theorem setX_rank (h : Hart) (r : Reg) (v : Word) : (h.setX r v).rank = h.rank := by
 unfold Hart.setX; split <;> simp
@[simp] theorem setX_f (h : Hart) (r : Reg) (v : Word) : (h.setX r v).f = h.f := by
 unfold Hart.setX; split <;> simp
@[simp] theorem setX_pc (h : Hart) (r : Reg) (v : Word) : (h.setX r v).pc = h.pc := by
 unfold Hart.setX; split <;> simp
@[simp] theorem setX_v (h : Hart) (r : Reg) (v : Word) : (h.setX r v).v = h.v := by
 unfold Hart.setX; split <;> simp
@[simp] theorem setX_k (h : Hart) (r : Reg) (v : Word) : (h.setX r v).k = h.k := by
 unfold Hart.setX; split <;> simp
@[simp] theorem setX_q (h : Hart) (r : Reg) (v : Word) : (h.setX r v).q = h.q := by
 unfold Hart.setX; split <;> simp
@[simp] theorem setX_shadow (h : Hart) (r : Reg) (v : Word) : (h.setX r v).shadow = h.shadow := by
 unfold Hart.setX; split <;> simp
@[simp] theorem setX_vl (h : Hart) (r : Reg) (v : Word) : (h.setX r v).vl = h.vl := by
 unfold Hart.setX; split <;> simp
@[simp] theorem setX_vstart (h : Hart) (r : Reg) (v : Word) : (h.setX r v).vstart = h.vstart := by
 unfold Hart.setX; split <;> simp
@[simp] theorem setX_vtype (h : Hart) (r : Reg) (v : Word) : (h.setX r v).vtype = h.vtype := by
 unfold Hart.setX; split <;> simp
@[simp] theorem setX_mfmt (h : Hart) (r : Reg) (v : Word) : (h.setX r v).mfmt = h.mfmt := by
 unfold Hart.setX; split <;> simp
@[simp] theorem setX_avl (h : Hart) (r : Reg) (v : Word) : (h.setX r v).avl = h.avl := by
 unfold Hart.setX; split <;> simp
@[simp] theorem setX_sidx (h : Hart) (r : Reg) (v : Word) : (h.setX r v).sidx = h.sidx := by
 unfold Hart.setX; split <;> simp
@[simp] theorem setX_tshape (h : Hart) (r : Reg) (v : Word) : (h.setX r v).tshape = h.tshape := by
 unfold Hart.setX; split <;> simp
@[simp] theorem setX_zcfg (h : Hart) (r : Reg) (v : Word) : (h.setX r v).zcfg = h.zcfg := by
 unfold Hart.setX; split <;> simp
@[simp] theorem setX_satCount (h : Hart) (r : Reg) (v : Word) : (h.setX r v).satCount = h.satCount := by
 unfold Hart.setX; split <;> simp
@[simp] theorem setX_satEvp (h : Hart) (r : Reg) (v : Word) : (h.setX r v).satEvp = h.satEvp := by
 unfold Hart.setX; split <;> simp
@[simp] theorem setX_satthr (h : Hart) (r : Reg) (v : Word) : (h.setX r v).satthr = h.satthr := by
 unfold Hart.setX; split <;> simp
@[simp] theorem setX_fflags (h : Hart) (r : Reg) (v : Word) : (h.setX r v).fflags = h.fflags := by
 unfold Hart.setX; split <;> simp
@[simp] theorem setX_lbeg (h : Hart) (r : Reg) (v : Word) : (h.setX r v).lbeg = h.lbeg := by
 unfold Hart.setX; split <;> simp
@[simp] theorem setX_lrem (h : Hart) (r : Reg) (v : Word) : (h.setX r v).lrem = h.lrem := by
 unfold Hart.setX; split <;> simp
@[simp] theorem setX_llen (h : Hart) (r : Reg) (v : Word) : (h.setX r v).llen = h.llen := by
 unfold Hart.setX; split <;> simp
@[simp] theorem setX_ld (h : Hart) (r : Reg) (v : Word) : (h.setX r v).ld = h.ld := by
 unfold Hart.setX; split <;> simp
@[simp] theorem setX_alarm (h : Hart) (r : Reg) (v : Word) : (h.setX r v).alarm = h.alarm := by
 unfold Hart.setX; split <;> simp
@[simp] theorem setX_sr (h : Hart) (r : Reg) (v : Word) : (h.setX r v).sr = h.sr := by
 unfold Hart.setX; split <;> simp
@[simp] theorem setX_cause (h : Hart) (r : Reg) (v : Word) : (h.setX r v).cause = h.cause := by
 unfold Hart.setX; split <;> simp
@[simp] theorem setX_epc (h : Hart) (r : Reg) (v : Word) : (h.setX r v).epc = h.epc := by
 unfold Hart.setX; split <;> simp
@[simp] theorem setX_tval (h : Hart) (r : Reg) (v : Word) : (h.setX r v).tval = h.tval := by
 unfold Hart.setX; split <;> simp
@[simp] theorem setX_tvec (h : Hart) (r : Reg) (v : Word) : (h.setX r v).tvec = h.tvec := by
 unfold Hart.setX; split <;> simp
@[simp] theorem setX_asid (h : Hart) (r : Reg) (v : Word) : (h.setX r v).asid = h.asid := by
 unfold Hart.setX; split <;> simp
@[simp] theorem setX_ptbase (h : Hart) (r : Reg) (v : Word) : (h.setX r v).ptbase = h.ptbase := by
 unfold Hart.setX; split <;> simp
@[simp] theorem setX_hscratch (h : Hart) (r : Reg) (v : Word) : (h.setX r v).hscratch = h.hscratch := by
 unfold Hart.setX; split <;> simp
@[simp] theorem setX_pfxst (h : Hart) (r : Reg) (v : Word) : (h.setX r v).pfxst = h.pfxst := by
 unfold Hart.setX; split <;> simp
@[simp] theorem setX_pfxLive (h : Hart) (r : Reg) (v : Word) : (h.setX r v).pfxLive = h.pfxLive := by
 unfold Hart.setX; split <;> simp
@[simp] theorem setX_preemptReq (h : Hart) (r : Reg) (v : Word) : (h.setX r v).preemptReq = h.preemptReq := by
 unfold Hart.setX; split <;> simp
@[simp] theorem setX_hostSig (h : Hart) (r : Reg) (v : Word) : (h.setX r v).hostSig = h.hostSig := by
 unfold Hart.setX; split <;> simp
@[simp] theorem setX_stopReq (h : Hart) (r : Reg) (v : Word) : (h.setX r v).stopReq = h.stopReq := by
 unfold Hart.setX; split <;> simp
@[simp] theorem setX_reports (h : Hart) (r : Reg) (v : Word) : (h.setX r v).reports = h.reports := by
 unfold Hart.setX; split <;> simp
@[simp] theorem setX_remote (h : Hart) (r : Reg) (v : Word) : (h.setX r v).remote = h.remote := by
 unfold Hart.setX; split <;> simp
@[simp] theorem setX_pins (h : Hart) (r : Reg) (v : Word) : (h.setX r v).pins = h.pins := by
 unfold Hart.setX; split <;> simp
@[simp] theorem setX_kept (h : Hart) (r : Reg) (v : Word) : (h.setX r v).kept = h.kept := by
 unfold Hart.setX; split <;> simp
@[simp] theorem setX_held (h : Hart) (r : Reg) (v : Word) : (h.setX r v).held = h.held := by
 unfold Hart.setX; split <;> simp
@[simp] theorem setX_fenceAt (h : Hart) (r : Reg) (v : Word) : (h.setX r v).fenceAt = h.fenceAt := by
 unfold Hart.setX; split <;> simp
@[simp] theorem setX_sentAt (h : Hart) (r : Reg) (v : Word) : (h.setX r v).sentAt = h.sentAt := by
 unfold Hart.setX; split <;> simp
@[simp] theorem setX_marks (h : Hart) (r : Reg) (v : Word) : (h.setX r v).marks = h.marks := by
 unfold Hart.setX; split <;> simp
@[simp] theorem setX_starve (h : Hart) (r : Reg) (v : Word) : (h.setX r v).starve = h.starve := by
 unfold Hart.setX; split <;> simp
@[simp] theorem setX_headAt (h : Hart) (r : Reg) (v : Word) : (h.setX r v).headAt = h.headAt := by
 unfold Hart.setX; split <;> simp

/-! ### setF -/

@[simp] theorem setF_status (h : Hart) (r : Reg) (v : Word) : (h.setF r v).status = h.status := by
 unfold Hart.setF; split <;> simp
@[simp] theorem setF_launch (h : Hart) (r : Reg) (v : Word) : (h.setF r v).launch = h.launch := by
 unfold Hart.setF; split <;> simp
@[simp] theorem setF_rank (h : Hart) (r : Reg) (v : Word) : (h.setF r v).rank = h.rank := by
 unfold Hart.setF; split <;> simp
@[simp] theorem setF_x (h : Hart) (r : Reg) (v : Word) : (h.setF r v).x = h.x := by
 unfold Hart.setF; split <;> simp
@[simp] theorem setF_pc (h : Hart) (r : Reg) (v : Word) : (h.setF r v).pc = h.pc := by
 unfold Hart.setF; split <;> simp
@[simp] theorem setF_v (h : Hart) (r : Reg) (v : Word) : (h.setF r v).v = h.v := by
 unfold Hart.setF; split <;> simp
@[simp] theorem setF_k (h : Hart) (r : Reg) (v : Word) : (h.setF r v).k = h.k := by
 unfold Hart.setF; split <;> simp
@[simp] theorem setF_q (h : Hart) (r : Reg) (v : Word) : (h.setF r v).q = h.q := by
 unfold Hart.setF; split <;> simp
@[simp] theorem setF_shadow (h : Hart) (r : Reg) (v : Word) : (h.setF r v).shadow = h.shadow := by
 unfold Hart.setF; split <;> simp
@[simp] theorem setF_vl (h : Hart) (r : Reg) (v : Word) : (h.setF r v).vl = h.vl := by
 unfold Hart.setF; split <;> simp
@[simp] theorem setF_vstart (h : Hart) (r : Reg) (v : Word) : (h.setF r v).vstart = h.vstart := by
 unfold Hart.setF; split <;> simp
@[simp] theorem setF_vtype (h : Hart) (r : Reg) (v : Word) : (h.setF r v).vtype = h.vtype := by
 unfold Hart.setF; split <;> simp
@[simp] theorem setF_mfmt (h : Hart) (r : Reg) (v : Word) : (h.setF r v).mfmt = h.mfmt := by
 unfold Hart.setF; split <;> simp
@[simp] theorem setF_avl (h : Hart) (r : Reg) (v : Word) : (h.setF r v).avl = h.avl := by
 unfold Hart.setF; split <;> simp
@[simp] theorem setF_sidx (h : Hart) (r : Reg) (v : Word) : (h.setF r v).sidx = h.sidx := by
 unfold Hart.setF; split <;> simp
@[simp] theorem setF_tshape (h : Hart) (r : Reg) (v : Word) : (h.setF r v).tshape = h.tshape := by
 unfold Hart.setF; split <;> simp
@[simp] theorem setF_zcfg (h : Hart) (r : Reg) (v : Word) : (h.setF r v).zcfg = h.zcfg := by
 unfold Hart.setF; split <;> simp
@[simp] theorem setF_satCount (h : Hart) (r : Reg) (v : Word) : (h.setF r v).satCount = h.satCount := by
 unfold Hart.setF; split <;> simp
@[simp] theorem setF_satEvp (h : Hart) (r : Reg) (v : Word) : (h.setF r v).satEvp = h.satEvp := by
 unfold Hart.setF; split <;> simp
@[simp] theorem setF_satthr (h : Hart) (r : Reg) (v : Word) : (h.setF r v).satthr = h.satthr := by
 unfold Hart.setF; split <;> simp
@[simp] theorem setF_fflags (h : Hart) (r : Reg) (v : Word) : (h.setF r v).fflags = h.fflags := by
 unfold Hart.setF; split <;> simp
@[simp] theorem setF_lbeg (h : Hart) (r : Reg) (v : Word) : (h.setF r v).lbeg = h.lbeg := by
 unfold Hart.setF; split <;> simp
@[simp] theorem setF_lrem (h : Hart) (r : Reg) (v : Word) : (h.setF r v).lrem = h.lrem := by
 unfold Hart.setF; split <;> simp
@[simp] theorem setF_llen (h : Hart) (r : Reg) (v : Word) : (h.setF r v).llen = h.llen := by
 unfold Hart.setF; split <;> simp
@[simp] theorem setF_ld (h : Hart) (r : Reg) (v : Word) : (h.setF r v).ld = h.ld := by
 unfold Hart.setF; split <;> simp
@[simp] theorem setF_alarm (h : Hart) (r : Reg) (v : Word) : (h.setF r v).alarm = h.alarm := by
 unfold Hart.setF; split <;> simp
@[simp] theorem setF_sr (h : Hart) (r : Reg) (v : Word) : (h.setF r v).sr = h.sr := by
 unfold Hart.setF; split <;> simp
@[simp] theorem setF_cause (h : Hart) (r : Reg) (v : Word) : (h.setF r v).cause = h.cause := by
 unfold Hart.setF; split <;> simp
@[simp] theorem setF_epc (h : Hart) (r : Reg) (v : Word) : (h.setF r v).epc = h.epc := by
 unfold Hart.setF; split <;> simp
@[simp] theorem setF_tval (h : Hart) (r : Reg) (v : Word) : (h.setF r v).tval = h.tval := by
 unfold Hart.setF; split <;> simp
@[simp] theorem setF_tvec (h : Hart) (r : Reg) (v : Word) : (h.setF r v).tvec = h.tvec := by
 unfold Hart.setF; split <;> simp
@[simp] theorem setF_asid (h : Hart) (r : Reg) (v : Word) : (h.setF r v).asid = h.asid := by
 unfold Hart.setF; split <;> simp
@[simp] theorem setF_ptbase (h : Hart) (r : Reg) (v : Word) : (h.setF r v).ptbase = h.ptbase := by
 unfold Hart.setF; split <;> simp
@[simp] theorem setF_hscratch (h : Hart) (r : Reg) (v : Word) : (h.setF r v).hscratch = h.hscratch := by
 unfold Hart.setF; split <;> simp
@[simp] theorem setF_pfxst (h : Hart) (r : Reg) (v : Word) : (h.setF r v).pfxst = h.pfxst := by
 unfold Hart.setF; split <;> simp
@[simp] theorem setF_pfxLive (h : Hart) (r : Reg) (v : Word) : (h.setF r v).pfxLive = h.pfxLive := by
 unfold Hart.setF; split <;> simp
@[simp] theorem setF_preemptReq (h : Hart) (r : Reg) (v : Word) : (h.setF r v).preemptReq = h.preemptReq := by
 unfold Hart.setF; split <;> simp
@[simp] theorem setF_hostSig (h : Hart) (r : Reg) (v : Word) : (h.setF r v).hostSig = h.hostSig := by
 unfold Hart.setF; split <;> simp
@[simp] theorem setF_stopReq (h : Hart) (r : Reg) (v : Word) : (h.setF r v).stopReq = h.stopReq := by
 unfold Hart.setF; split <;> simp
@[simp] theorem setF_reports (h : Hart) (r : Reg) (v : Word) : (h.setF r v).reports = h.reports := by
 unfold Hart.setF; split <;> simp
@[simp] theorem setF_remote (h : Hart) (r : Reg) (v : Word) : (h.setF r v).remote = h.remote := by
 unfold Hart.setF; split <;> simp
@[simp] theorem setF_pins (h : Hart) (r : Reg) (v : Word) : (h.setF r v).pins = h.pins := by
 unfold Hart.setF; split <;> simp
@[simp] theorem setF_kept (h : Hart) (r : Reg) (v : Word) : (h.setF r v).kept = h.kept := by
 unfold Hart.setF; split <;> simp
@[simp] theorem setF_held (h : Hart) (r : Reg) (v : Word) : (h.setF r v).held = h.held := by
 unfold Hart.setF; split <;> simp
@[simp] theorem setF_fenceAt (h : Hart) (r : Reg) (v : Word) : (h.setF r v).fenceAt = h.fenceAt := by
 unfold Hart.setF; split <;> simp
@[simp] theorem setF_sentAt (h : Hart) (r : Reg) (v : Word) : (h.setF r v).sentAt = h.sentAt := by
 unfold Hart.setF; split <;> simp
@[simp] theorem setF_marks (h : Hart) (r : Reg) (v : Word) : (h.setF r v).marks = h.marks := by
 unfold Hart.setF; split <;> simp
@[simp] theorem setF_starve (h : Hart) (r : Reg) (v : Word) : (h.setF r v).starve = h.starve := by
 unfold Hart.setF; split <;> simp
@[simp] theorem setF_headAt (h : Hart) (r : Reg) (v : Word) : (h.setF r v).headAt = h.headAt := by
 unfold Hart.setF; split <;> simp

/-! ### setK -/

@[simp] theorem setK_status (h : Hart) (r : KReg) (v : Plane) : (h.setK r v).status = h.status := by
 unfold Hart.setK; split <;> simp
@[simp] theorem setK_launch (h : Hart) (r : KReg) (v : Plane) : (h.setK r v).launch = h.launch := by
 unfold Hart.setK; split <;> simp
@[simp] theorem setK_rank (h : Hart) (r : KReg) (v : Plane) : (h.setK r v).rank = h.rank := by
 unfold Hart.setK; split <;> simp
@[simp] theorem setK_x (h : Hart) (r : KReg) (v : Plane) : (h.setK r v).x = h.x := by
 unfold Hart.setK; split <;> simp
@[simp] theorem setK_f (h : Hart) (r : KReg) (v : Plane) : (h.setK r v).f = h.f := by
 unfold Hart.setK; split <;> simp
@[simp] theorem setK_pc (h : Hart) (r : KReg) (v : Plane) : (h.setK r v).pc = h.pc := by
 unfold Hart.setK; split <;> simp
@[simp] theorem setK_v (h : Hart) (r : KReg) (v : Plane) : (h.setK r v).v = h.v := by
 unfold Hart.setK; split <;> simp
@[simp] theorem setK_q (h : Hart) (r : KReg) (v : Plane) : (h.setK r v).q = h.q := by
 unfold Hart.setK; split <;> simp
@[simp] theorem setK_shadow (h : Hart) (r : KReg) (v : Plane) : (h.setK r v).shadow = h.shadow := by
 unfold Hart.setK; split <;> simp
@[simp] theorem setK_vl (h : Hart) (r : KReg) (v : Plane) : (h.setK r v).vl = h.vl := by
 unfold Hart.setK; split <;> simp
@[simp] theorem setK_vstart (h : Hart) (r : KReg) (v : Plane) : (h.setK r v).vstart = h.vstart := by
 unfold Hart.setK; split <;> simp
@[simp] theorem setK_vtype (h : Hart) (r : KReg) (v : Plane) : (h.setK r v).vtype = h.vtype := by
 unfold Hart.setK; split <;> simp
@[simp] theorem setK_mfmt (h : Hart) (r : KReg) (v : Plane) : (h.setK r v).mfmt = h.mfmt := by
 unfold Hart.setK; split <;> simp
@[simp] theorem setK_avl (h : Hart) (r : KReg) (v : Plane) : (h.setK r v).avl = h.avl := by
 unfold Hart.setK; split <;> simp
@[simp] theorem setK_sidx (h : Hart) (r : KReg) (v : Plane) : (h.setK r v).sidx = h.sidx := by
 unfold Hart.setK; split <;> simp
@[simp] theorem setK_tshape (h : Hart) (r : KReg) (v : Plane) : (h.setK r v).tshape = h.tshape := by
 unfold Hart.setK; split <;> simp
@[simp] theorem setK_zcfg (h : Hart) (r : KReg) (v : Plane) : (h.setK r v).zcfg = h.zcfg := by
 unfold Hart.setK; split <;> simp
@[simp] theorem setK_satCount (h : Hart) (r : KReg) (v : Plane) : (h.setK r v).satCount = h.satCount := by
 unfold Hart.setK; split <;> simp
@[simp] theorem setK_satEvp (h : Hart) (r : KReg) (v : Plane) : (h.setK r v).satEvp = h.satEvp := by
 unfold Hart.setK; split <;> simp
@[simp] theorem setK_satthr (h : Hart) (r : KReg) (v : Plane) : (h.setK r v).satthr = h.satthr := by
 unfold Hart.setK; split <;> simp
@[simp] theorem setK_fflags (h : Hart) (r : KReg) (v : Plane) : (h.setK r v).fflags = h.fflags := by
 unfold Hart.setK; split <;> simp
@[simp] theorem setK_lbeg (h : Hart) (r : KReg) (v : Plane) : (h.setK r v).lbeg = h.lbeg := by
 unfold Hart.setK; split <;> simp
@[simp] theorem setK_lrem (h : Hart) (r : KReg) (v : Plane) : (h.setK r v).lrem = h.lrem := by
 unfold Hart.setK; split <;> simp
@[simp] theorem setK_llen (h : Hart) (r : KReg) (v : Plane) : (h.setK r v).llen = h.llen := by
 unfold Hart.setK; split <;> simp
@[simp] theorem setK_ld (h : Hart) (r : KReg) (v : Plane) : (h.setK r v).ld = h.ld := by
 unfold Hart.setK; split <;> simp
@[simp] theorem setK_alarm (h : Hart) (r : KReg) (v : Plane) : (h.setK r v).alarm = h.alarm := by
 unfold Hart.setK; split <;> simp
@[simp] theorem setK_sr (h : Hart) (r : KReg) (v : Plane) : (h.setK r v).sr = h.sr := by
 unfold Hart.setK; split <;> simp
@[simp] theorem setK_cause (h : Hart) (r : KReg) (v : Plane) : (h.setK r v).cause = h.cause := by
 unfold Hart.setK; split <;> simp
@[simp] theorem setK_epc (h : Hart) (r : KReg) (v : Plane) : (h.setK r v).epc = h.epc := by
 unfold Hart.setK; split <;> simp
@[simp] theorem setK_tval (h : Hart) (r : KReg) (v : Plane) : (h.setK r v).tval = h.tval := by
 unfold Hart.setK; split <;> simp
@[simp] theorem setK_tvec (h : Hart) (r : KReg) (v : Plane) : (h.setK r v).tvec = h.tvec := by
 unfold Hart.setK; split <;> simp
@[simp] theorem setK_asid (h : Hart) (r : KReg) (v : Plane) : (h.setK r v).asid = h.asid := by
 unfold Hart.setK; split <;> simp
@[simp] theorem setK_ptbase (h : Hart) (r : KReg) (v : Plane) : (h.setK r v).ptbase = h.ptbase := by
 unfold Hart.setK; split <;> simp
@[simp] theorem setK_hscratch (h : Hart) (r : KReg) (v : Plane) : (h.setK r v).hscratch = h.hscratch := by
 unfold Hart.setK; split <;> simp
@[simp] theorem setK_pfxst (h : Hart) (r : KReg) (v : Plane) : (h.setK r v).pfxst = h.pfxst := by
 unfold Hart.setK; split <;> simp
@[simp] theorem setK_pfxLive (h : Hart) (r : KReg) (v : Plane) : (h.setK r v).pfxLive = h.pfxLive := by
 unfold Hart.setK; split <;> simp
@[simp] theorem setK_preemptReq (h : Hart) (r : KReg) (v : Plane) : (h.setK r v).preemptReq = h.preemptReq := by
 unfold Hart.setK; split <;> simp
@[simp] theorem setK_hostSig (h : Hart) (r : KReg) (v : Plane) : (h.setK r v).hostSig = h.hostSig := by
 unfold Hart.setK; split <;> simp
@[simp] theorem setK_stopReq (h : Hart) (r : KReg) (v : Plane) : (h.setK r v).stopReq = h.stopReq := by
 unfold Hart.setK; split <;> simp
@[simp] theorem setK_reports (h : Hart) (r : KReg) (v : Plane) : (h.setK r v).reports = h.reports := by
 unfold Hart.setK; split <;> simp
@[simp] theorem setK_remote (h : Hart) (r : KReg) (v : Plane) : (h.setK r v).remote = h.remote := by
 unfold Hart.setK; split <;> simp
@[simp] theorem setK_pins (h : Hart) (r : KReg) (v : Plane) : (h.setK r v).pins = h.pins := by
 unfold Hart.setK; split <;> simp
@[simp] theorem setK_kept (h : Hart) (r : KReg) (v : Plane) : (h.setK r v).kept = h.kept := by
 unfold Hart.setK; split <;> simp
@[simp] theorem setK_held (h : Hart) (r : KReg) (v : Plane) : (h.setK r v).held = h.held := by
 unfold Hart.setK; split <;> simp
@[simp] theorem setK_fenceAt (h : Hart) (r : KReg) (v : Plane) : (h.setK r v).fenceAt = h.fenceAt := by
 unfold Hart.setK; split <;> simp
@[simp] theorem setK_sentAt (h : Hart) (r : KReg) (v : Plane) : (h.setK r v).sentAt = h.sentAt := by
 unfold Hart.setK; split <;> simp
@[simp] theorem setK_marks (h : Hart) (r : KReg) (v : Plane) : (h.setK r v).marks = h.marks := by
 unfold Hart.setK; split <;> simp
@[simp] theorem setK_starve (h : Hart) (r : KReg) (v : Plane) : (h.setK r v).starve = h.starve := by
 unfold Hart.setK; split <;> simp
@[simp] theorem setK_headAt (h : Hart) (r : KReg) (v : Plane) : (h.setK r v).headAt = h.headAt := by
 unfold Hart.setK; split <;> simp

/-! ### endPfx -/

@[simp] theorem endPfx_status (h : Hart) : (h.endPfx).status = h.status := by
 unfold Hart.endPfx; split <;> rfl
@[simp] theorem endPfx_launch (h : Hart) : (h.endPfx).launch = h.launch := by
 unfold Hart.endPfx; split <;> rfl
@[simp] theorem endPfx_rank (h : Hart) : (h.endPfx).rank = h.rank := by
 unfold Hart.endPfx; split <;> rfl
@[simp] theorem endPfx_x (h : Hart) : (h.endPfx).x = h.x := by
 unfold Hart.endPfx; split <;> rfl
@[simp] theorem endPfx_f (h : Hart) : (h.endPfx).f = h.f := by
 unfold Hart.endPfx; split <;> rfl
@[simp] theorem endPfx_pc (h : Hart) : (h.endPfx).pc = h.pc := by
 unfold Hart.endPfx; split <;> rfl
@[simp] theorem endPfx_v (h : Hart) : (h.endPfx).v = h.v := by
 unfold Hart.endPfx; split <;> rfl
@[simp] theorem endPfx_k (h : Hart) : (h.endPfx).k = h.k := by
 unfold Hart.endPfx; split <;> rfl
@[simp] theorem endPfx_q (h : Hart) : (h.endPfx).q = h.q := by
 unfold Hart.endPfx; split <;> rfl
@[simp] theorem endPfx_shadow (h : Hart) : (h.endPfx).shadow = h.shadow := by
 unfold Hart.endPfx; split <;> rfl
@[simp] theorem endPfx_vl (h : Hart) : (h.endPfx).vl = h.vl := by
 unfold Hart.endPfx; split <;> rfl
@[simp] theorem endPfx_vstart (h : Hart) : (h.endPfx).vstart = h.vstart := by
 unfold Hart.endPfx; split <;> rfl
@[simp] theorem endPfx_vtype (h : Hart) : (h.endPfx).vtype = h.vtype := by
 unfold Hart.endPfx; split <;> rfl
@[simp] theorem endPfx_mfmt (h : Hart) : (h.endPfx).mfmt = h.mfmt := by
 unfold Hart.endPfx; split <;> rfl
@[simp] theorem endPfx_avl (h : Hart) : (h.endPfx).avl = h.avl := by
 unfold Hart.endPfx; split <;> rfl
@[simp] theorem endPfx_sidx (h : Hart) : (h.endPfx).sidx = h.sidx := by
 unfold Hart.endPfx; split <;> rfl
@[simp] theorem endPfx_tshape (h : Hart) : (h.endPfx).tshape = h.tshape := by
 unfold Hart.endPfx; split <;> rfl
@[simp] theorem endPfx_zcfg (h : Hart) : (h.endPfx).zcfg = h.zcfg := by
 unfold Hart.endPfx; split <;> rfl
@[simp] theorem endPfx_satCount (h : Hart) : (h.endPfx).satCount = h.satCount := by
 unfold Hart.endPfx; split <;> rfl
@[simp] theorem endPfx_satEvp (h : Hart) : (h.endPfx).satEvp = h.satEvp := by
 unfold Hart.endPfx; split <;> rfl
@[simp] theorem endPfx_satthr (h : Hart) : (h.endPfx).satthr = h.satthr := by
 unfold Hart.endPfx; split <;> rfl
@[simp] theorem endPfx_fflags (h : Hart) : (h.endPfx).fflags = h.fflags := by
 unfold Hart.endPfx; split <;> rfl
@[simp] theorem endPfx_lbeg (h : Hart) : (h.endPfx).lbeg = h.lbeg := by
 unfold Hart.endPfx; split <;> rfl
@[simp] theorem endPfx_lrem (h : Hart) : (h.endPfx).lrem = h.lrem := by
 unfold Hart.endPfx; split <;> rfl
@[simp] theorem endPfx_llen (h : Hart) : (h.endPfx).llen = h.llen := by
 unfold Hart.endPfx; split <;> rfl
@[simp] theorem endPfx_ld (h : Hart) : (h.endPfx).ld = h.ld := by
 unfold Hart.endPfx; split <;> rfl
@[simp] theorem endPfx_alarm (h : Hart) : (h.endPfx).alarm = h.alarm := by
 unfold Hart.endPfx; split <;> rfl
@[simp] theorem endPfx_sr (h : Hart) : (h.endPfx).sr = h.sr := by
 unfold Hart.endPfx; split <;> rfl
@[simp] theorem endPfx_cause (h : Hart) : (h.endPfx).cause = h.cause := by
 unfold Hart.endPfx; split <;> rfl
@[simp] theorem endPfx_epc (h : Hart) : (h.endPfx).epc = h.epc := by
 unfold Hart.endPfx; split <;> rfl
@[simp] theorem endPfx_tval (h : Hart) : (h.endPfx).tval = h.tval := by
 unfold Hart.endPfx; split <;> rfl
@[simp] theorem endPfx_tvec (h : Hart) : (h.endPfx).tvec = h.tvec := by
 unfold Hart.endPfx; split <;> rfl
@[simp] theorem endPfx_asid (h : Hart) : (h.endPfx).asid = h.asid := by
 unfold Hart.endPfx; split <;> rfl
@[simp] theorem endPfx_ptbase (h : Hart) : (h.endPfx).ptbase = h.ptbase := by
 unfold Hart.endPfx; split <;> rfl
@[simp] theorem endPfx_hscratch (h : Hart) : (h.endPfx).hscratch = h.hscratch := by
 unfold Hart.endPfx; split <;> rfl
@[simp] theorem endPfx_preemptReq (h : Hart) : (h.endPfx).preemptReq = h.preemptReq := by
 unfold Hart.endPfx; split <;> rfl
@[simp] theorem endPfx_hostSig (h : Hart) : (h.endPfx).hostSig = h.hostSig := by
 unfold Hart.endPfx; split <;> rfl
@[simp] theorem endPfx_stopReq (h : Hart) : (h.endPfx).stopReq = h.stopReq := by
 unfold Hart.endPfx; split <;> rfl
@[simp] theorem endPfx_reports (h : Hart) : (h.endPfx).reports = h.reports := by
 unfold Hart.endPfx; split <;> rfl
@[simp] theorem endPfx_remote (h : Hart) : (h.endPfx).remote = h.remote := by
 unfold Hart.endPfx; split <;> rfl
@[simp] theorem endPfx_pins (h : Hart) : (h.endPfx).pins = h.pins := by
 unfold Hart.endPfx; split <;> rfl
@[simp] theorem endPfx_kept (h : Hart) : (h.endPfx).kept = h.kept := by
 unfold Hart.endPfx; split <;> rfl
@[simp] theorem endPfx_held (h : Hart) : (h.endPfx).held = h.held := by
 unfold Hart.endPfx; split <;> rfl
@[simp] theorem endPfx_fenceAt (h : Hart) : (h.endPfx).fenceAt = h.fenceAt := by
 unfold Hart.endPfx; split <;> rfl
@[simp] theorem endPfx_sentAt (h : Hart) : (h.endPfx).sentAt = h.sentAt := by
 unfold Hart.endPfx; split <;> rfl
@[simp] theorem endPfx_marks (h : Hart) : (h.endPfx).marks = h.marks := by
 unfold Hart.endPfx; split <;> rfl
@[simp] theorem endPfx_starve (h : Hart) : (h.endPfx).starve = h.starve := by
 unfold Hart.endPfx; split <;> rfl
@[simp] theorem endPfx_headAt (h : Hart) : (h.endPfx).headAt = h.headAt := by
 unfold Hart.endPfx; split <;> rfl

/-! ### Completion touches pc, pfxst, pfxLive, lrem and ld only (R39, R83) -/

theorem loopTest_eq (h : Hart) (ia : Word) (t : Fin 2) :
    (h.loopTest ia t).1 = { h with pc := (h.loopTest ia t).1.pc, lrem := (h.loopTest ia t).1.lrem,
                                   ld := (h.loopTest ia t).1.ld } := by
  unfold Hart.loopTest
  split
  · rfl
  · split <;> rfl

theorem loopReturn_eq (h : Hart) (ia : Word) :
    h.loopReturn ia = { h with pc := (h.loopReturn ia).pc, lrem := (h.loopReturn ia).lrem,
                               ld := (h.loopReturn ia).ld } := by
  unfold Hart.loopReturn
  split
  · rfl
  · exact loopTest_eq h ia 0
  · dsimp only
    split
    · exact loopTest_eq h ia 1
    · rw [loopTest_eq (h.loopTest ia 1).1 ia 0, loopTest_eq h ia 1]

theorem endPfx_eq (h : Hart) : h.endPfx = { h with pfxLive := h.endPfx.pfxLive, pfxst := h.endPfx.pfxst } := by
  unfold Hart.endPfx; split <;> rfl

/-- What a completed instruction leaves of its hart (R39, R83). -/
theorem advance_eq (h : Hart) :
    h.advance = { h with pc := h.advance.pc, pfxLive := h.advance.pfxLive, pfxst := h.advance.pfxst,
                         lrem := h.advance.lrem, ld := h.advance.ld, kept := h.advance.kept } := by
  unfold Hart.advance
  rw [loopReturn_eq, endPfx_eq]

theorem sameButPc_advance (h : Hart) : h.sameButPc h.advance := advance_eq h

@[simp] theorem advance_status (h : Hart) : h.advance.status = h.status := by rw [advance_eq]
@[simp] theorem advance_launch (h : Hart) : h.advance.launch = h.launch := by rw [advance_eq]
@[simp] theorem advance_rank (h : Hart) : h.advance.rank = h.rank := by rw [advance_eq]
@[simp] theorem advance_x (h : Hart) : h.advance.x = h.x := by rw [advance_eq]
@[simp] theorem advance_f (h : Hart) : h.advance.f = h.f := by rw [advance_eq]
@[simp] theorem advance_v (h : Hart) : h.advance.v = h.v := by rw [advance_eq]
@[simp] theorem advance_k (h : Hart) : h.advance.k = h.k := by rw [advance_eq]
@[simp] theorem advance_q (h : Hart) : h.advance.q = h.q := by rw [advance_eq]
@[simp] theorem advance_shadow (h : Hart) : h.advance.shadow = h.shadow := by rw [advance_eq]
@[simp] theorem advance_vl (h : Hart) : h.advance.vl = h.vl := by rw [advance_eq]
@[simp] theorem advance_vstart (h : Hart) : h.advance.vstart = h.vstart := by rw [advance_eq]
@[simp] theorem advance_vtype (h : Hart) : h.advance.vtype = h.vtype := by rw [advance_eq]
@[simp] theorem advance_mfmt (h : Hart) : h.advance.mfmt = h.mfmt := by rw [advance_eq]
@[simp] theorem advance_avl (h : Hart) : h.advance.avl = h.avl := by rw [advance_eq]
@[simp] theorem advance_sidx (h : Hart) : h.advance.sidx = h.sidx := by rw [advance_eq]
@[simp] theorem advance_tshape (h : Hart) : h.advance.tshape = h.tshape := by rw [advance_eq]
@[simp] theorem advance_zcfg (h : Hart) : h.advance.zcfg = h.zcfg := by rw [advance_eq]
@[simp] theorem advance_satCount (h : Hart) : h.advance.satCount = h.satCount := by rw [advance_eq]
@[simp] theorem advance_satEvp (h : Hart) : h.advance.satEvp = h.satEvp := by rw [advance_eq]
@[simp] theorem advance_satthr (h : Hart) : h.advance.satthr = h.satthr := by rw [advance_eq]
@[simp] theorem advance_fflags (h : Hart) : h.advance.fflags = h.fflags := by rw [advance_eq]
@[simp] theorem advance_lbeg (h : Hart) : h.advance.lbeg = h.lbeg := by rw [advance_eq]
@[simp] theorem advance_llen (h : Hart) : h.advance.llen = h.llen := by rw [advance_eq]
@[simp] theorem advance_alarm (h : Hart) : h.advance.alarm = h.alarm := by rw [advance_eq]
@[simp] theorem advance_sr (h : Hart) : h.advance.sr = h.sr := by rw [advance_eq]
@[simp] theorem advance_cause (h : Hart) : h.advance.cause = h.cause := by rw [advance_eq]
@[simp] theorem advance_epc (h : Hart) : h.advance.epc = h.epc := by rw [advance_eq]
@[simp] theorem advance_tval (h : Hart) : h.advance.tval = h.tval := by rw [advance_eq]
@[simp] theorem advance_tvec (h : Hart) : h.advance.tvec = h.tvec := by rw [advance_eq]
@[simp] theorem advance_asid (h : Hart) : h.advance.asid = h.asid := by rw [advance_eq]
@[simp] theorem advance_ptbase (h : Hart) : h.advance.ptbase = h.ptbase := by rw [advance_eq]
@[simp] theorem advance_hscratch (h : Hart) : h.advance.hscratch = h.hscratch := by rw [advance_eq]
@[simp] theorem advance_preemptReq (h : Hart) : h.advance.preemptReq = h.preemptReq := by rw [advance_eq]
@[simp] theorem advance_hostSig (h : Hart) : h.advance.hostSig = h.hostSig := by rw [advance_eq]
@[simp] theorem advance_stopReq (h : Hart) : h.advance.stopReq = h.stopReq := by rw [advance_eq]
@[simp] theorem advance_reports (h : Hart) : h.advance.reports = h.reports := by rw [advance_eq]
@[simp] theorem advance_remote (h : Hart) : h.advance.remote = h.remote := by rw [advance_eq]
@[simp] theorem advance_pins (h : Hart) : h.advance.pins = h.pins := by rw [advance_eq]
@[simp] theorem advance_kept (h : Hart) : h.advance.kept = none := by
  unfold Hart.advance
  rw [loopReturn_eq]
@[simp] theorem advance_held (h : Hart) : h.advance.held = h.held := by rw [advance_eq]
@[simp] theorem advance_fenceAt (h : Hart) : h.advance.fenceAt = h.fenceAt := by rw [advance_eq]
@[simp] theorem advance_sentAt (h : Hart) : h.advance.sentAt = h.sentAt := by rw [advance_eq]
@[simp] theorem advance_marks (h : Hart) : h.advance.marks = h.marks := by rw [advance_eq]
@[simp] theorem advance_starve (h : Hart) : h.advance.starve = h.starve := by rw [advance_eq]
@[simp] theorem advance_headAt (h : Hart) : h.advance.headAt = h.headAt := by rw [advance_eq]

theorem popLoops_eq (h : Hart) (ia t : Word) : h.popLoops ia t = { h with ld := (h.popLoops ia t).ld } := by
  unfold Hart.popLoops
  repeat' split
  all_goals rfl

/-- What a taken transfer leaves of its hart (R84). -/
theorem jump_eq (h : Hart) (t : Word) (p : Bool) :
    h.jump t p = { h with pc := (h.jump t p).pc, pfxLive := (h.jump t p).pfxLive, pfxst := (h.jump t p).pfxst,
                          lrem := (h.jump t p).lrem, ld := (h.jump t p).ld, kept := (h.jump t p).kept } := by
  unfold Hart.jump
  dsimp only
  split
  · rw [loopReturn_eq, endPfx_eq]
  · split
    · rw [popLoops_eq, endPfx_eq]
    · rw [endPfx_eq]

theorem sameButPc_jump (h : Hart) (t : Word) (p : Bool) : h.sameButPc (h.jump t p) := jump_eq h t p

/-- With the loop stack empty and no live prefix, completion only moves the pc on. -/
theorem advance_plain (h : Hart) (l : h.ld = 0) (p : h.pfxLive = false) :
    h.advance = { h with pc := h.pc + 4, kept := none } := by
  have e : h.endPfx = h := by simp [Hart.endPfx, p]
  unfold Hart.advance
  simp only [e, Hart.loopReturn, l]
  rfl

/-! ### Masks sampled at issue (R133) -/

/-- With nothing sampled an instruction reads the mask registers as they stand. -/
theorem sampled_none (h : Hart) (k : h.kept = none) (r : KReg) : h.sampled r = h.kr r := by
  unfold Hart.sampled; rw [k]

/-- Sampling changes no mask that the instruction in progress reads. -/
@[simp] theorem sampled_sample (h : Hart) (r : KReg) : h.sample.sampled r = h.sampled r := by
  unfold Hart.sample Hart.sampled
  cases h.kept <;> rfl

/-- Once sampled, the masks stand whatever is written to the mask registers. -/
theorem sampled_putK (h : Hart) (d r : KReg) (v : Plane) : (h.sample.putK d v).sampled r = h.sampled r := by
  unfold Hart.sample Hart.sampled Hart.putK
  cases h.kept <;> rfl

/-! ### Registers after a write (R41, R61) -/

theorem vset_getElem {α : Type} {n : Nat} (v : Vector α n) (i j : Nat) (x : α) (hi : i < n) (hj : j < n) :
    (v.set i x hi)[j] = if i = j then x else v[j] := by
  simp [Vector.getElem_set]

@[simp] theorem xr_zero (h : Hart) : h.xr 0 = 0 := rfl

theorem xr_putX (h : Hart) (d r : Reg) (v : Word) : (h.putX d v).xr r = if r = d ∧ d ≠ 0 then v else h.xr r := by
  unfold Hart.putX
  by_cases d0 : d = 0
  · rw [if_pos d0, if_neg (fun k => k.2 d0)]
  · rw [if_neg d0]
    unfold Hart.xr
    by_cases r0 : r = 0
    · rw [if_pos r0, if_pos r0, if_neg (fun k : r = d ∧ d ≠ 0 => d0 (k.1 ▸ r0))]
    · rw [if_neg r0, if_neg r0, vset_getElem]
      by_cases e : r = d
      · rw [if_pos (congrArg BitVec.toNat e.symm), if_pos ⟨e, d0⟩]
      · rw [if_neg (fun k => e (BitVec.eq_of_toNat_eq k.symm)), if_neg (fun k : r = d ∧ d ≠ 0 => e k.1)]

theorem fr_putF (h : Hart) (d r : Reg) (v : Word) : (h.putF d v).fr r = if r = d then v else h.fr r := by
  unfold Hart.putF Hart.fr
  by_cases e : r = d
  · subst e; simp
  · have : d.toNat ≠ r.toNat := fun k => e (BitVec.eq_of_toNat_eq k.symm)
    simp [e, this]

theorem vr_putV (h : Hart) (d r : Reg) (v : VReg) : (h.putV d v).vr r = if r = d then v else h.vr r := by
  unfold Hart.putV Hart.vr
  by_cases e : r = d
  · subst e; simp
  · have : d.toNat ≠ r.toNat := fun k => e (BitVec.eq_of_toNat_eq k.symm)
    simp [e, this]

theorem kr_putK (h : Hart) (d r : KReg) (v : Plane) : (h.putK d v).kr r = if r = d then v else h.kr r := by
  unfold Hart.putK Hart.kr
  by_cases e : r = d
  · subst e; simp
  · have : d.toNat ≠ r.toNat := fun k => e (BitVec.eq_of_toNat_eq k.symm)
    simp [e, this]

theorem qr_putQ (h : Hart) (d r : Reg) (v : QReg) : (h.putQ d v).qr r = if r = d then v else h.qr r := by
  unfold Hart.putQ Hart.qr
  by_cases e : r = d
  · subst e; simp
  · have : d.toNat ≠ r.toNat := fun k => e (BitVec.eq_of_toNat_eq k.symm)
    simp [e, this]

/-- What a scalar result leaves in the x registers, its copy included (R41, R61). -/
theorem xr_setX (h : Hart) (d r : Reg) (v : Word) :
    (h.setX d v).xr r = if r ≠ 0 ∧ (r = d ∨ h.copyReg = some r) then v else h.xr r := by
  unfold Hart.setX
  split
  · next d2 e =>
    rw [xr_putX, xr_putX, e]
    by_cases r0 : r = 0
    · rw [if_neg (fun k : r = d2 ∧ d2 ≠ 0 => k.2 (k.1 ▸ r0)), if_neg (fun k : r = d ∧ d ≠ 0 => k.2 (k.1 ▸ r0)),
        if_neg (fun k => k.1 r0)]
    · by_cases a : r = d2
      · rw [if_pos ⟨a, a ▸ r0⟩, if_pos ⟨r0, .inr (a ▸ rfl)⟩]
      · rw [if_neg (fun k : r = d2 ∧ d2 ≠ 0 => a k.1)]
        by_cases b : r = d
        · rw [if_pos ⟨b, b ▸ r0⟩, if_pos ⟨r0, .inl b⟩]
        · rw [if_neg (fun k : r = d ∧ d ≠ 0 => b k.1), if_neg]
          rintro ⟨-, k | k⟩
          · exact b k
          · exact a (Option.some.inj k).symm
  · next e =>
    rw [xr_putX, e]
    by_cases b : r = d
    · by_cases r0 : r = 0
      · rw [if_neg (fun k : r = d ∧ d ≠ 0 => k.2 (b ▸ r0)), if_neg (fun k => k.1 r0)]
      · rw [if_pos ⟨b, b ▸ r0⟩, if_pos ⟨r0, .inl b⟩]
    · rw [if_neg (fun k : r = d ∧ d ≠ 0 => b k.1), if_neg]
      rintro ⟨-, k | k⟩
      · exact b k
      · exact nomatch k

/-! ### Vector writes touch v only (R107) -/

theorem putElem_eq (h : Hart) (n : Reg) (i u j : Nat) : h.putElem n i u j = { h with v := (h.putElem n i u j).v } := by
  induction j with
  | zero => rfl
  | succ j ih =>
    have e : h.putElem n i u (j + 1) = (h.putElem n i u j).putV (regAt n j)
      (((h.putElem n i u j).vr (regAt n j)).putBits i (u / 2 ^ (16 * j))) := rfl
    rw [e, ih]
    rfl

theorem putElems_eq (h : Hart) (d : Reg) (n : Nat) (ws : List (Nat × Nat)) :
    h.putElems d n ws = { h with v := (h.putElems d n ws).v } := by
  unfold Hart.putElems
  induction ws generalizing h with
  | nil => rfl
  | cons w rest ih =>
    rw [List.foldl_cons, ih, putElem_eq]

theorem stamp_eq (h : Hart) (d : Reg) (t : VT) (vl : BitVec 16) (borg : BitVec 13) (prog n : Nat) :
    h.stamp d t vl borg prog n = { h with v := (h.stamp d t vl borg prog n).v } := by
  induction n with
  | zero => rfl
  | succ j ih =>
    have e : h.stamp d t vl borg prog (j + 1) = (h.stamp d t vl borg prog j).putV (regAt d j)
      { (h.stamp d t vl borg prog j).vr (regAt d j) with
        desc := ((h.stamp d t vl borg prog j).vr (regAt d j)).desc.stamp t vl borg prog j } := rfl
    rw [e, ih]
    rfl

theorem foldl_putV_eq {α : Type} (l : List α) (r : α → Reg) (f : α → VReg) (h : Hart) :
    l.foldl (fun x j => x.putV (r j) (f j)) h = { h with v := (l.foldl (fun x j => x.putV (r j) (f j)) h).v } := by
  induction l generalizing h with
  | nil => rfl
  | cons a rest ih =>
    rw [List.foldl_cons, ih]
    rfl

theorem copyGroup_eq (h : Hart) (d : Reg) (n : Nat) : h.copyGroup d n = { h with v := (h.copyGroup d n).v } := by
  unfold Hart.copyGroup
  split
  · rfl
  · exact foldl_putV_eq _ _ _ h

/-- A vector write, whole or in part, changes vector registers and nothing else of its hart (R107, R126). -/
theorem writePart_eq (h : Hart) (d : Reg) (t : VT) (borg : BitVec 13) (prog : Nat) (ws : List (Nat × Nat)) :
    h.writePart d t borg prog ws = { h with v := (h.writePart d t borg prog ws).v } := by
  unfold Hart.writePart
  rw [copyGroup_eq, stamp_eq, putElems_eq]

theorem writeGroup_eq (h : Hart) (d : Reg) (t : VT) (borg : BitVec 13) (ws : List (Nat × Nat)) :
    h.writeGroup d t borg ws = { h with v := (h.writeGroup d t borg ws).v } := by
  exact writePart_eq h d t borg _ ws

@[simp] theorem writeGroup_status (h : Hart) (d : Reg) (t : VT) (borg : BitVec 13) (ws : List (Nat × Nat)) :
    (h.writeGroup d t borg ws).status = h.status := by rw [writeGroup_eq]
@[simp] theorem writeGroup_launch (h : Hart) (d : Reg) (t : VT) (borg : BitVec 13) (ws : List (Nat × Nat)) :
    (h.writeGroup d t borg ws).launch = h.launch := by rw [writeGroup_eq]
@[simp] theorem writeGroup_rank (h : Hart) (d : Reg) (t : VT) (borg : BitVec 13) (ws : List (Nat × Nat)) :
    (h.writeGroup d t borg ws).rank = h.rank := by rw [writeGroup_eq]
@[simp] theorem writeGroup_x (h : Hart) (d : Reg) (t : VT) (borg : BitVec 13) (ws : List (Nat × Nat)) :
    (h.writeGroup d t borg ws).x = h.x := by rw [writeGroup_eq]
@[simp] theorem writeGroup_f (h : Hart) (d : Reg) (t : VT) (borg : BitVec 13) (ws : List (Nat × Nat)) :
    (h.writeGroup d t borg ws).f = h.f := by rw [writeGroup_eq]
@[simp] theorem writeGroup_pc (h : Hart) (d : Reg) (t : VT) (borg : BitVec 13) (ws : List (Nat × Nat)) :
    (h.writeGroup d t borg ws).pc = h.pc := by rw [writeGroup_eq]
@[simp] theorem writeGroup_k (h : Hart) (d : Reg) (t : VT) (borg : BitVec 13) (ws : List (Nat × Nat)) :
    (h.writeGroup d t borg ws).k = h.k := by rw [writeGroup_eq]
@[simp] theorem writeGroup_q (h : Hart) (d : Reg) (t : VT) (borg : BitVec 13) (ws : List (Nat × Nat)) :
    (h.writeGroup d t borg ws).q = h.q := by rw [writeGroup_eq]
@[simp] theorem writeGroup_shadow (h : Hart) (d : Reg) (t : VT) (borg : BitVec 13) (ws : List (Nat × Nat)) :
    (h.writeGroup d t borg ws).shadow = h.shadow := by rw [writeGroup_eq]
@[simp] theorem writeGroup_vl (h : Hart) (d : Reg) (t : VT) (borg : BitVec 13) (ws : List (Nat × Nat)) :
    (h.writeGroup d t borg ws).vl = h.vl := by rw [writeGroup_eq]
@[simp] theorem writeGroup_vstart (h : Hart) (d : Reg) (t : VT) (borg : BitVec 13) (ws : List (Nat × Nat)) :
    (h.writeGroup d t borg ws).vstart = h.vstart := by rw [writeGroup_eq]
@[simp] theorem writeGroup_vtype (h : Hart) (d : Reg) (t : VT) (borg : BitVec 13) (ws : List (Nat × Nat)) :
    (h.writeGroup d t borg ws).vtype = h.vtype := by rw [writeGroup_eq]
@[simp] theorem writeGroup_mfmt (h : Hart) (d : Reg) (t : VT) (borg : BitVec 13) (ws : List (Nat × Nat)) :
    (h.writeGroup d t borg ws).mfmt = h.mfmt := by rw [writeGroup_eq]
@[simp] theorem writeGroup_avl (h : Hart) (d : Reg) (t : VT) (borg : BitVec 13) (ws : List (Nat × Nat)) :
    (h.writeGroup d t borg ws).avl = h.avl := by rw [writeGroup_eq]
@[simp] theorem writeGroup_sidx (h : Hart) (d : Reg) (t : VT) (borg : BitVec 13) (ws : List (Nat × Nat)) :
    (h.writeGroup d t borg ws).sidx = h.sidx := by rw [writeGroup_eq]
@[simp] theorem writeGroup_tshape (h : Hart) (d : Reg) (t : VT) (borg : BitVec 13) (ws : List (Nat × Nat)) :
    (h.writeGroup d t borg ws).tshape = h.tshape := by rw [writeGroup_eq]
@[simp] theorem writeGroup_zcfg (h : Hart) (d : Reg) (t : VT) (borg : BitVec 13) (ws : List (Nat × Nat)) :
    (h.writeGroup d t borg ws).zcfg = h.zcfg := by rw [writeGroup_eq]
@[simp] theorem writeGroup_satCount (h : Hart) (d : Reg) (t : VT) (borg : BitVec 13) (ws : List (Nat × Nat)) :
    (h.writeGroup d t borg ws).satCount = h.satCount := by rw [writeGroup_eq]
@[simp] theorem writeGroup_satEvp (h : Hart) (d : Reg) (t : VT) (borg : BitVec 13) (ws : List (Nat × Nat)) :
    (h.writeGroup d t borg ws).satEvp = h.satEvp := by rw [writeGroup_eq]
@[simp] theorem writeGroup_satthr (h : Hart) (d : Reg) (t : VT) (borg : BitVec 13) (ws : List (Nat × Nat)) :
    (h.writeGroup d t borg ws).satthr = h.satthr := by rw [writeGroup_eq]
@[simp] theorem writeGroup_fflags (h : Hart) (d : Reg) (t : VT) (borg : BitVec 13) (ws : List (Nat × Nat)) :
    (h.writeGroup d t borg ws).fflags = h.fflags := by rw [writeGroup_eq]
@[simp] theorem writeGroup_lbeg (h : Hart) (d : Reg) (t : VT) (borg : BitVec 13) (ws : List (Nat × Nat)) :
    (h.writeGroup d t borg ws).lbeg = h.lbeg := by rw [writeGroup_eq]
@[simp] theorem writeGroup_lrem (h : Hart) (d : Reg) (t : VT) (borg : BitVec 13) (ws : List (Nat × Nat)) :
    (h.writeGroup d t borg ws).lrem = h.lrem := by rw [writeGroup_eq]
@[simp] theorem writeGroup_llen (h : Hart) (d : Reg) (t : VT) (borg : BitVec 13) (ws : List (Nat × Nat)) :
    (h.writeGroup d t borg ws).llen = h.llen := by rw [writeGroup_eq]
@[simp] theorem writeGroup_ld (h : Hart) (d : Reg) (t : VT) (borg : BitVec 13) (ws : List (Nat × Nat)) :
    (h.writeGroup d t borg ws).ld = h.ld := by rw [writeGroup_eq]
@[simp] theorem writeGroup_alarm (h : Hart) (d : Reg) (t : VT) (borg : BitVec 13) (ws : List (Nat × Nat)) :
    (h.writeGroup d t borg ws).alarm = h.alarm := by rw [writeGroup_eq]
@[simp] theorem writeGroup_sr (h : Hart) (d : Reg) (t : VT) (borg : BitVec 13) (ws : List (Nat × Nat)) :
    (h.writeGroup d t borg ws).sr = h.sr := by rw [writeGroup_eq]
@[simp] theorem writeGroup_cause (h : Hart) (d : Reg) (t : VT) (borg : BitVec 13) (ws : List (Nat × Nat)) :
    (h.writeGroup d t borg ws).cause = h.cause := by rw [writeGroup_eq]
@[simp] theorem writeGroup_epc (h : Hart) (d : Reg) (t : VT) (borg : BitVec 13) (ws : List (Nat × Nat)) :
    (h.writeGroup d t borg ws).epc = h.epc := by rw [writeGroup_eq]
@[simp] theorem writeGroup_tval (h : Hart) (d : Reg) (t : VT) (borg : BitVec 13) (ws : List (Nat × Nat)) :
    (h.writeGroup d t borg ws).tval = h.tval := by rw [writeGroup_eq]
@[simp] theorem writeGroup_tvec (h : Hart) (d : Reg) (t : VT) (borg : BitVec 13) (ws : List (Nat × Nat)) :
    (h.writeGroup d t borg ws).tvec = h.tvec := by rw [writeGroup_eq]
@[simp] theorem writeGroup_asid (h : Hart) (d : Reg) (t : VT) (borg : BitVec 13) (ws : List (Nat × Nat)) :
    (h.writeGroup d t borg ws).asid = h.asid := by rw [writeGroup_eq]
@[simp] theorem writeGroup_ptbase (h : Hart) (d : Reg) (t : VT) (borg : BitVec 13) (ws : List (Nat × Nat)) :
    (h.writeGroup d t borg ws).ptbase = h.ptbase := by rw [writeGroup_eq]
@[simp] theorem writeGroup_hscratch (h : Hart) (d : Reg) (t : VT) (borg : BitVec 13) (ws : List (Nat × Nat)) :
    (h.writeGroup d t borg ws).hscratch = h.hscratch := by rw [writeGroup_eq]
@[simp] theorem writeGroup_pfxst (h : Hart) (d : Reg) (t : VT) (borg : BitVec 13) (ws : List (Nat × Nat)) :
    (h.writeGroup d t borg ws).pfxst = h.pfxst := by rw [writeGroup_eq]
@[simp] theorem writeGroup_pfxLive (h : Hart) (d : Reg) (t : VT) (borg : BitVec 13) (ws : List (Nat × Nat)) :
    (h.writeGroup d t borg ws).pfxLive = h.pfxLive := by rw [writeGroup_eq]
@[simp] theorem writeGroup_preemptReq (h : Hart) (d : Reg) (t : VT) (borg : BitVec 13) (ws : List (Nat × Nat)) :
    (h.writeGroup d t borg ws).preemptReq = h.preemptReq := by rw [writeGroup_eq]
@[simp] theorem writeGroup_hostSig (h : Hart) (d : Reg) (t : VT) (borg : BitVec 13) (ws : List (Nat × Nat)) :
    (h.writeGroup d t borg ws).hostSig = h.hostSig := by rw [writeGroup_eq]
@[simp] theorem writeGroup_stopReq (h : Hart) (d : Reg) (t : VT) (borg : BitVec 13) (ws : List (Nat × Nat)) :
    (h.writeGroup d t borg ws).stopReq = h.stopReq := by rw [writeGroup_eq]
@[simp] theorem writeGroup_reports (h : Hart) (d : Reg) (t : VT) (borg : BitVec 13) (ws : List (Nat × Nat)) :
    (h.writeGroup d t borg ws).reports = h.reports := by rw [writeGroup_eq]
@[simp] theorem writeGroup_remote (h : Hart) (d : Reg) (t : VT) (borg : BitVec 13) (ws : List (Nat × Nat)) :
    (h.writeGroup d t borg ws).remote = h.remote := by rw [writeGroup_eq]
@[simp] theorem writeGroup_pins (h : Hart) (d : Reg) (t : VT) (borg : BitVec 13) (ws : List (Nat × Nat)) :
    (h.writeGroup d t borg ws).pins = h.pins := by rw [writeGroup_eq]
@[simp] theorem writeGroup_kept (h : Hart) (d : Reg) (t : VT) (borg : BitVec 13) (ws : List (Nat × Nat)) :
    (h.writeGroup d t borg ws).kept = h.kept := by rw [writeGroup_eq]
@[simp] theorem writeGroup_held (h : Hart) (d : Reg) (t : VT) (borg : BitVec 13) (ws : List (Nat × Nat)) :
    (h.writeGroup d t borg ws).held = h.held := by rw [writeGroup_eq]
@[simp] theorem writeGroup_fenceAt (h : Hart) (d : Reg) (t : VT) (borg : BitVec 13) (ws : List (Nat × Nat)) :
    (h.writeGroup d t borg ws).fenceAt = h.fenceAt := by rw [writeGroup_eq]
@[simp] theorem writeGroup_sentAt (h : Hart) (d : Reg) (t : VT) (borg : BitVec 13) (ws : List (Nat × Nat)) :
    (h.writeGroup d t borg ws).sentAt = h.sentAt := by rw [writeGroup_eq]
@[simp] theorem writeGroup_marks (h : Hart) (d : Reg) (t : VT) (borg : BitVec 13) (ws : List (Nat × Nat)) :
    (h.writeGroup d t borg ws).marks = h.marks := by rw [writeGroup_eq]
@[simp] theorem writeGroup_starve (h : Hart) (d : Reg) (t : VT) (borg : BitVec 13) (ws : List (Nat × Nat)) :
    (h.writeGroup d t borg ws).starve = h.starve := by rw [writeGroup_eq]
@[simp] theorem writeGroup_headAt (h : Hart) (d : Reg) (t : VT) (borg : BitVec 13) (ws : List (Nat × Nat)) :
    (h.writeGroup d t borg ws).headAt = h.headAt := by rw [writeGroup_eq]

@[simp] theorem countSat_status (h : Hart) (n : Nat) : (h.countSat n).status = h.status := rfl
@[simp] theorem countSat_launch (h : Hart) (n : Nat) : (h.countSat n).launch = h.launch := rfl
@[simp] theorem countSat_rank (h : Hart) (n : Nat) : (h.countSat n).rank = h.rank := rfl
@[simp] theorem countSat_x (h : Hart) (n : Nat) : (h.countSat n).x = h.x := rfl
@[simp] theorem countSat_f (h : Hart) (n : Nat) : (h.countSat n).f = h.f := rfl
@[simp] theorem countSat_pc (h : Hart) (n : Nat) : (h.countSat n).pc = h.pc := rfl
@[simp] theorem countSat_v (h : Hart) (n : Nat) : (h.countSat n).v = h.v := rfl
@[simp] theorem countSat_k (h : Hart) (n : Nat) : (h.countSat n).k = h.k := rfl
@[simp] theorem countSat_q (h : Hart) (n : Nat) : (h.countSat n).q = h.q := rfl
@[simp] theorem countSat_shadow (h : Hart) (n : Nat) : (h.countSat n).shadow = h.shadow := rfl
@[simp] theorem countSat_vl (h : Hart) (n : Nat) : (h.countSat n).vl = h.vl := rfl
@[simp] theorem countSat_vstart (h : Hart) (n : Nat) : (h.countSat n).vstart = h.vstart := rfl
@[simp] theorem countSat_vtype (h : Hart) (n : Nat) : (h.countSat n).vtype = h.vtype := rfl
@[simp] theorem countSat_mfmt (h : Hart) (n : Nat) : (h.countSat n).mfmt = h.mfmt := rfl
@[simp] theorem countSat_avl (h : Hart) (n : Nat) : (h.countSat n).avl = h.avl := rfl
@[simp] theorem countSat_sidx (h : Hart) (n : Nat) : (h.countSat n).sidx = h.sidx := rfl
@[simp] theorem countSat_tshape (h : Hart) (n : Nat) : (h.countSat n).tshape = h.tshape := rfl
@[simp] theorem countSat_zcfg (h : Hart) (n : Nat) : (h.countSat n).zcfg = h.zcfg := rfl
@[simp] theorem countSat_satthr (h : Hart) (n : Nat) : (h.countSat n).satthr = h.satthr := rfl
@[simp] theorem countSat_fflags (h : Hart) (n : Nat) : (h.countSat n).fflags = h.fflags := rfl
@[simp] theorem countSat_lbeg (h : Hart) (n : Nat) : (h.countSat n).lbeg = h.lbeg := rfl
@[simp] theorem countSat_lrem (h : Hart) (n : Nat) : (h.countSat n).lrem = h.lrem := rfl
@[simp] theorem countSat_llen (h : Hart) (n : Nat) : (h.countSat n).llen = h.llen := rfl
@[simp] theorem countSat_ld (h : Hart) (n : Nat) : (h.countSat n).ld = h.ld := rfl
@[simp] theorem countSat_alarm (h : Hart) (n : Nat) : (h.countSat n).alarm = h.alarm := rfl
@[simp] theorem countSat_sr (h : Hart) (n : Nat) : (h.countSat n).sr = h.sr := rfl
@[simp] theorem countSat_cause (h : Hart) (n : Nat) : (h.countSat n).cause = h.cause := rfl
@[simp] theorem countSat_epc (h : Hart) (n : Nat) : (h.countSat n).epc = h.epc := rfl
@[simp] theorem countSat_tval (h : Hart) (n : Nat) : (h.countSat n).tval = h.tval := rfl
@[simp] theorem countSat_tvec (h : Hart) (n : Nat) : (h.countSat n).tvec = h.tvec := rfl
@[simp] theorem countSat_asid (h : Hart) (n : Nat) : (h.countSat n).asid = h.asid := rfl
@[simp] theorem countSat_ptbase (h : Hart) (n : Nat) : (h.countSat n).ptbase = h.ptbase := rfl
@[simp] theorem countSat_hscratch (h : Hart) (n : Nat) : (h.countSat n).hscratch = h.hscratch := rfl
@[simp] theorem countSat_pfxst (h : Hart) (n : Nat) : (h.countSat n).pfxst = h.pfxst := rfl
@[simp] theorem countSat_pfxLive (h : Hart) (n : Nat) : (h.countSat n).pfxLive = h.pfxLive := rfl
@[simp] theorem countSat_preemptReq (h : Hart) (n : Nat) : (h.countSat n).preemptReq = h.preemptReq := rfl
@[simp] theorem countSat_hostSig (h : Hart) (n : Nat) : (h.countSat n).hostSig = h.hostSig := rfl
@[simp] theorem countSat_stopReq (h : Hart) (n : Nat) : (h.countSat n).stopReq = h.stopReq := rfl
@[simp] theorem countSat_reports (h : Hart) (n : Nat) : (h.countSat n).reports = h.reports := rfl
@[simp] theorem countSat_remote (h : Hart) (n : Nat) : (h.countSat n).remote = h.remote := rfl
@[simp] theorem countSat_pins (h : Hart) (n : Nat) : (h.countSat n).pins = h.pins := rfl
@[simp] theorem countSat_kept (h : Hart) (n : Nat) : (h.countSat n).kept = h.kept := rfl
@[simp] theorem countSat_held (h : Hart) (n : Nat) : (h.countSat n).held = h.held := rfl
@[simp] theorem countSat_fenceAt (h : Hart) (n : Nat) : (h.countSat n).fenceAt = h.fenceAt := rfl
@[simp] theorem countSat_sentAt (h : Hart) (n : Nat) : (h.countSat n).sentAt = h.sentAt := rfl
@[simp] theorem countSat_marks (h : Hart) (n : Nat) : (h.countSat n).marks = h.marks := rfl
@[simp] theorem countSat_starve (h : Hart) (n : Nat) : (h.countSat n).starve = h.starve := rfl
@[simp] theorem countSat_headAt (h : Hart) (n : Nat) : (h.countSat n).headAt = h.headAt := rfl

end Sys2Proof.Laws
end

