-- ==== Sys2Proof/Laws/Memory.lean ====
section
/-! SUPPORT. Memory: reads after writes, and every memory operation keeps the canonical form. -/

namespace Sys2Proof.Laws
open Sys2Proof.Machine

/-! ### One byte -/

theorem memWfFrom_cons {rest : Memory} {lo a : Nat} {v : Byte} :
    memWfFrom lo ((a, v) :: rest) = true ↔ lo ≤ a ∧ v ≠ 0 ∧ memWfFrom (a + 1) rest = true := by
  show ((decide (lo ≤ a) && v != 0) && memWfFrom (a + 1) rest) = true ↔ _
  rw [Bool.and_eq_true, Bool.and_eq_true, decide_eq_true_eq, bne_iff_ne, and_assoc]

theorem memWfFrom_mono {m : Memory} {lo hi : Nat} (h : memWfFrom hi m = true) (le : lo ≤ hi) :
    memWfFrom lo m = true := by
  cases m with
  | nil => rfl
  | cons c rest =>
    simp only [memWfFrom, Bool.and_eq_true, decide_eq_true_eq] at h ⊢
    exact ⟨⟨by omega, h.1.2⟩, h.2⟩

/-- Below its first entry a canonical memory reads 0. -/
theorem memGet_below {m : Memory} {lo a : Nat} (h : memWfFrom lo m = true) (lt : a < lo) : memGet m a = 0 := by
  cases m with
  | nil => rfl
  | cons c rest =>
    simp only [memWfFrom, Bool.and_eq_true, decide_eq_true_eq] at h
    have ne : ¬ a = c.1 := by omega
    have lt' : a < c.1 := by omega
    simp [memGet, ne, lt']

/-- A write keeps the canonical form. -/
theorem memSet_wfFrom {m : Memory} {lo a : Nat} {v : Byte} (h : memWfFrom lo m = true) (le : lo ≤ a) :
    memWfFrom lo (memSet m a v) = true := by
  induction m generalizing lo with
  | nil =>
    unfold memSet
    split
    · rfl
    · next n => exact memWfFrom_cons.mpr ⟨le, n, rfl⟩
  | cons c rest ih =>
    obtain ⟨b, w⟩ := c
    obtain ⟨h1, h2, h3⟩ := memWfFrom_cons.mp h
    unfold memSet
    split
    · next lt =>
      split
      · exact h
      · next n => exact memWfFrom_cons.mpr ⟨le, n, memWfFrom_cons.mpr ⟨lt, h2, h3⟩⟩
    · next ge =>
      split
      · next e =>
        subst e
        split
        · exact memWfFrom_mono h3 (by omega)
        · next n => exact memWfFrom_cons.mpr ⟨le, n, h3⟩
      · next ne => exact memWfFrom_cons.mpr ⟨h1, h2, ih h3 (by omega)⟩

theorem memSet_wf {m : Memory} (h : m.wf = true) (a : Nat) (v : Byte) : Memory.wf (memSet m a v) = true :=
  memSet_wfFrom h (Nat.zero_le a)

/-- A read after a write: the written value at its address, what was there before at every other. -/
theorem memGet_memSetFrom {m : Memory} {lo : Nat} (h : memWfFrom lo m = true) (a b : Nat) (v : Byte) :
    memGet (memSet m a v) b = if b = a then v else memGet m b := by
  induction m generalizing lo with
  | nil =>
    unfold memSet
    split
    · next e => subst e; split <;> rfl
    · simp only [memGet]
      repeat' split
      all_goals rfl
  | cons c rest ih =>
    obtain ⟨x, w⟩ := c
    rw [memWfFrom_cons] at h
    unfold memSet
    split
    · next lt =>
      split
      · next e =>
        subst e
        split
        · next e => subst e; exact memGet_below (lo := x) (m := (x, w) :: rest) (memWfFrom_cons.mpr ⟨Nat.le_refl x, h.2.1, h.2.2⟩) lt
        · rfl
      · simp only [memGet]
        repeat' split
        all_goals first | rfl | omega
    · next ge =>
      split
      · next e =>
        subst e
        split
        · next e =>
          subst e
          split
          · next e => subst e; exact memGet_below h.2.2 (by omega)
          · next ne =>
            simp only [memGet, ne, if_false]
            split
            · next lt => exact memGet_below h.2.2 (by omega)
            · rfl
        · simp only [memGet]
          repeat' split
          all_goals rfl
      · next ne =>
        have ih := ih h.2.2
        simp only [memGet, ih]
        repeat' split
        all_goals first | rfl | omega

theorem memGet_memSet {m : Memory} (h : m.wf = true) (a b : Nat) (v : Byte) :
    memGet (memSet m a v) b = if b = a then v else memGet m b := memGet_memSetFrom h a b v

/-! ### Writes with masks -/

theorem memPut_wf {m : Memory} (h : m.wf = true) (w : ByteWrite) : Memory.wf (memPut m w) = true := memSet_wf h _ _

theorem memPuts_wf {m : Memory} (h : m.wf = true) (ws : List ByteWrite) : Memory.wf (memPuts m ws) = true := by
  unfold memPuts
  induction ws generalizing m with
  | nil => exact h
  | cons w rest ih => exact ih (memPut_wf h w)

theorem memGet_memPut {m : Memory} (h : m.wf = true) (w : ByteWrite) (a : Nat) :
    memGet (memPut m w) a = if w.pa = a then mixByte (memGet m a) w.val w.mask else memGet m a := by
  unfold memPut
  rw [memGet_memSet h]
  by_cases e : a = w.pa
  · subst e; simp
  · simp [e, Ne.symm e]

/-- A byte of memory after writes in order is what they leave of it. -/
theorem memGet_memPuts {m : Memory} (h : m.wf = true) (ws : List ByteWrite) (a : Nat) :
    memGet (memPuts m ws) a = applyWrites a (memGet m a) ws := by
  unfold memPuts applyWrites
  induction ws generalizing m with
  | nil => rfl
  | cons w rest ih =>
    rw [List.foldl_cons, List.foldl_cons, ih (memPut_wf h w), memGet_memPut h]
    by_cases e : w.pa = a <;> simp [e]

/-- Writes elsewhere leave a byte. -/
theorem applyWrites_of_not_mem (a : Nat) (b : Byte) (ws : List ByteWrite) (h : ∀ w ∈ ws, w.pa ≠ a) :
    applyWrites a b ws = b := by
  unfold applyWrites
  induction ws with
  | nil => rfl
  | cons w rest ih =>
    have e : ¬ w.pa = a := h w (by simp)
    rw [List.foldl_cons, if_neg (by simpa using e)]
    exact ih (fun x hx => h x (by simp [hx]))

@[simp] theorem applyWrites_nil (a : Nat) (b : Byte) : applyWrites a b [] = b := rfl

theorem applyWrites_append (a : Nat) (b : Byte) (xs ys : List ByteWrite) :
    applyWrites a b (xs ++ ys) = applyWrites a (applyWrites a b xs) ys := by
  simp [applyWrites, List.foldl_append]

@[simp] theorem memPuts_nil (m : Memory) : memPuts m [] = m := rfl

theorem memPuts_append (m : Memory) (xs ys : List ByteWrite) : memPuts m (xs ++ ys) = memPuts (memPuts m xs) ys := by
  simp [memPuts, List.foldl_append]

/-! ### Runs of bytes -/

@[simp] theorem leBytes_length (n x : Nat) : (leBytes n x).length = n := by
  induction n generalizing x with
  | zero => rfl
  | succ n ih => simp [leBytes, ih]

theorem mem_writesAt {pa : Nat} {bs : List Byte} {w : ByteWrite} (h : w ∈ writesAt pa bs) :
    pa ≤ w.pa ∧ w.pa < pa + bs.length ∧ w.mask = 0xFF ∧ bs[w.pa - pa]? = some w.val := by
  induction bs generalizing pa with
  | nil => exact nomatch h
  | cons b rest ih =>
    simp only [writesAt, List.mem_cons] at h
    rcases h with rfl | h
    · simp
    · obtain ⟨l, u, k, g⟩ := ih h
      refine ⟨by omega, by simp only [List.length_cons]; omega, k, ?_⟩
      have e : w.pa - pa = (w.pa - (pa + 1)) + 1 := by omega
      rw [e]
      simpa using g

@[simp] theorem mixByte_full (x v : Byte) : mixByte x v 0xFF = v := by
  have e : ~~~(0xFF : Byte) = 0 := by decide
  have f : (0xFF : Byte) = BitVec.allOnes 8 := by decide
  unfold mixByte
  rw [e, f, BitVec.and_allOnes]
  simp

/-- A run of bytes written from an address up: each byte is there, and every other byte stays. -/
theorem applyWrites_writesAt (pa a : Nat) (old : Byte) (bs : List Byte) :
    applyWrites a old (writesAt pa bs) = if pa ≤ a ∧ a < pa + bs.length then bs.getD (a - pa) 0 else old := by
  induction bs generalizing pa old with
  | nil =>
    rw [if_neg (by simp)]
    rfl
  | cons b rest ih =>
    have e : applyWrites a old (writesAt pa (b :: rest)) =
      applyWrites a (if pa = a then b else old) (writesAt (pa + 1) rest) := by
      unfold applyWrites
      simp only [writesAt, List.foldl_cons, beq_iff_eq, mixByte_full]
    rw [e, ih]
    by_cases e1 : pa = a
    · subst e1
      simp
    · by_cases c : pa + 1 ≤ a ∧ a < pa + 1 + rest.length
      · have d : pa ≤ a ∧ a < pa + (rest.length + 1) := by omega
        have k : a - pa = (a - (pa + 1)) + 1 := by omega
        simp only [c, d, and_self, if_true, List.length_cons, k, List.getD_cons_succ]
      · have d : ¬ (pa ≤ a ∧ a < pa + (rest.length + 1)) := by omega
        simp only [c, d, if_false, List.length_cons, e1]

theorem memGet_writesAt {m : Memory} (h : m.wf = true) (pa a : Nat) (bs : List Byte) :
    memGet (memPuts m (writesAt pa bs)) a = if pa ≤ a ∧ a < pa + bs.length then bs.getD (a - pa) 0 else memGet m a := by
  rw [memGet_memPuts h, applyWrites_writesAt]

theorem leNat_lt (bs : List Byte) : leNat bs < 256 ^ bs.length := by
  induction bs with
  | nil => simp [leNat]
  | cons b rest ih =>
    have := b.isLt
    simp only [leNat, List.length_cons, Nat.pow_succ]
    omega

/-- The number of n bytes is the number the bytes were made of, modulo 2^(8n). -/
theorem leNat_leBytes (n x : Nat) : leNat (leBytes n x) = x % 256 ^ n := by
  induction n generalizing x with
  | zero => simp [leBytes, leNat, Nat.mod_one]
  | succ n ih =>
    have e : (256 : Nat) ^ (n + 1) = 256 * 256 ^ n := by rw [Nat.pow_succ, Nat.mul_comm]
    rw [leBytes, leNat, ih, BitVec.toNat_ofNat, e, Nat.mod_mul]

/-- The bytes of the number of bytes are the bytes. -/
theorem leBytes_leNat (bs : List Byte) : leBytes bs.length (leNat bs) = bs := by
  induction bs with
  | nil => rfl
  | cons b rest ih =>
    have := b.isLt
    simp only [List.length_cons, leBytes, leNat]
    have e1 : (b.toNat + 256 * leNat rest) / 256 = leNat rest := by omega
    have e2 : BitVec.ofNat 8 (b.toNat + 256 * leNat rest) = b := by
      apply BitVec.eq_of_toNat_eq
      simp only [BitVec.toNat_ofNat]
      omega
    rw [e1, e2, ih]

/-! ### Entries dropped (R191) -/

theorem memWfFrom_filter {m : Memory} {lo : Nat} (h : memWfFrom lo m = true) (p : Host.Cell → Bool) :
    memWfFrom lo (m.filter p) = true := by
  induction m generalizing lo with
  | nil => rfl
  | cons c rest ih =>
    simp only [memWfFrom, Bool.and_eq_true, decide_eq_true_eq] at h
    have t := ih h.2
    by_cases e : p c = true
    · simp only [List.filter_cons, e, if_true, memWfFrom, Bool.and_eq_true, decide_eq_true_eq]
      exact ⟨h.1, t⟩
    · simp only [List.filter_cons, e]
      exact memWfFrom_mono t (by omega)

theorem memGet_filter {m : Memory} {lo : Nat} (h : memWfFrom lo m = true) (p : Nat → Bool) (a : Nat) :
    memGet (m.filter (fun e => p e.1)) a = if p a then memGet m a else 0 := by
  induction m generalizing lo with
  | nil => simp [memGet]
  | cons c rest ih =>
    obtain ⟨b, v⟩ := c
    simp only [memWfFrom, Bool.and_eq_true, decide_eq_true_eq] at h
    have t := ih h.2
    by_cases e : p b = true
    · simp only [List.filter_cons, e, if_true, memGet, t]
      by_cases ab : a = b
      · subst ab; simp [e]
      · simp only [ab, if_false]
        split <;> split <;> rfl
    · simp only [List.filter_cons, e, memGet]
      rw [if_neg (by simp), t]
      by_cases ab : a = b
      · subst ab; simp [e]
      · simp only [ab, if_false]
        split
        · split
          · next lt => exact memGet_below h.2 (by omega)
          · rfl
        · rfl

/-! ### Operations on the state keep the form -/

@[simp] theorem home_part (s : State) (ws : List ByteWrite) : (s.home ws).part = s.part := by
  unfold State.home; split <;> rfl
@[simp] theorem home_harts (s : State) (ws : List ByteWrite) : (s.home ws).harts = s.harts := by
  unfold State.home; split <;> rfl
@[simp] theorem home_chiplets (s : State) (ws : List ByteWrite) : (s.home ws).chiplets = s.chiplets := by
  unfold State.home; split <;> rfl
@[simp] theorem home_camp (s : State) (ws : List ByteWrite) : (s.home ws).camp = s.camp := by
  unfold State.home; split <;> rfl
@[simp] theorem home_locks (s : State) (ws : List ByteWrite) : (s.home ws).locks = s.locks := by
  unfold State.home; split <;> rfl
@[simp] theorem home_cur (s : State) (ws : List ByteWrite) : (s.home ws).cur = s.cur := by
  unfold State.home; split <;> rfl
@[simp] theorem home_tick (s : State) (ws : List ByteWrite) : (s.home ws).tick = s.tick := by
  unfold State.home; split <;> rfl
@[simp] theorem home_fabric (s : State) (ws : List ByteWrite) : (s.home ws).fabric = s.fabric := by
  unfold State.home; split <;> rfl

/-- Where nothing holds uncorrectable data, a write at its home is a write of memory. -/
theorem home_eq (s : State) (ws : List ByteWrite) (h : s.clean = true) : s.home ws = { s with mem := memPuts s.mem ws } := by
  unfold State.home; rw [if_pos h]

/-- Writes at their homes change no field but the memory, the bad lines and the cores' marks. -/
theorem home_frame (s : State) (ws : List ByteWrite) :
    s.home ws = { s with mem := (s.home ws).mem, badLines := (s.home ws).badLines, cores := (s.home ws).cores } := by
  unfold State.home; split <;> rfl

theorem home_wf (s : State) (h : s.mem.wf = true) (ws : List ByteWrite) : (s.home ws).mem.wf = true := by
  unfold State.home
  split
  · exact memPuts_wf h ws
  · exact memPuts_wf h _

theorem perform_wf (s : State) (h : s.mem.wf = true) (w : QueuedWrite) : (s.perform w).mem.wf = true := by
  unfold State.perform
  split
  · exact home_wf s h _
  · exact h

theorem drain_wf (s : State) (h : s.mem.wf = true) (c : CoreId) (i : Nat) : (s.drain c i).mem.wf = true := by
  unfold State.drain
  split
  · exact h
  · refine perform_wf _ ?_ _
    exact h

theorem drainOne_wf (s : State) (h : s.mem.wf = true) (c : CoreId) : (s.drainOne c).mem.wf = true := by
  unfold State.drainOne
  split
  · exact h
  · exact drain_wf s h c _

theorem makeRoom_wf (n : Nat) (s : State) (h : s.mem.wf = true) (c : CoreId) (w : QueuedWrite) :
    (s.makeRoom c w n).mem.wf = true := by
  induction n generalizing s with
  | zero => exact h
  | succ n ih =>
    unfold State.makeRoom
    split
    · exact h
    · exact ih _ (drainOne_wf s h c)

@[simp] theorem enqueue_mem (s : State) (c : CoreId) (w : QueuedWrite) : (s.enqueue c w).mem = s.mem := rfl

theorem markLeaf_wf (s : State) (h : s.mem.wf = true) (m : PageMark) : (s.markLeaf m).mem.wf = true := by
  unfold State.markLeaf
  dsimp only
  split
  · exact home_wf s h _
  · exact h

@[simp] theorem markAway_mem (s : State) (m : PageMark) : (s.markAway m).mem = s.mem := by
  unfold State.markAway
  dsimp only
  repeat' split
  all_goals rfl

/-- Marking a page keeps the canonical form of memory. -/
theorem markPage_wf (s : State) (h : s.mem.wf = true) (m : PageMark) : (s.markPage m).mem.wf = true := by
  unfold State.markPage
  split
  · exact h
  · rw [markAway_mem]; exact h
  · rw [markAway_mem]; exact h
  · exact markLeaf_wf s h m

theorem usePage_wf (s : State) (h : s.mem.wf = true) (c : CoreId) (m : PageMark) : (s.usePage c m).mem.wf = true :=
  markPage_wf s h m

theorem foldl_wf {α : Type} (f : State → α → State) (k : ∀ s a, s.mem.wf = true → (f s a).mem.wf = true) (l : List α)
    (s : State) (h : s.mem.wf = true) : (l.foldl f s).mem.wf = true := by
  induction l generalizing s with
  | nil => exact h
  | cons a rest ih => exact ih _ (k s a h)

theorem usePages_wf (s : State) (h : s.mem.wf = true) (c : CoreId) (ps : List Place) : (s.usePages c ps).mem.wf = true :=
  foldl_wf _ (fun s t k => usePage_wf s k c t) _ s h

@[simp] theorem leaveHomes_mem (s : State) (g : HartId) : (s.leaveHomes g).mem = s.mem := rfl
@[simp] theorem leaveHomes_harts (s : State) (g : HartId) : (s.leaveHomes g).harts = s.harts := rfl
@[simp] theorem leaveHomes_cores (s : State) (g : HartId) : (s.leaveHomes g).cores = s.cores := rfl
@[simp] theorem leaveHomes_camp (s : State) (g : HartId) : (s.leaveHomes g).camp = s.camp := rfl
@[simp] theorem leaveHomes_cur (s : State) (g : HartId) : (s.leaveHomes g).cur = s.cur := rfl
@[simp] theorem leaveHomes_chiplets (s : State) (g : HartId) : (s.leaveHomes g).chiplets = s.chiplets := rfl
@[simp] theorem leaveHomes_hart (s : State) (g h : HartId) : (s.leaveHomes g).hart h = s.hart h := rfl

/-- With no line locked or released to waiters and no reservation, leaving the homes changes nothing. -/
theorem leaveHomes_none (s : State) (g : HartId) (h : s.locks = []) (r : s.reservations = []) : s.leaveHomes g = s := by
  unfold State.leaveHomes
  rw [h, r]
  cases s
  simp_all

/-- With no line locked, no access waits for one. -/
theorem lockWait_none (s : State) (g : HartId) (ls : List Nat) (h : s.locks = []) : s.lockWait g ls = none := by
  unfold State.lockWait; rw [if_pos h]

theorem lockCheck_none (s : State) (g : HartId) (ps : List Place) (h : s.locks = []) : s.lockCheck g ps = none :=
  lockWait_none s g _ h

@[simp] theorem putBytes_mem (s : State) (o : Bool) (n : Nat) (ws : List ByteWrite) : (s.putBytes o n ws).mem = s.mem := by
  unfold State.putBytes
  dsimp only
  repeat' split
  all_goals rfl

/-! ### Pages used: what stays -/

theorem markPage_harts (s : State) (m : PageMark) : (s.markPage m).harts = s.harts := by
  unfold State.markPage State.markAway State.markLeaf
  dsimp only
  repeat' split
  all_goals first | rfl | exact home_harts s _

theorem usePage_harts (s : State) (c : CoreId) (m : PageMark) : (s.usePage c m).harts = s.harts := markPage_harts s m

theorem markPage_cur (s : State) (m : PageMark) : (s.markPage m).cur = s.cur := by
  unfold State.markPage State.markAway State.markLeaf
  dsimp only
  repeat' split
  all_goals first | rfl | exact home_cur s _

theorem usePage_cur (s : State) (c : CoreId) (m : PageMark) : (s.usePage c m).cur = s.cur := markPage_cur s m

theorem markPage_camp (s : State) (m : PageMark) : (s.markPage m).camp = s.camp := by
  unfold State.markPage State.markAway State.markLeaf
  dsimp only
  repeat' split
  all_goals first | rfl | exact home_camp s _

theorem usePage_camp (s : State) (c : CoreId) (m : PageMark) : (s.usePage c m).camp = s.camp := markPage_camp s m

theorem foldl_field {α β : Type} (g : State → β) (f : State → α → State) (k : ∀ s a, g (f s a) = g s) (l : List α)
    (s : State) : g (l.foldl f s) = g s := by
  induction l generalizing s with
  | nil => rfl
  | cons a rest ih => rw [List.foldl_cons, ih, k]

@[simp] theorem usePages_harts (s : State) (c : CoreId) (ps : List Place) : (s.usePages c ps).harts = s.harts :=
  foldl_field (fun s => s.harts) _ (fun s t => usePage_harts s c t) _ s
@[simp] theorem usePages_cur (s : State) (c : CoreId) (ps : List Place) : (s.usePages c ps).cur = s.cur :=
  foldl_field (fun s => s.cur) _ (fun s t => usePage_cur s c t) _ s
@[simp] theorem usePages_camp (s : State) (c : CoreId) (ps : List Place) : (s.usePages c ps).camp = s.camp :=
  foldl_field (fun s => s.camp) _ (fun s t => usePage_camp s c t) _ s

/-- Places that were found in the translation cache leave everything as it is. -/
theorem usePages_cached (s : State) (c : CoreId) (ps : List Place) (h : ∀ p ∈ ps, p.mark = none) : s.usePages c ps = s := by
  have e : ps.filterMap (fun p => p.mark) = [] := by
    rw [List.filterMap_eq_nil_iff]
    exact h
  unfold State.usePages
  rw [e]
  rfl

end Sys2Proof.Laws
end

