-- ==== Sys2Proof/Laws/Ops.lean ====
section
/-! SUPPORT. What the shared operations do: completion, taking a trap (R343), halting (R99), the failure of a launch
(R404), and the scalar accesses of R86 and R87. -/

namespace Sys2Proof.Laws
open Sys2Proof.Machine

/-! ### Completion -/

/-- An instruction that completes changes its own hart as `f` says, and advances it. -/
theorem finish_eq (s : State) (f : Hart → Hart) : s.finish f = .next (s.setMe (f s.me).advance) := rfl

theorem done_eq (s : State) : s.done = .next (s.setMe s.me.advance) := rfl

theorem trap_eq (s : State) (c : BitVec 7) (v : Word) : s.trap c v = s.trapped c v := rfl

/-- Completion leaves the other harts and every byte of memory. -/
theorem finish_frame (s t : State) (f : Hart → Hart) (h : s.finish f = .next t) :
    s.onlyMe t ∧ t.me = (f s.me).advance ∧ s.sameMemory t ∧ s.sameQueues t ∧ s.sameOthers t ∧ t.cur = s.cur := by
  rw [finish_eq] at h
  injection h with h
  subst h
  refine ⟨?_, me_setMe s _, fun a => rfl, fun c => rfl, fun g n => hart_setHart_ne s _ n, rfl⟩
  unfold State.onlyMe
  rw [me_setMe]

/-! ### Taking a trap -/

@[simp] theorem noteReport_harts (s : State) (h : HartId) (c : BitVec 7) : (s.noteReport h c).harts = s.harts := by
  unfold State.noteReport; split <;> rfl
@[simp] theorem noteReport_mem (s : State) (h : HartId) (c : BitVec 7) : (s.noteReport h c).mem = s.mem := by
  unfold State.noteReport; split <;> rfl
@[simp] theorem noteReport_cores (s : State) (h : HartId) (c : BitVec 7) : (s.noteReport h c).cores = s.cores := by
  unfold State.noteReport; split <;> rfl
@[simp] theorem noteReport_camp (s : State) (h : HartId) (c : BitVec 7) : (s.noteReport h c).camp = s.camp := by
  unfold State.noteReport; split <;> rfl
@[simp] theorem noteReport_cur (s : State) (h : HartId) (c : BitVec 7) : (s.noteReport h c).cur = s.cur := by
  unfold State.noteReport; split <;> rfl
@[simp] theorem noteReport_baseClock (s : State) (h : HartId) (c : BitVec 7) :
    (s.noteReport h c).baseClock = s.baseClock := by
  unfold State.noteReport; split <;> rfl
@[simp] theorem noteReport_hart (s : State) (h g : HartId) (c : BitVec 7) : (s.noteReport h c).hart g = s.hart g :=
  hart_congr (noteReport_harts s h c) g

/-- The state after a trap with INH = 0: the hart has entered its handler, whose first instruction becomes its head in
this clock. -/
theorem trapHart_enter (s : State) (h : HartId) (c : BitVec 7) (v e : Word) (i : (s.hart h).inh = false) :
    s.trapHart h c v e = ((s.noteReport h c).leaveHomes h).setHart h
      { (s.hart h).enterTrap c v e with headAt := (s.core (coreOf h)).cycle.toNat } := by
  unfold State.trapHart
  rw [i, if_neg (by simp), modHart_eq, leaveHomes_hart, noteReport_hart]

/-- The state after a trap with INH = 1. -/
theorem trapHart_halt (s : State) (h : HartId) (c : BitVec 7) (v e : Word) (i : (s.hart h).inh = true) :
    s.trapHart h c v e = (s.noteReport h c).halt h := by
  unfold State.trapHart
  rw [i, if_pos rfl]

@[simp] theorem release_harts (s : State) (h : HartId) : (s.release h).harts = s.harts := rfl
@[simp] theorem release_mem (s : State) (h : HartId) : (s.release h).mem = s.mem := rfl
@[simp] theorem release_camp (s : State) (h : HartId) : (s.release h).camp = s.camp := rfl
@[simp] theorem release_cur (s : State) (h : HartId) : (s.release h).cur = s.cur := rfl
@[simp] theorem release_baseClock (s : State) (h : HartId) : (s.release h).baseClock = s.baseClock := rfl
@[simp] theorem release_hart (s : State) (h g : HartId) : (s.release h).hart g = s.hart g := rfl
@[simp] theorem failLaunch_mem (s : State) (l : Nat) (c : Byte) : (s.failLaunch l c).mem = s.mem := rfl
@[simp] theorem failLaunch_cores (s : State) (l : Nat) (c : Byte) : (s.failLaunch l c).cores = s.cores := rfl
@[simp] theorem failLaunch_chiplets (s : State) (l : Nat) (c : Byte) : (s.failLaunch l c).chiplets = s.chiplets := rfl
@[simp] theorem failLaunch_cur (s : State) (l : Nat) (c : Byte) : (s.failLaunch l c).cur = s.cur := rfl
@[simp] theorem failLaunch_msix (s : State) (l : Nat) (c : Byte) : (s.failLaunch l c).msix = s.msix := rfl

/-- The failure of a launch stops its live harts and changes nothing else of any hart (R404). -/
theorem failLaunch_hart (s : State) (l : Nat) (c : Byte) (h : HartId) :
    (s.failLaunch l c).hart h =
      if ((s.hart h).live && (s.hart h).launch == l) = true then { s.hart h with stopReq := true } else s.hart h := by
  show (s.harts.map _)[h.val] = _
  rw [Vector.getElem_map]
  rfl

/-- Releasing a hart's units leaves every store queue (R96). -/
theorem release_queues (s : State) (h : HartId) : s.sameQueues (s.release h) := by
  intro c
  show ((s.modCore (coreOf h) _).core c).queue = _
  rw [modCore_eq, core_setCore]
  split
  · next e => rw [e]
  · rfl

@[simp] theorem halt_mem (s : State) (h : HartId) : (s.halt h).mem = s.mem := rfl
@[simp] theorem halt_chiplets (s : State) (h : HartId) : (s.halt h).chiplets = s.chiplets := rfl
@[simp] theorem halt_cur (s : State) (h : HartId) : (s.halt h).cur = s.cur := rfl

/-- A trap leaves every byte of memory. -/
@[simp] theorem trapHart_mem (s : State) (h : HartId) (c : BitVec 7) (v e : Word) : (s.trapHart h c v e).mem = s.mem := by
  unfold State.trapHart
  split
  · rw [halt_mem, noteReport_mem]
  · rw [modHart_eq, setHart_mem, leaveHomes_mem, noteReport_mem]

@[simp] theorem trapHart_cur (s : State) (h : HartId) (c : BitVec 7) (v e : Word) : (s.trapHart h c v e).cur = s.cur := by
  unfold State.trapHart
  split
  · rw [halt_cur, noteReport_cur]
  · rw [modHart_eq, setHart_cur, leaveHomes_cur, noteReport_cur]

theorem trapHart_wf (s : State) (k : s.mem.wf = true) (h : HartId) (c : BitVec 7) (v e : Word) :
    (s.trapHart h c v e).mem.wf = true := by rw [trapHart_mem]; exact k

/-- Another hart keeps its registers through a trap at INH = 0. -/
theorem trapHart_other (s : State) (h g : HartId) (c : BitVec 7) (v e : Word) (i : (s.hart h).inh = false) (n : g ≠ h) :
    (s.trapHart h c v e).hart g = s.hart g := by
  rw [trapHart_enter s h c v e i, hart_setHart_ne _ _ n, leaveHomes_hart, noteReport_hart]

/-! ### Scalar accesses (R87) -/

/-- A load whose access may perform, with no uncorrectable data among the bytes it reads, hands its bytes on, in the state
in which its pages are used (R86, R87, R198). -/
theorem load_ready {s : State} {n : Nat} {ea : Word} {w : BitVec 32} {ps : List Place} (k : State → Nat → Out)
    (r : s.AccessReady .read .opened n ea w ps) (l : s.readError s.cur ps = none) :
    s.load n ea w k = k (s.usePages (coreOf s.cur) ps).step1
      (leNat (ps.map (fun p => (s.usePages (coreOf s.cur) ps).fetchByte s.cur p.pa))) := by
  have c1 : ¬ (2 ^ 48 ≤ ea.toNat ∨ 2 ^ 48 ≤ (ea + BitVec.ofNat 64 (n - 1)).toNat) := by
    have := r.low
    have := r.high
    omega
  have c2 : ¬ (ea.toNat % n ≠ 0) := fun e => e r.aligned
  unfold State.load
  rw [if_neg c1, if_neg c2, r.places]
  simp only [r.belay, r.locks, l, State.remoteGate, r.own]

/-- A store whose probe is done, whose first part finds room and goes to no other module, and which no FENCE holds, performs
its parts in the state in which its pages are used. -/
theorem startStore_ready {s : State} {ps : List Place} {o : Bool} {parts : List (List ByteWrite)}
    {stop : Option (Nat × BitVec 7 × Word)} (k : State → Option (Nat × BitVec 7 × Word) → Out)
    (f : s.fencePending = false ∨ ∀ p ∈ parts, p.any s.goesOut = false)
    (g : (s.roomFor o s.group (parts.headD [])).hasRoom o s.group (parts.headD []) = true) :
    s.startStore ps o parts stop k = ((s.roomFor o s.group (parts.headD [])).usePages (coreOf s.cur) ps).goOn
      { parts := parts, group := s.group, ordered := o, away := false, pins := s.pinsOf (s.ctx s.cur) .write ps, stop := stop }
      k := by
  have e : (s.fencePending && parts.any (fun p => p.any s.goesOut)) = false := by
    rcases f with f | f
    · simp [f]
    · rw [Bool.and_eq_false_iff]
      exact Or.inr (List.any_eq_false.mpr (fun p m => by simpa using f p m))
  have n : (!(parts.headD []).any (fun w => isRemote w.pa) &&
      !(s.roomFor o s.group (parts.headD [])).hasRoom o s.group (parts.headD [])) = false := by rw [g]; simp
  unfold State.startStore
  dsimp only
  rw [e, n, if_neg (by simp), if_neg (by simp)]

end Sys2Proof.Laws
end

