-- ==== Sys2Proof/Tests/Slice0.lean ====
section
/-! SUPPORT. Small tests on fixed values, and for each statement with hypotheses a state that meets them. Expected
words are written out from Tables 2.1 to 2.7; expected results are worked from the rules by hand. -/

open Sys2Proof Sys2Proof.Machine

namespace Sys2Proof.Tests

set_option Elab.async false

/-! ### Helpers -/

/-- An outcome is a next state. -/
def goesOn : Out → Bool
  | .next _ => true
  | _ => false

/-- The value a next state gives. -/
def after {α : Type} (o : Out) (f : State → α) : Option α :=
  match o with
  | .next t => some (f t)
  | _ => none

/-- An outcome is the entry of a trap with a cause and a tval. -/
def trapsWith (o : Out) (c : BitVec 7) (v : Word) : Bool := after o (fun t => (t.me.cause, t.me.tval)) == some (c, v)

/-- The places an access is located at, none when it is not. -/
def placed : Except Stop (List Place) → List Place
  | .ok ps => ps
  | .error _ => []

/-- An access was located. -/
def located : Except Stop (List Place) → Bool
  | .ok _ => true
  | .error _ => false

theorem located_placed {e : Except Stop (List Place)} (h : located e = true) : e = .ok (placed e) := by
  cases e with
  | ok _ => rfl
  | error _ => cases h

/-- The cause and tval in which a located access ended instead. -/
def stopped {α : Type} : Except Stop α → Option (BitVec 7 × Word)
  | .error (.trap c v) => some (c, v)
  | _ => none

/-- A hart that runs with register x1 = 0x1000, x2 = 7, x3 = 5. -/
def h0 : Hart :=
  { Hart.initial with status := .running, x := ((Hart.initial.x.set 1 0x1000).set 2 7).set 3 5 }

/-- Core 0 in service, virtual page 0 (big) translated to frame 0 with A and D set, hart 0 the given one. -/
def at0 (h : Hart) : State :=
  let s := State.reset.modChiplet 0 (fun c => { c with st := .full })
  let s := s.modCore 0 (fun c => { c with tcache := [{ asid := 0, vpn := 0, big := true, pte := 0xDF, pteAddr := 0x208000 }] })
  s.setHart 0 h

/-- `at0` with bytes 1, 2, ..., 64 from physical address 0x1000. -/
def mem0 (h : Hart) : State :=
  let s := at0 h
  { s with mem := memPuts s.mem (writesAt 0x1000 ((List.range 64).map (fun i => BitVec.ofNat 8 (i + 1)))) }

/-- What `VectorReady` asks of a hart without a copying prefix, as one proposition to decide. -/
abbrev ReadyNow (h : Hart) (kindOk : Bool) (groups : List Reg) : Prop :=
  (h.vl ≠ 0 ∧ h.vtype.getLsbD 20 = false ∧ kindOk = true) ∧ (∀ r ∈ groups, r.toNat % 2 ^ h.vt.ig = 0) ∧
    h.copyReg = none ∧ h.vstart.toNat < h.vl.toNat ∧ h.marks = []

theorem ReadyNow.ready {h : Hart} {k : Bool} {g : List Reg} {w : Bool} (hr : ReadyNow h k g) : h.VectorReady k g w where
  vl := hr.1.1
  legal := hr.1.2.1
  kind := hr.1.2.2
  aligned := hr.2.1
  copy := fun _ d2 hd => by rw [hr.2.2.1] at hd; cases hd
  start := hr.2.2.2.1
  marks := hr.2.2.2.2

/-- What `AccessReady` asks, as one proposition to decide. -/
abbrev AccessNow (s : State) (a : Acc) (hu : HostUse) (n : Nat) (ea : Word) (w : BitVec 32) (ps : List Place) : Prop :=
  s.me.remote = .idle ∧ (ea.toNat < 2 ^ 48 ∧ (ea + BitVec.ofNat 64 (n - 1)).toNat < 2 ^ 48 ∧ ea.toNat % n = 0) ∧
    (let e := s.locateAll (s.ctx s.cur) a hu ea n
     located e = true ∧ placed e = ps) ∧
    ((s.belayCheck s.cur a w ps).isNone = true ∧ (s.lockCheck s.cur ps).isNone = true) ∧ (remoteOf ps).isNone = true ∧
    s.mem.wf = true

theorem AccessNow.ready {s : State} {a : Acc} {hu : HostUse} {n : Nat} {ea : Word} {w : BitVec 32} {ps : List Place}
    (h : AccessNow s a hu n ea w ps) : s.AccessReady a hu n ea w ps where
  idle := h.1
  low := h.2.1.1
  high := h.2.1.2.1
  aligned := h.2.1.2.2
  places := by rw [located_placed h.2.2.1.1, h.2.2.1.2]
  belay := Option.isNone_iff_eq_none.mp h.2.2.2.1.1
  locks := Option.isNone_iff_eq_none.mp h.2.2.2.1.2
  own := Option.isNone_iff_eq_none.mp h.2.2.2.2.1
  canonical := h.2.2.2.2.2

/-- What `AccessAway` asks, as one proposition to decide. -/
abbrev AwayNow (s : State) (a : Acc) (n : Nat) (ea : Word) (w : BitVec 32) (ps : List Place) (pa : Nat) : Prop :=
  (ea.toNat < 2 ^ 48 ∧ (ea + BitVec.ofNat 64 (n - 1)).toNat < 2 ^ 48 ∧ ea.toNat % n = 0) ∧
    (let e := s.locateAll (s.ctx s.cur) a .opened ea n
     located e = true ∧ placed e = ps) ∧
    ((s.belayCheck s.cur a w ps).isNone = true ∧ (s.lockCheck s.cur ps).isNone = true) ∧ remoteOf ps = some pa

theorem AwayNow.away {s : State} {a : Acc} {n : Nat} {ea : Word} {w : BitVec 32} {ps : List Place} {pa : Nat}
    (h : AwayNow s a n ea w ps pa) : s.AccessAway a n ea w ps pa where
  low := h.1.1
  high := h.1.2.1
  aligned := h.1.2.2
  places := by rw [located_placed h.2.1.1, h.2.1.2]
  belay := Option.isNone_iff_eq_none.mp h.2.2.1.1
  locks := Option.isNone_iff_eq_none.mp h.2.2.1.2
  away := h.2.2.2

/-- A hart with a live prefix: condition, copy bit and copy register given. -/
def prefixed (c : Bool) (cp : BitVec 1) (d2 : Reg) : Hart :=
  { h0 with pfxLive := true, pfxst := { Pfxst.zero with pend := true, c := c, cp := cp, d2 := d2 } }

/-- A launch record of a plain launch with one hart. -/
def rec0 : LaunchRec :=
  { entry := 0x400, args := 0x500, save := 0, done := 0x8000, lavl := 0, savl := 0, rop := 0, rn := 0, blk := 0,
    strips := 0, kind := 0, prio := 0, asid := 0, team := 1, cores := 1 }
/-- Launch 0 of queue 1 with that record. -/
def launch0 : Launch :=
  { ident := 0, queue := 1, record := rec0, retired := 0, failed := none, failedAt := 0, nextDeal := 0, redeal := [],
    stripFloor := 0, committedAbove := [], count := 0, opens := [], deposits := [], ropeFloor := 0, postedAbove := [],
    lostRanks := [], cairn := none }
/-- A state in which a launch is in progress. -/
def withLaunch (s : State) (x : Launch) : State := { s with camp := { s.camp with launches := [x], nextIdent := 1 } }

/-- A hart that may take each interrupt. -/
def listening : Hart := { h0 with sr := 0x0704 }

/-- The place of a byte of virtual page 0, which is frame 0. -/
def place (a : Nat) : Place := { va := BitVec.ofNat 64 a, pa := a, glob := false, big := true, home := 0, mark := none }
/-- The n bytes from 0x1000 as places without marks. -/
def places (n : Nat) : List Place := (List.range n).map (fun i => place (0x1000 + i))

/-- A hart with 8-bit elements of an integer kind (0 signed, 1 unsigned), vl = 5, v4 = 1, 2, 3, 4, 5 and v8 = 250, 3,
250, 3, 250 at width 8, k1 = 0b01011. -/
def vec (vtype : BitVec 21) : Hart :=
  let v4 : VReg := { VReg.zero with planes := ((VReg.zero.planes.set 0 0b10101).set 1 0b00110).set 2 0b11000 }
  let v8 : VReg := { VReg.zero with planes := (((((((VReg.zero.planes.set 0 0b01010).set 1 0b11111).set 3 0b10101).set 4
    0b10101).set 5 0b10101).set 6 0b10101).set 7 0b10101) }
  { h0 with vtype := vtype, vl := 5, v := (h0.v.set 4 v4).set 8 v8, k := h0.k.set 1 0b01011 }

/-- A state whose module has ID 0, a trained port 2 and a route to module 1, with the executing hart given. -/
def linked (h : Hart) : State :=
  let s := at0 h
  { s with
    mgmt := { s.mgmt with powered := true, base := true, stage := 5 }
    fabric := { s.fabric with en := true, done := true, up := 4, routes := s.fabric.routes.set 1 (some 2) } }
/-- The same with page 1 translated to module 1. -/
def linked1 (h : Hart) : State :=
  (linked h).modCore 0 (fun c => { c with tcache := c.tcache ++
    [{ asid := 0, vpn := 0x1000, big := false, pte := 0x00001000000000DF, pteAddr := 0x208008 }] })

/-- A good record at 0x1000: a plain launch of one hart with DONE at 0x8000, of address space 0. -/
def recorded (h : Hart) : State :=
  let w := [0x400, 0, 0, 0x8000, 0, 0, 0x100000001, 0].flatMap (fun n => leBytes 8 n)
  let s := at0 h
  { s with mem := memPuts s.mem (writesAt 0x1000 w ++ writesAt 0x10000 (leBytes 8 1)), camp := { s.camp with astab := 0x10000 } }
/-- The base die is ready, and entry 0 of the address-space table at 0x10000 is valid. -/
def hosted : State :=
  let s := recorded h0
  { s with mgmt := { s.mgmt with powered := true, base := true, stage := 5 } }
/-- A queue that holds 256 records. -/
def crowded : State := (recorded h0).modQueue 5 (fun q => { q with records := List.replicate 256 { record := rec0, headAt := 0 } })
/-- Launch 0, with a save area, on hart 0. -/
def savable (h : Hart) : State :=
  withLaunch (at0 h) { launch0 with record := { rec0 with save := 0x10000 } }

/-- A farm of ten strips of 100 elements each, the last of 40: belayed (1) or roped (2), with two deposit slots. -/
def farmRec (kind : BitVec 2) : LaunchRec :=
  { rec0 with savl := 100, lavl := 40, strips := 10, kind := kind, rn := 2, blk := 4 }
/-- Launch 0 of such a farm with strip 3 next, and its open strip if one is given. -/
def farm (kind : BitVec 2) (o : List OpenStrip) : Launch :=
  { launch0 with record := farmRec kind, nextDeal := 3, stripFloor := 2, count := 2, opens := o, ropeFloor := 200 }
/-- Strip 2 open for rank 0, nothing posted of it yet. -/
def strip2 : OpenStrip := { strip := 2, rank := 0, staged := [], deposits := [], post := 200, stop := 300, bad := [] }
/-- Hart 0 of that farm. -/
def farming (kind : BitVec 2) (o : List OpenStrip) (h : Hart) : State := withLaunch (at0 h) (farm kind o)

/-- The bytes at addresses can be reached with no page marked, and those of a write with none queued. -/
def reached (f : Word → Option Place) (ok : Place → Bool) (vas : List Word) : Bool :=
  vas.all (fun va => (f va).any (fun p => p.mark.isNone && ok p))

theorem reached_place {f : Word → Option Place} {ok : Place → Bool} {vas : List Word} (h : reached f ok vas = true)
    {va : Word} (hv : va ∈ vas) : ∃ p, f va = some p ∧ p.mark = none ∧ ok p = true := by
  have hp := List.all_eq_true.mp h va hv
  cases hf : f va with
  | none => simp [hf] at hp
  | some p => exact ⟨p, rfl, by simpa [hf] using hp⟩

theorem reached_unmarked {f : Word → Option Place} {ok : Place → Bool} {vas : List Word} (h : reached f ok vas = true)
    (a : Nat) : ¬ markedBy f vas a := by
  rintro ⟨va, hv, p, m, hf, hm, -⟩
  obtain ⟨q, hq, hn, -⟩ := reached_place h hv
  rw [hf] at hq
  cases hq
  rw [hn] at hm
  cases hm

theorem reached_apart {s : State} {vas : List Word} (h : reached s.readPlace (fun _ => true) vas = true) :
    s.readsApart vas := fun _ hv =>
  let ⟨p, hp, _⟩ := reached_place h hv
  ⟨p, hp, reached_unmarked h p.pa⟩

/-! ### Ill-formed terms, one for each check -/

theorem test_pfx_d2_without_copy : (Instr.pfx 9 0 0 20).wellFormed = false := by decide
theorem test_loop_of_no_words : (Instr.loop 3 0).wellFormed = false := by decide
theorem test_unassigned_control_registers :
    (Instr.csrr 1 0x00B).wellFormed = false ∧ (Instr.csrw 1 0x014).wellFormed = false ∧
    (Instr.csrs 1 0x025).wellFormed = false ∧ (Instr.csrc 1 0x080).wellFormed = false ∧
    (Instr.csrrw 1 2 0x209).wellFormed = false := by decide
theorem test_wait_on_rope_is_no_token_wait : (Instr.waitBarrier 1 2 0).wellFormed = false := by decide
theorem test_masks_that_may_not_be_k0 :
    (Instr.vmerge 4 8 (.vec 12) 0).wellFormed = false ∧ (Instr.vcompress 4 8 0).wellFormed = false ∧
    (Instr.vexpand 4 8 0).wellFormed = false := by decide
theorem test_vldp_of_one_plane_field_zero : (Instr.vldp 4 5 0 0).wellFormed = false := by decide


/-! ### Words: those of Example 2.2, then one or more for each family, bit by bit from Tables 2.3 to 2.7 -/

theorem test_words_of_example_2_2 :
    decodeTableWord 32 0x094B6000 = some (.add 10 11 12) ∧ decodeTableWord 32 0x68A27FF8 = some (.ldd 5 2 0x1FF8) ∧
    decodeTableWord 32 0x28A10040 = some (.li 5 1 0x40) ∧ decodeTableWord 32 0x2CA27FF0 = some (.lik 5 2 0x7FF0) ∧
    decodeTableWord 32 0x053D0000 = some (.pfx 9 1 1 20) ∧ decodeTableWord 32 0x08A63800 = some (.add 5 6 7) ∧
    decodeTableWord 32 0x44A00002 = some (.bne 5 0 2) ∧ decodeTableWord 32 0x0C000000 = some (.addi 0 0 0) ∧
    decodeTableWord 32 0x7C000006 = some .retire ∧ decodeTableWord 32 0x90643A40 = some (.vadd 3 4 (.scalar 7) 2) := by
  decide +kernel
theorem test_alu_words :
    decodeTableWord 32 0b000010_00111_00100_00101_000000_00001 = some (.sub 7 4 5) ∧
    decodeTableWord 32 0b000010_00111_00100_00101_000000_01000 = some (.sra 7 4 5) ∧
    decodeTableWord 32 0b000010_00111_00100_00101_000000_11100 = some (.bins 7 4 5) ∧
    decodeTableWord 32 0b000010_00111_00100_00000_000000_11000 = some (.clz 7 4) := by decide +kernel
theorem test_shift_immediate_words :
    decodeTableWord 32 0b001001_00001_00010_00000000_00_111111 = some (.slli 1 2 63) ∧
    decodeTableWord 32 0b001001_00001_00010_00000000_10_000001 = some (.srai 1 2 1) := by decide +kernel
theorem test_branch_words :
    decodeTableWord 32 0b010010_00001_00010_1111111111111111 = some (.blt 1 2 0xFFFF) ∧
    decodeTableWord 32 0b010110_01_011_00000_0000000000000010 = some (.bmany 3 2) ∧
    decodeTableWord 32 0b011000_00000_00001_0000000000000000 = some (.jalr 0 1 0) ∧
    decodeTableWord 32 0b011001_00111_00000_0000000000000011 = some (.loop 7 3) := by decide +kernel
theorem test_memory_words :
    decodeTableWord 32 0b011010_00001_00010_110_0000000000100 = some (.ldwu 1 2 4) ∧
    decodeTableWord 32 0b011011_00001_00010_000_1111111111111 = some (.stb 1 2 0x1FFF) ∧
    decodeTableWord 32 0b011110_00001_00010_000_0000000000100 = some (.flw 1 2 4) ∧
    decodeTableWord 32 0b011110_00001_00010_011_0000000000100 = some (.fsd 1 2 4) := by decide +kernel
theorem test_amo_words :
    decodeTableWord 32 0b011100_00001_00010_00011_00_1_11_11_1001 = some (.amocas 1 2 3 .d .s .ar) ∧
    decodeTableWord 32 0b011100_00001_00010_00011_00_0_10_01_0110 = some (.amominu 1 2 3 .w .p .acq) := by decide +kernel
theorem test_fpu_words :
    decodeTableWord 32 0b011101_00001_00010_00011_000_100_1_0101 = some (.ffma 1 2 3 .rmm .d) ∧
    decodeTableWord 32 0b011101_00001_00010_00000_011_001_0_1011 = some (.fcvtLF 1 2 .rtz .s) ∧
    decodeTableWord 32 0b011101_00001_00010_00011_000_000_1_1001 = some (.flt 1 2 3 .d) := by decide +kernel
theorem test_system_words :
    decodeTableWord 32 0b011111_00000_00000_00000_0000101_0000 = some (.trap 5) ∧
    decodeTableWord 32 0b011111_00000_00000_00000_000_10_11_0011 = some (.fence .w .s) ∧
    decodeTableWord 32 0b100000_00101_00010_100_0_001000000010 = some (.csrrw 5 2 0x202) := by decide +kernel
theorem test_sync_words :
    decodeTableWord 32 0b100001_00001_00010_00011_0000000_0101 = some (.waitm 1 2 3) ∧
    decodeTableWord 32 0b100001_00001_00010_00011_0000000_0011 = some (.bara 1 2 3) ∧
    decodeTableWord 32 0b100001_00000_00010_00000_0000000_0001 = some (.waitRope 2) := by decide +kernel
theorem test_vector_configuration_words :
    decodeTableWord 32 0b100010_00001_00010_00000_0000000_0001 = some (.settype 1 2) ∧
    decodeTableWord 32 0b100010_00001_00000_00000_0000000_0011 = some (.endstrip 1) := by decide +kernel
theorem test_vint_words :
    decodeTableWord 32 0b100100_01000_00100_11111_001_10_000010 = some (.vrsub 8 4 (.imm 0x1F) 1) ∧
    decodeTableWord 32 0b100100_01000_00000_00000_111_00_010110 = some (.vid 8 7) := by decide +kernel
theorem test_vfp_words :
    decodeTableWord 32 0b100101_01000_00100_00000_000_00_001000 = some (.vfexp2 8 4 0) ∧
    decodeTableWord 32 0b100101_01000_00100_00110_000_00_000100 = some (.vffma 8 4 (.vec 6) 0) := by decide +kernel
theorem test_mask_words :
    decodeTableWord 32 0b100110_00010_00011_00100_000_00_010000 = some (.kand 2 3 4) ∧
    decodeTableWord 32 0b100110_01001_00011_00000_010_00_010110 = some (.kpopc 9 3 2) := by decide +kernel
theorem test_permutation_words :
    decodeTableWord 32 0b100111_01000_00100_00000_011_00_000000 = some (.vcompress 8 4 3) ∧
    decodeTableWord 32 0b100111_01000_00100_00101_000_10_000010 = some (.vslideup 8 4 (.imm 5) 0) := by decide +kernel
theorem test_reduction_words :
    decodeTableWord 32 0b101000_00011_01000_00100_000_01_001001 = some (.vfredmin 3 8 4 0) ∧
    decodeTableWord 32 0b101000_00000_00100_00000_000_00_001100 = some (.rshsave 4) := by decide +kernel
theorem test_conversion_words :
    decodeTableWord 32 0b101001_00100_01000_00010_000_01_000001 = some (.vquant 4 8 2) := by decide +kernel
theorem test_vector_memory_words :
    decodeTableWord 32 0b101010_00100_01010_01100_000_01_00_0000 = some (.vlds 4 10 12 0) ∧
    decodeTableWord 32 0b101010_00100_01010_00110_010_10_00_0000 = some (.vldx 4 10 6 2) ∧
    decodeTableWord 32 0b101010_00100_01010_00000_000_00_11_0011 = some (.vldp 4 10 0 3) ∧
    decodeTableWord 32 0b101011_00100_01010_00110_000_11_00_0000 = some (.vstxu 4 10 6 0) ∧
    decodeTableWord 32 0b101100_00100_01010_00110_001_0110_1_000 = some (.vamoswap 4 10 6 1 1) ∧
    decodeTableWord 32 0b101101_00_011_01010_011_0000000001000 = some (.kst 3 10 8) := by decide +kernel
theorem test_tile_words :
    decodeTableWord 32 0b110000_1_00000_00000_000_000_00000_0010 = some (.mzero 1) ∧
    decodeTableWord 32 0b110000_0_00101_00110_000_000_00000_0100 = some (.tshape 5 6) ∧
    decodeTableWord 32 0b110010_1_00100_00101_010_000_1_1_0000000 = some (.mwr 1 4 5 2 1) := by decide +kernel
theorem test_engine_words :
    decodeTableWord 32 0b110100_00010_00101_00000_0000000_0011 = some (.cpyw 2 5) ∧
    decodeTableWord 32 0b110101_00010_00101_00110_0000_111_0001 = some (.wvstep 2 5 6 7) ∧
    decodeTableWord 32 0b110110_00001_00101_00110_0000000_0000 = some (.farm 1 5 6) ∧
    decodeTableWord 32 0b110111_00100_00101_00110_0000000_0000 = some (.rscat 4 5 6) := by decide +kernel

/-- Words that checks 1 to 3 of Table 2.2 reject, each for the named reason. -/
theorem test_rejected_words :
    decodeWord .p8840 0x00000000 = .error .illegalOp ∧ decodeWord .p8810 0x37 = .error .illegalOp ∧
    decodeWord .p8820 0xD4000000 = .error .noUnit ∧ decodeWord .p8840 0x08000400 = .error .illegalField ∧
    decodeWord .p8840 0x64070000 = .error .illegalField ∧ decodeWord .p8840 0x04010000 = .error .illegalField := by
  decide +kernel
theorem test_descriptor_register_words : csrAssigned 0x07F = true ∧ csrAssigned 0x080 = false ∧ csrAssigned 0x110 = true := by
  decide

/-- A word's instruction has that word and is well formed (the hypotheses of the two encoding statements). -/
theorem witness_encoding :
    (Instr.add 10 11 12).wellFormed = true ∧ encode (.add 10 11 12) = some 0x094B6000 ∧
    majorAbsent .p8840 (fOp 0x094B6000).toNat = false ∧ decodeWord .p8840 0x094B6000 = .ok (.add 10 11 12) := by
  decide +kernel


/-! ### Steps -/

/-- A state with canonical memory steps to a next state. -/
theorem witness_step_keeps_memory :
    ((State.reset.withFetchWord 32 0x094B6000).mem.wf && goesOn (step (State.reset.withFetchWord 32 0x094B6000))) = true := by
  decide +kernel

/-- Hart 0 at pc 0 of a core whose instruction cache holds `add x10, x11, x12` there, its clock next. -/
def fetching : State :=
  let s := (at0 h0).modCore 0 (fun c => { c with icache := (List.range 32).map (fun i => (4 * i, 0x094B6000)) })
  { s with agenda := [.clock 0 1 0] }

theorem witness_step_runs_decoded :
    let s := State.reset.withFetchWord 32 0x094B6000
    let s0 := { s with agenda := [] }.passClock 0
    let s1 := (s0.countWaits 0 (s0.readyHarts 0 1 []) (some 0)).turnOf 0 0
    s.agenda = [.clock 0 1 0] ∧ s0.inService (chipletOf 0) = true ∧ (∀ n : Fin 4, (s0.dueAt (hartOf 0 n)).isNone = true) ∧
    s0.firstReady (s0.readyHarts 0 1 []) = some 0 ∧
    (match s1.fetch 0 with
      | .word w t => w == 0x094B6000 && !t.pairBad w (.add 10 11 12) && !t.me.pfxLive
      | .stop _ => false) = true ∧
    decodeWord s.part 0x094B6000 = .ok (.add 10 11 12) ∧ isPrivileged (.add 10 11 12) = false := by decide +kernel
theorem witness_settled_harts :
    (at0 { h0 with held := true }).me.held = true ∧ (at0 h0).me.held = false ∧ (at0 h0).me.remote = .idle := by decide +kernel
theorem test_step_adds :
    after (step ((State.reset.withFetchWord 32 0x094B6000).modHart 0 (fun h => { h with x := (h.x.set 11 40).set 12 2 })))
      (fun t => (t.me.xr 10, t.me.pc, t.cur)) = some (42, 4, 0) := by decide +kernel


/-! ### Checks before execution (Table 2.2, R189, R194) -/

theorem witness_pair_checks :
    (at0 (prefixed true 0 0)).pairBad 0x44A00002 (.bne 5 0 2) = true ∧
    decodeWord .p8840 0x44A00002 = .ok (.bne 5 0 2) ∧
    (at0 (prefixed true 1 8)).pairBad 0x08A63800 (.add 5 6 7) = false ∧
    (at0 (prefixed false 0 0)).me.pfxLive = true ∧ (at0 (prefixed false 0 0)).me.pfxst.c = false ∧
    (at0 (prefixed false 0 0)).pairBad 0x08A63800 (.add 5 6 7) = false ∧ isPrivileged (.add 5 6 7) = false := by
  decide +kernel
theorem witness_privilege_check :
    isPrivileged .tret = true ∧ (at0 h0).me.supervisor = false ∧ (at0 h0).pairBad 0x7C000001 .tret = false ∧
    decodeWord .p8840 0x7C000001 = .ok .tret := by decide +kernel
theorem witness_rejected_majors :
    majorReserved (fOp 0x00000000).toNat = true ∧ majorReserved (fOp 0xFC000000).toNat = true ∧
    majorReserved (fOp 0xD4000000).toNat = false ∧ majorAbsent .p8820 (fOp 0xD4000000).toNat = true ∧
    majorReserved (fOp 0x08000400).toNat = false ∧ majorAbsent .p8840 (fOp 0x08000400).toNat = false ∧
    decodeMajor 0x08000400 = none := by decide +kernel
theorem witness_fetch_faults :
    2 ^ 48 ≤ (at0 { h0 with pc := 0x1000000000000 }).me.pc.toNat ∧
    (at0 { h0 with pc := 0x7FF000000000 }).me.pc.toNat < 2 ^ 48 ∧
    isLocal (at0 { h0 with pc := 0x7FF000000000 }).me.pc.toNat = true := by decide +kernel
/-- A hart at pc 0x1000 whose core caches no translation, with a table at 0x200000 that leads to a page entry. -/
def fetchWalk (pte : Nat) (ptbase : Word) : State :=
  let s := (at0 { h0 with pc := 0x1000, ptbase := ptbase }).modCore 0 (fun c => { c with tcache := [] })
  { s with mem := memPuts s.mem (writesAt 0x200000 (leBytes 8 0x208001) ++ writesAt 0x208000 (leBytes 8 pte)) }
/-- The entry a fetch of `fetchWalk` ends at, with its X and U bits and whether its page exists. -/
def fetchLeaf (s : State) : Option (Bool × Bool × Bool) :=
  match s.walk (s.walkStop s.cur s.me.pc.toNat) (s.me.ptbase.toNat / 2 ^ 15) s.me.pc.toNat with
  | .leaf pte _ big =>
    let pa := pte.toNat / 2 ^ 15 % 2 ^ 37 * 2 ^ 15 + s.me.pc.toNat % (if big then 2 ^ 27 else 2 ^ 15)
    some (pte.getLsbD 3, pte.getLsbD 4, mappable s.part (pa / 2 ^ 15 * 2 ^ 15))
  | _ => none
theorem witness_fetch_walks :
    let s := fetchWalk 0xDF 0x200000
    s.me.pc.toNat < 2 ^ 48 ∧ isLocal s.me.pc.toNat = false ∧ s.me.pins = [] ∧ s.myCore.tcache = [] ∧
    s.me.supervisor = false ∧ fetchLeaf (fetchWalk 0xCF 0x200000) = some (true, false, true) ∧
    fetchLeaf (fetchWalk 0xD7 0x200000) = some (false, true, true) ∧
    (match (fetchWalk 0xDF 0x300000).walk ((fetchWalk 0xDF 0x300000).walkStop 0 0x1000) (0x300000 / 2 ^ 15) 0x1000 with
      | .invalid => true
      | _ => false) = true := by decide +kernel
theorem test_fetch_faults_of_a_walk :
    trapsWith (exec .fetchFault (fetchWalk 0xCF 0x200000)) 0x23 0x1000 = true ∧
    trapsWith (exec .fetchFault (fetchWalk 0xD7 0x200000)) 0x22 0x1000 = true := by decide +kernel
theorem witness_forbidden_successors :
    let dest := packM13 0x1B 6 1 3 0
    decodeWord .p8840 dest = .ok (.std 6 1 0) ∧ (at0 (prefixed true 1 0)).pairBad dest (.std 6 1 0) = true ∧
    namesNoDestination (.std 6 1 0) = true ∧ (at0 (prefixed true 0 0)).pairBad dest (.std 6 1 0) = false ∧
    namesMaskDestination (.vcmpeq 1 4 (.vec 12) 0) = true ∧
    (at0 (prefixed true 1 8)).pairBad 0b100110_00001_00100_01100_000_00_000000 (.vcmpeq 1 4 (.vec 12) 0) = true ∧
    (at0 (prefixed true 1 7)).pairBad 0b100110_00001_00100_01100_000_00_000000 (.vcmpeq 1 4 (.vec 12) 0) = false ∧
    isPrivileged (.csrr 1 0x208) = true ∧ isPrivileged (.csrr 1 0x024) = false ∧ isPrivileged (.csrw 1 0x110) = true ∧
    isPrivileged (.ctxl 1) = true := by decide +kernel
theorem test_skipped_successor :
    after ((at0 (prefixed false 1 8)).runWord 0x08A63800) (fun t => (t.me.pc, t.me.pfxLive, t.me.xr 8)) =
      some (4, false, 0) := by decide +kernel
theorem test_pair_trap :
    after ((at0 { prefixed true 0 0 with pc := 0x104 }).runWord 0x44A00002)
      (fun t => (t.me.epc, t.me.cause, t.me.tval, t.me.pfxst.pend)) = some (0x100, 0x03, 0x44A00002, false) := by
  decide +kernel


/-! ### Traps (chapter 13) -/

theorem witness_trap_entry :
    (at0 h0).me.inh = false ∧ (at0 { h0 with sr := 0x0010 }).me.inh = true ∧
    ((withLaunch (at0 { h0 with sr := 0x0010 }) launch0).launch 0).map (fun l => l.failed) = some none := by decide +kernel
theorem test_trap_status :
    ((at0 { h0 with sr := 0x0704, tvec := 0x300 }).trapHart 0 0x08 5 0x44).me.sr = 0x0719 ∧
    ((at0 { h0 with sr := 0x0704, tvec := 0x300 }).trapHart 0 0x08 5 0x44).me.pc = 0x300 := by decide +kernel
theorem test_double_trap_fails_launch :
    ((withLaunch (at0 { h0 with sr := 0x0010 }) launch0).trapHart 0 0x08 5 0x44).me.status = .halted ∧
    (((withLaunch (at0 { h0 with sr := 0x0010 }) launch0).trapHart 0 0x08 5 0x44).launch 0).map (fun l => l.failed) =
      some (some 0x05) := by decide +kernel
theorem witness_tret_targets :
    (at0 { h0 with epc := 0x104 }).me.epc.toNat % 4 = 0 ∧ (at0 { h0 with epc := 0x106 }).me.epc.toNat % 4 ≠ 0 := by
  decide +kernel
theorem test_trap_completes_first :
    after (exec (.trap 5) (at0 { h0 with pc := 0x40 })) (fun t => (t.me.epc, t.me.cause, t.me.tval)) =
      some (0x44, 0x08, 5) := by decide +kernel
theorem test_tret_status :
    after (exec .tret (at0 { h0 with sr := 0x0019, epc := 0x104 })) (fun t => (t.me.sr, t.me.pc)) =
      some (0x000C, 0x104) := by decide +kernel

theorem witness_interrupts :
    let s := at0 { listening with hostSig := true, satEvp := true, alarm := 1 }
    let t := at0 { listening with satEvp := true }
    let u := (at0 { listening with alarm := 1 }).modCore 0 (fun c => { c with cycle := 1 })
    s.me.status = .running ∧ s.me.remote = .idle ∧ s.me.held = false ∧ s.me.inh = false ∧ s.me.ie = true ∧ s.me.stopReq = false ∧
    s.reportDue 0 = false ∧ s.preemptDue 0 = false ∧ s.me.hostSig = true ∧ s.me.sr.getLsbD 9 = true ∧
    t.me.hostSig = false ∧ t.me.satEvp = true ∧ t.me.sr.getLsbD 10 = true ∧ t.reportDue 0 = false ∧
    u.me.satEvp = false ∧ u.me.alarm ≠ 0 ∧ u.me.alarm.toNat ≤ (u.core (coreOf 0)).cycle.toNat ∧
    u.me.sr.getLsbD 8 = true ∧ u.preemptDue 0 = false ∧
    (at0 { h0 with sr := 0x0010 }).me.inh = true ∧ (at0 { h0 with sr := 0 }).me.ie = false := by decide +kernel
theorem witness_reports :
    (at0 { h0 with reports := [{ cause := 0x60, tval := 3 }] }).me.reports = [{ cause := 0x60, tval := 3 }] ∧
    (at0 { h0 with status := .parked, reports := [{ cause := 0x60, tval := 3 }] }).me.inh = false ∧
    (at0 { h0 with reports := [{ cause := 0x60, tval := 3 }], sr := 0x0010 }).me.inh = true := by decide +kernel
theorem test_interrupts_wake_harts :
    after (exec (.hostSignal 0) (at0 { listening with hostSig := true, status := .parked })) (fun t => (t.me.status, t.me.cause)) =
      some (.running, 0x71) ∧
    after (exec (.hostSignal 0) (at0 { listening with hostSig := true, status := .blocked (.strip 4) })) (fun t =>
      (t.me.status, t.me.cause)) = some (.running, 0x71) := by decide +kernel
theorem test_host_signal :
    after (exec (.hostSignal 0) (at0 { listening with hostSig := true })) (fun t => (t.me.cause, t.me.hostSig)) =
      some (0x71, false) := by decide +kernel


/-! ### The scalar unit -/

theorem witness_integer :
    aluValue (at0 h0) (.add 4 2 3) = some (4, 12) ∧ aluValue (at0 h0) (.div 4 1 0) = some (4, BitVec.allOnes 64) ∧
    goesOn (exec (.add 4 2 3) (at0 h0)) = true := by decide +kernel
theorem witness_scalar_writes :
    (prefixed true 1 8).copyReg = some 8 ∧ h0.copyReg = none ∧ (prefixed true 0 8).copyReg = none := by decide
theorem test_division_corner :
    after (exec (.div 4 1 2) (at0 { h0 with x := (h0.x.set 1 0x8000000000000000).set 2 (BitVec.allOnes 64) }))
      (fun t => t.me.xr 4) = some 0x8000000000000000 := by decide +kernel
theorem test_mulh_of_minus_one :
    after (exec (.mulh 4 1 1) (at0 { h0 with x := h0.x.set 1 (BitVec.allOnes 64) })) (fun t => t.me.xr 4) = some 0 ∧
    after (exec (.mulhu 4 1 1) (at0 { h0 with x := h0.x.set 1 (BitVec.allOnes 64) })) (fun t => t.me.xr 4) =
      some 0xFFFFFFFFFFFFFFFE := by decide +kernel
theorem test_shift_by_64_is_shift_by_0 :
    after (exec (.sll 4 2 1) (at0 { h0 with x := h0.x.set 1 64 })) (fun t => t.me.xr 4) = some 7 ∧
    after (exec (.srl 4 1 3) (at0 { h0 with x := (h0.x.set 1 7).set 3 64 })) (fun t => t.me.xr 4) = some 7 := by
  decide +kernel
theorem test_copying_prefix :
    after (exec (.add 4 2 3) (at0 (prefixed true 1 8))) (fun t => (t.me.xr 4, t.me.xr 8, t.me.pfxst.pend)) =
      some (12, 12, false) := by decide +kernel

/-- A hart at the last word of a loop body: depth 1 or 2, with the counts given. -/
def looping (ld : BitVec 2) (r0 r1 : BitVec 32) (pc : Word) : Hart :=
  { h0 with ld := ld, pc := pc, lbeg := #v[0x100, 0x104], lrem := #v[r0, r1], llen := #v[3, 2] }

theorem witness_loop_stack :
    let last := fun (h : Hart) (e : Fin 2) => decide (h.pc.toNat + 4 = (h.lbeg.get e).toNat + 4 * (h.llen.get e).toNat)
    last (looping 1 2 0 0x108) 0 = true ∧ last (looping 2 0 0 0x108) 1 = true ∧ last (looping 2 0 0 0x108) 0 = true ∧
    (looping 2 0 0 0x108).lrem.get 1 = 0 ∧ (looping 2 0 5 0x108).lrem.get 1 ≠ 0 ∧ (looping 1 2 0 0x108).lrem.get 0 ≠ 0 ∧
    last (looping 1 2 0 0x104) 0 = false ∧ last (looping 2 0 0 0x104) 1 = false ∧
    last { looping 2 0 0 0x108 with lbeg := #v[0x80, 0x104] } 0 = false ∧ h0.ld = 0 ∧ h0.pfxLive = false ∧
    (prefixed true 0 0).pfxLive = true := by decide
/-- A body that would end past 2^64 does not end at the last word below it, nor wraps to word 0. -/
theorem test_loop_ends_are_exact :
    ({ looping 1 2 0 0 with lbeg := #v[0xFFFFFFFFFFFFFFFC, 0], llen := #v[2, 0] } : Hart).advance.pc = 4 := by decide
theorem witness_loop_exits :
    let h := looping 2 1 1 0x104
    (h.lbeg.get 1).toNat ≤ h.pc.toNat ∧ h.pc.toNat < (h.lbeg.get 1).toNat + 4 * (h.llen.get 1).toNat ∧
    ¬ ((h.lbeg.get 1).toNat ≤ 0x100 ∧ 0x100 < (h.lbeg.get 1).toNat + 4 * (h.llen.get 1).toNat) ∧
    (h.lbeg.get 0).toNat ≤ 0x100 ∧ (0x100 : Word) ≠ h.pc + 4 ∧ (0x200 : Word) ≠ h.pc + 4 := by decide
theorem test_loop_return :
    (looping 2 3 4 0x108).advance.pc = 0x104 ∧ (looping 2 3 4 0x108).advance.lrem.get 1 = 3 ∧
    (looping 2 3 0 0x108).advance.pc = 0x100 ∧ (looping 2 3 0 0x108).advance.ld = 1 ∧
    (looping 2 0 0 0x108).advance.pc = 0x10C ∧ (looping 2 0 0 0x108).advance.ld = 0 := by decide
theorem test_branch_out_of_both_loops : ((looping 2 3 4 0x104).jump 0x200 true).ld = 0 := by decide

theorem witness_transfers :
    branchOf (at0 h0) (.beq 2 2 4) = some (true, 4) ∧ branchOf (at0 h0) (.bne 2 2 4) = some (false, 4) ∧
    (BitVec.ofInt 64 (((at0 h0).me.xr 1).toInt + (8 : BitVec 16).toInt)).toNat % 4 = 0 ∧
    (BitVec.ofInt 64 (((at0 h0).me.xr 1).toInt + (6 : BitVec 16).toInt)).toNat % 4 ≠ 0 := by decide +kernel
/-- A bad word of k1 that the branch reads. -/
def badMask : State := at0 { h0 with vl := 5, marks := [{ unit := 1, reg := 1, plane := 0, pos := 3 }] }
theorem witness_branch_on_a_bad_mask :
    (at0 h0).me.marks = [] ∧ branchOf badMask (.bmany 1 4) = some (false, 4) ∧ badMask.me.vl = 5 := by decide +kernel
theorem test_branch_on_a_bad_mask : after (exec (.bmall 1 4) badMask) (fun t => t.me.cause) = some 0x62 := by decide +kernel
theorem test_backward_branch :
    after (exec (.beq 2 2 0xFFFF) (at0 { h0 with pc := 0x40 })) (fun t => t.me.pc) = some 0x3C := by decide +kernel
theorem test_jal_links :
    after (exec (.jal 5 2) (at0 { h0 with pc := 0x40 })) (fun t => (t.me.pc, t.me.xr 5)) = some (0x48, 0x44) := by
  decide +kernel
theorem witness_loop_and_prefix :
    (at0 (looping 2 0 0 0)).me.ld = 2 ∧ (at0 h0).me.ld ≠ 2 ∧ ((at0 h0).me.xr 0).setWidth 32 = (0 : BitVec 32) ∧
    ((at0 h0).me.xr 2).setWidth 32 ≠ (0 : BitVec 32) ∧ (at0 (looping 1 1 0 0x104)).me.ld = 1 ∧
    (at0 (looping 1 1 0 0x104)).me.pc ≠ 0x108 ∧ (at0 (looping 1 1 0 0x108)).me.pc = 0x108 := by decide +kernel
theorem test_loop_pushes :
    after (exec (.loop 2 3) (at0 { h0 with pc := 0x40 })) (fun t => (t.me.pc, t.me.ld, t.me.lbeg.get 0, t.me.lrem.get 0)) =
      some (0x44, 1, 0x44, 6) := by decide +kernel
theorem test_prefix_register :
    after (exec (.pfx 9 1 1 20) (at0 h0)) (fun t => (t.me.pfxst.word, t.me.pfxLive)) = some (0x3053D0000, true) := by
  decide +kernel


/-! ### Scalar memory -/

theorem witness_loads :
    (loadSpec (mem0 h0) (.ldd 4 1 0)).map (fun l => (l.bytes, l.ea)) = some (8, 0x1000) ∧
    (mem0 h0).AccessReady .read .opened 8 0x1000 (packM13 0x1A 4 1 3 0) (places 8) ∧
    ((mem0 h0).readError 0 (places 8)).isNone = true :=
  ⟨by decide +kernel, AccessNow.ready (by decide +kernel), by decide +kernel⟩
theorem test_load_byte_order :
    after (exec (.ldd 4 1 0) (mem0 h0)) (fun t => t.me.xr 4) = some 0x0807060504030201 ∧
    after (exec (.flw 4 1 4) (mem0 h0)) (fun t => t.me.fr 4) = some 0xFFFFFFFF08070605 := by decide +kernel
/-- The byte writes of a doubleword at places. -/
def dwordAt (ps : List Place) (v : Word) : List ByteWrite :=
  (ps.zip (leBytes 8 v.toNat)).map (fun p => ({ pa := p.1.pa, val := p.2, mask := 0xFF } : ByteWrite))
theorem witness_stores :
    storeSpec (mem0 h0) (.std 2 1 0) = some (8, 0x1000, packM13 0x1B 2 1 3 0, 7) ∧
    (mem0 h0).AccessReady .write .opened 8 0x1000 (packM13 0x1B 2 1 3 0) (places 8) ∧ runFrom (places 8) 0x1000 8 :=
  ⟨by decide +kernel, AccessNow.ready (by decide +kernel), by unfold runFrom; decide +kernel⟩
theorem witness_store_conditions :
    (mem0 h0).locks = [] ∧ ((mem0 h0).mergeError 0 (dwordAt (places 8) 7)).isNone = true ∧ (mem0 h0).belayed 0 = false ∧
    (mem0 h0).fencePending = false ∧ (∀ p ∈ places 8, (mem0 h0).isGlobal p.pa = true) ∧
    queueLoad ((mem0 h0).core 0).queue < 64 := by decide +kernel
/-- A hart with LW = 1 that stores to byte 8 of its scratchpad, and the places of its store. -/
def localState : State := at0 { h0 with sr := 0x4004, x := h0.x.set 1 0x7FF000000008 }
def localPlaces : List Place := (List.range 8).map (fun i =>
  { va := BitVec.ofNat 64 (0x7FF000000008 + i), pa := 0xC0000000008 + i, glob := false, big := false, home := 0, mark := none })
theorem witness_local_store :
    storeSpec localState (.std 2 1 0) = some (8, 0x7FF000000008, packM13 0x1B 2 1 3 0, 7) ∧
    localState.AccessReady .write .opened 8 0x7FF000000008 (packM13 0x1B 2 1 3 0) localPlaces ∧
    runFrom localPlaces 0xC0000000008 8 :=
  ⟨by decide +kernel, AccessNow.ready (by decide +kernel), by unfold runFrom; decide +kernel⟩
theorem witness_local_store_conditions :
    (localState.mergeError 0 (dwordAt localPlaces 7)).isNone = true ∧
    (∀ p ∈ localPlaces, localState.inModule p.pa = true ∧ localState.isGlobal p.pa = false) := by decide +kernel
theorem test_local_store :
    after (exec (.std 2 1 0) localState) (fun t => (t.readByte 0 0xC0000000008, (t.core 0).queue.length)) = some (7, 1) := by
  decide +kernel
theorem test_store_then_load :
    after (exec (.stw 2 1 4) (mem0 h0)) (fun t => after (exec (.ldd 4 1 0) t) (fun u => u.me.xr 4)) =
      some (some 0x0000000704030201) := by decide +kernel
/-- A hart with x1 in a page of module 1, whose instruction waits as given, and the places of eight bytes there. -/
def farState (r : Remote) : State := linked1 { h0 with x := h0.x.set 1 0x8000000, remote := r }
def farPlaces : List Place := (List.range 8).map (fun i =>
  { va := BitVec.ofNat 64 (0x8000000 + i), pa := 0x100000000000 + i, glob := false, big := false, home := 0, mark := none })
theorem witness_load_away :
    (farState .idle).AccessAway .read 8 0x8000000 (packM13 0x1A 4 1 3 0) farPlaces 0x100000000000 ∧
    (farState (.answered [9])).AccessAway .read 8 0x8000000 (packM13 0x1A 4 1 3 0) farPlaces 0x100000000000 :=
  ⟨AwayNow.away (by decide +kernel), AwayNow.away (by decide +kernel)⟩
theorem witness_load_away_conditions :
    (loadSpec (farState .idle) (.ldd 4 1 0)).map (fun l => (l.bytes, l.ea)) = some (8, 0x8000000) ∧
    ((farState .idle).readError 0 farPlaces).isNone = true ∧ (farState .idle).me.remote = .idle ∧
    (farState (.answered [9])).me.remote = .answered [9] ∧
    ((farState (.answered [9])).readError 0 farPlaces).isNone = true ∧ (∀ p ∈ farPlaces, p.mark = none) := by decide +kernel
theorem test_load_away_asks_and_completes :
    after (exec (.ldd 4 1 0) (farState .idle)) (fun t => (t.me.remote, t.fabric.out, t.me.pc)) =
      some (.sent 0x100000000000, [.load 0x100000000000 8], 0) ∧
    after (exec (.ldd 4 1 0) (farState (.answered [1, 2, 0, 0, 0, 0, 0, 0x80]))) (fun t => (t.me.remote, t.me.xr 4, t.me.pc)) =
      some (.idle, 0x8000000000000201, 4) := by decide +kernel
theorem witness_store_away : (farState .idle).AccessAway .write 8 0x8000000 (packM13 0x1B 2 1 3 0) farPlaces 0x100000000000 :=
  AwayNow.away (by decide +kernel)
/-- A store none of whose parts is left. -/
def storeDone : StoreRest := { parts := [], group := 0, ordered := false, away := false, pins := [], stop := none }
theorem witness_store_away_conditions :
    let s := farState .idle
    storeSpec s (.std 2 1 0) = some (8, 0x8000000, packM13 0x1B 2 1 3 0, 7) ∧ s.fencePending = false ∧ s.belayed 0 = false ∧
    (s.mergeError 0 (dwordAt farPlaces 7)).isNone = true ∧ queueLoad (s.core 0).queue ≤ 64 ∧
    (∀ p ∈ farPlaces, p.mark = none ∧ isRemote p.pa = true) ∧ (farState (.storing storeDone)).me.remote = .storing storeDone ∧
    storeDone.parts = [] := by decide +kernel
theorem test_store_away_sends_and_completes :
    after (exec (.std 2 1 0) (farState .idle)) (fun t => (t.fabric.out.length, match t.me.remote with
      | .storing r => (r.away, r.parts.length)
      | _ => (false, 0))) = some (1, true, 1) ∧
    after (exec (.std 2 1 0) (farState (.storing storeDone))) (fun t => (t.me.remote, t.me.pc)) = some (.idle, 4) := by decide +kernel
theorem witness_access_traps :
    (mem0 h0).me.remote = .idle ∧ (at0 { h0 with x := h0.x.set 1 0xFFFFFFFFFFF9 }).me.remote = .idle ∧
    (loadSpec (at0 { h0 with x := h0.x.set 1 0xFFFFFFFFFFF9 }) (.ldd 4 1 0)).map (fun l => l.ea) = some 0xFFFFFFFFFFF9 ∧
    2 ^ 48 ≤ ((0xFFFFFFFFFFF9 : Word) + BitVec.ofNat 64 7).toNat ∧
    (loadSpec (mem0 h0) (.ldw 4 1 2)).map (fun l => l.ea) = some 0x1002 ∧ (0x1002 : Word).toNat % 4 ≠ 0 ∧
    2 ^ 48 ≤ (0x1000000000000 : Word).toNat ∧
    storeSpec (mem0 h0) (.sth 2 1 1) = some (2, 0x1001, packM13 0x1B 2 1 1 1, 7) := by decide +kernel
theorem witness_atomics :
    (amoSpec (.amocas 2 1 3 .d .s .ar)).isSome = true ∧
    (mem0 h0).AccessReady .write .never 8 0x1000 (amoWord 9 2 1 3 .d .s .ar) (places 8) ∧ runFrom (places 8) 0x1000 8 :=
  ⟨by decide +kernel, AccessNow.ready (by decide +kernel), by unfold runFrom; decide +kernel⟩
theorem witness_atomic_conditions :
    (mem0 h0).inBelay 0 = false ∧ (∀ p ∈ places 8, ((mem0 h0).spoiled [] p.pa).isNone = true) ∧
    (mem0 h0).fencePending = false ∧ (mem0 h0).released .s = true ∧
    (mem0 h0).queuedAt ((places 8).map (fun p => p.pa)) = false := by decide +kernel
theorem test_amoadd_of_a_word :
    after (exec (.amoadd 4 1 2 .w .s .none) (mem0 h0)) (fun t => (t.me.xr 4, memGet t.mem 0x1000, memGet t.mem 0x1004)) =
      some (0x04030201, 8, 5) := by decide +kernel
theorem test_amocas_differs :
    after (exec (.amocas 2 1 3 .d .s .none) (mem0 h0)) (fun t => (t.me.xr 2, memGet t.mem 0x1000)) =
      some (0x0807060504030201, 1) := by decide +kernel


/-! ### Scalar floating point: patterns of IEEE 754 written by hand -/

/-- A hart with f1, f2 and f3 given. -/
def fpu (a b c : Word) : State := at0 { h0 with f := ((h0.f.set 1 a).set 2 b).set 3 c }

theorem test_fadd_binary64 :
    after (exec (.fadd 4 1 2 .rne .d) (fpu 0x3FF8000000000000 0x4002000000000000 0)) (fun t => (t.me.fr 4, t.me.fflags)) =
      some (0x400E000000000000, 0) := by decide +kernel
theorem test_fdiv_by_zero :
    after (exec (.fdiv 4 1 2 .rne .d) (fpu 0x3FF0000000000000 0 0)) (fun t => (t.me.fr 4, t.me.fflags)) =
      some (0x7FF0000000000000, 0x0002) := by decide +kernel
theorem test_fmul_boxes_binary32 :
    after (exec (.fmul 4 1 2 .rne .s) (fpu 0xFFFFFFFF40000000 0xFFFFFFFF40400000 0)) (fun t => t.me.fr 4) =
      some 0xFFFFFFFF40C00000 := by decide +kernel
theorem test_upper_half_is_not_consulted :
    after (exec (.fadd 4 1 2 .rne .s) (fpu 0x0000000040000000 0xFFFFFFFF40400000 0)) (fun t => t.me.fr 4) =
      some 0xFFFFFFFF40A00000 := by decide +kernel
theorem test_conversion_to_integer_clamps :
    after (exec (.fcvtLF 4 1 .rtz .d) (fpu 0x43E0000000000000 0 0)) (fun t => (t.me.xr 4, t.me.fflags)) =
      some (0x7FFFFFFFFFFFFFFF, 0x0001) ∧
    after (exec (.fcvtLF 4 1 .rtz .d) (fpu 0xBFF8000000000000 0 0)) (fun t => (t.me.xr 4, t.me.fflags)) =
      some (0xFFFFFFFFFFFFFFFF, 0x0010) := by decide +kernel

theorem witness_float_to_integer :
    ((precFmt .d).decode ((fpu 0x7FF0000000000001 0 0).me.fo .d 1)).isNan = true ∧
    (precFmt .d).decode ((fpu 0xFFF0000000000000 0 0).me.fo .d 1) = .inf true ∧
    (precFmt .d).decode ((fpu 0x4008000000000000 0 0).me.fo .d 1) = .num false 0x18000000000000 (-51) ∧
    (roundToInt .rne false 0x18000000000000 (-51)).1 = 3 ∧ 2 ^ 64 - 1 < (roundToInt .rne false 1 64).1 ∧
    2 ^ 63 - 1 < (roundToInt .rne false 1 63).1 ∧ (roundToInt .rne true 1 64).1 < -(2 ^ 63) ∧
    (roundToInt .rne true 1 63).1 = -(2 ^ 63) := by decide +kernel
/-- A binary32 that is no NaN, an infinity, NaNs of both kinds, a subnormal, and a tie. -/
theorem witness_classes :
    (Fmt.fp32.decode 0xC1234567).isNan = false ∧ 0xC1234567 < 2 ^ 32 ∧ Fmt.fp32.decode 0xFF800000 = .inf true ∧
    Fmt.fp32.decode 0x7F800001 = .nan true ∧ Fmt.fp32.decode 0x7FC00000 = .nan false ∧
    (classOf .fp32 0x7F800001, classOf .fp32 0x807FFFFF, classOf .fp32 0xFF800000) = (5, 9, 11) ∧
    roundToInt .rne true 5 (-1) = (-2, true) ∧ roundToInt .rmm true 5 (-1) = (-3, true) := by decide +kernel
theorem witness_representable :
    Fmt.e4m3 ∈ allFormats ∧ 0x7E < 2 ^ Fmt.e4m3.width ∧ (Fmt.e4m3.decode 0x7E).isNan = false ∧
    0 < 2 ^ Fmt.fp64.width ∧ (Fmt.fp64.decode 0).isNan = false ∧ 15 < 2 ^ Fmt.e4m3.exp ∧ 6 < 2 ^ Fmt.e4m3.frac ∧
    15 * 2 ^ Fmt.e4m3.frac + 6 ≤ Fmt.e4m3.maxPat ∧ Fmt.e4m3.infPat = none ∧ Fmt.fp16.infPat = some 0x7C00 := by decide
/-- A number given to the bit, and one given with a tail. -/
theorem witness_exact_numbers : Fmt.fp16.given 3 0 false 3 ∧ Fmt.fp16.given 4096 (-2) true 1024.1 := by
  constructor <;> norm_num [Fmt.given, dyadic, Fmt.fp16]
theorem test_rounding_of_65504_5 :
    (Fmt.fp16.convert (.num false 131009 (-1))).pat = 0x7C00 ∧ (Fmt.fp16.convert (.num false 131009 (-1))).exc = .overflow ∧
    (Fmt.fp16.roundVal .rne (.num false 131009 (-1))).pat = 0x7BFF := by decide
/-- Operands of binary16: 1, −2, a NaN, an infinity, and zeros of both signs. -/
theorem witness_operands :
    Fmt.fp16 ∈ [Fmt.bf16, Fmt.fp16, Fmt.fp32, Fmt.fp64] ∧ Fmt.fp16.decode 0x3C00 = .num false 1024 (-10) ∧
    Fmt.fp16.decode 0xC000 = .num true 1024 (-9) ∧ (Fmt.fp16.decode 0x7E00).isNan = true ∧
    Fmt.fp16.decode 0x0000 = .num false 0 (-24) ∧ Fmt.fp16.decode 0x8000 = .num true 0 (-24) ∧
    0xC000 < 2 ^ Fmt.fp16.width := by decide
theorem witness_operand_values :
    (Fmt.fp16.decode 0x3C00).exact = 1 ∧ (Fmt.fp16.decode 0xC000).exact = -2 ∧ (Fmt.fp16.decode 0x8000).exact = 0 := by
  rw [witness_operands.2.1, witness_operands.2.2.1, witness_operands.2.2.2.2.2.1]
  norm_num [Val.exact, dyadic]
theorem test_sums_of_binary16 :
    fpOp .fp16 .rne .add 0x3C00 0xC000 0 = (0xBC00, .none) ∧ fpOp .fp16 .rdn .sub 0x3C00 0x3C00 0 = (0x8000, .none) ∧
    fpOp .fp16 .rne .min 0x8000 0x0000 0 = (0x8000, .none) ∧ fpOp .fp16 .rne .max 0x7E00 0xC000 0 = (0xC000, .none) := by
  decide

/-! ### Control registers and system instructions -/

theorem witness_control_registers :
    csrWritable 0x202 = some 0xFFFFFFFFFFFFFFFF ∧ csrWritable 0x200 = some 0xC71E ∧ csrWritable 0x000 = some 0 ∧
    csrWritable 0x07F = some 0 ∧ (0x202 : Nat) ≠ 0x203 ∧ (0x202 : BitVec 12) ≠ 0x110 := by decide
theorem test_status_mode_is_read_only :
    after (exec (.csrw 1 0x200) (at0 { h0 with x := h0.x.set 1 (BitVec.allOnes 64) })) (fun t => t.me.sr) = some 0xC71E := by
  decide +kernel
theorem test_csrrw_swaps :
    after (exec (.csrrw 4 2 0x005) (at0 { h0 with sidx := 9 })) (fun t => (t.me.xr 4, t.me.sidx)) = some (9, 7) := by
  decide +kernel
theorem test_csrc_clears :
    after (exec (.csrc 2 0x001) (at0 { h0 with vstart := 15 })) (fun t => t.me.vstart) = some 8 := by decide +kernel
theorem witness_fences :
    (at0 h0).quiet 0 = true ∧ (at0 listening).me.ie = true ∧ (at0 listening).me.inh = false ∧
    (at0 listening).me.sr &&& 0x0700 ≠ 0 ∧ (at0 { h0 with sr := 0 }).me.ie = false ∧
    (at0 { h0 with sr := 0x0004 }).me.sr &&& 0x0700 = 0 := by decide +kernel
theorem witness_queued_bytes :
    (at0 h0).inBelay 0 = false ∧ (at0 h0).inModule 0x1000 = true ∧
    [({ pa := 0x1000, val := 1, mask := 0xFF } : ByteWrite)] ≠ [] := by decide +kernel
theorem test_park :
    after (exec .park (at0 listening)) (fun t => (t.me.status, t.me.pc)) = some (.parked, 4) := by decide +kernel
theorem test_tcinv_of_an_address_space :
    after (exec (.tcinvAsid 0) (at0 h0)) (fun t => (t.core 0).tcache.length) = some 0 ∧
    after (exec (.tcinvAsid 1) (at0 h0)) (fun t => (t.core 0).tcache.length) = some 1 := by decide +kernel


theorem unused_of {s : State} (h : s.cores.all (fun c => c.copies.isEmpty) = true ∧ s.harts.all (fun h => h.pins.isEmpty) = true)
    (f : TcSel) : s.inUse f = false := by
  simp only [Vector.all_eq_true, List.isEmpty_iff] at h
  simp only [State.inUse, Bool.or_eq_false_iff, Vector.any_eq_false]
  exact ⟨fun i hi => by simp [h.1 i hi], fun i hi => by simp [h.2 i hi]⟩
theorem witness_invalidates : (at0 h0).quiet 0 = true ∧ ∀ f, (at0 h0).inUse f = false :=
  ⟨by decide +kernel, unused_of (by decide +kernel)⟩
theorem test_written_fields :
    (vtypeOf 0x02777).getLsbD 20 = true ∧
    after (exec (.csrw 1 0x208) (at0 { h0 with x := h0.x.set 1 0x3FFFFFFFF })) (fun t => t.csr 0 0x208) = some 0x307FFC000 ∧
    after (exec (.csrw 1 0x011) (at0 { h0 with x := h0.x.set 1 0x70003, ld := 2 })) (fun t => t.me.ld) = some 2 := by
  decide +kernel
theorem test_csrrw_of_tcinv :
    after (exec (.csrrw 4 1 0x110) (at0 { h0 with x := (h0.x.set 1 2).set 4 9 })) (fun t =>
      (t.me.xr 4, (t.core 0).tcache.length)) = some (0, 0) := by decide +kernel
theorem test_fence_of_writes_holds_no_read :
    after (exec (.fence .w .s) { mem0 h0 with group := 6 }) (fun t => (t.me.fenceAt, t.me.pc)) = some (6, 4) := by decide +kernel
/-- A queue whose second write stands behind a fence over the first. -/
def fencedQueue : List QueuedWrite :=
  [{ hart := 0, launch := 0, gen := 0, group := 2, after := 0, ordered := false, bytes := [] },
   { hart := 0, launch := 0, gen := 0, group := 4, after := 3, ordered := false, bytes := [] }]
theorem witness_fence_order : fencedQueue[1]?.map (fun w => w.after) = some 3 ∧ fencedQueue[0]?.map (fun e => e.group) = some 2 ∧
    mayLeave fencedQueue 1 = false ∧ mayLeave fencedQueue 0 = true := by decide

/-! ### Vector configuration -/

theorem witness_vector_configuration :
    vtypeValid 0x00777 = true ∧ vtypeValid 0xC0777 = false ∧ vtypeValid 0x02777 = false ∧ vtypeValid 0x02FFF = true ∧
    ((at0 { h0 with x := h0.x.set 1 0x777 }).me.xr 1).toNat < 2 ^ 20 ∧ 2 ^ 20 ≤ (0x100000 : Word).toNat ∧
    ((at0 h0).me.xr 0).toNat < 4 ∧ 4 ≤ ((at0 h0).me.xr 3).toNat := by decide +kernel
theorem test_setvl_stops_at_32768 :
    after (exec (.setvl 4 1 0) (at0 { h0 with x := h0.x.set 1 100000 })) (fun t => (t.me.xr 4, t.me.vl, t.me.avl)) =
      some (32768, 32768, 100000) := by decide +kernel
theorem test_endstrip :
    after (exec (.endstrip 4) (at0 { h0 with vl := 32768, avl := 100000 })) (fun t => (t.me.vl, t.me.avl, t.me.sidx)) =
      some (32768, 67232, 32768) := by decide +kernel
theorem test_settype_refuses :
    after (exec (.settype 4 1) (at0 { h0 with x := h0.x.set 1 0x02777 })) (fun t => (t.me.cause, t.me.tval, t.me.vtype)) =
      some (0x10, 0x02777, 0) := by decide +kernel


/-! ### The vector unit -/

theorem witness_write_laws :
    let t := (vec 0x21777).vt
    1 ≤ t.wd ∧ t.wd ≤ t.planes ∧ t.isInt = true ∧ t.ig ≤ 2 ∧ (12 : Reg).toNat % t.regs = 0 ∧ t.sat = true ∧
    t.lo ≤ 0 ∧ (255 : Int) ≤ t.hi ∧ ¬ (256 : Int) ≤ t.hi ∧ t.wd < t.planes ∧
    (vec 0x21777).copyReg = none ∧ (([(0, 1), (4, 255)] : List (Nat × Nat)).map (fun w => w.1)).Nodup ∧
    (∀ w ∈ ([(0, 1), (4, 255)] : List (Nat × Nat)), w.1 < 32768 ∧ w.2 < 2 ^ t.planes) ∧
    (prefixed true 1 8).copyReg = some 8 ∧ (8 : Reg).toNat % t.regs = 0 := by decide +kernel
theorem witness_vector_elements :
    (at0 (vec 0x01777)).me.VectorReady true [12, 4, 8] true ∧ (at0 (vec 0x02FFF)).me.VectorReady true [12, 4, 8] true :=
  ⟨ReadyNow.ready (by decide +kernel), ReadyNow.ready (by decide +kernel)⟩
theorem witness_vector_specs :
    (vintSpec (at0 (vec 0x01777)) (.vadd 12 4 (.vec 8) 1)).map (fun v => (v.kindOk, v.d, v.srcs)) = some (true, 12, [4, 8]) ∧
    (vfpSpec (at0 (vec 0x02FFF)) (.vfmul 12 4 (.vec 8) 0)).map (fun v => (v.kindOk, v.d, v.srcs)) = some (true, 12, [4, 8]) := by
  decide +kernel
theorem witness_vector_frame :
    (vintSpec (at0 (vec 0x01777)) (.vadd 12 4 (.vec 8) 1)).isSome = true ∧ (vec 0x01777).inh = false ∧
    goesOn (exec (.vadd 12 4 (.vec 8) 1) (at0 (vec 0x01777))) = true := by decide +kernel
theorem test_vadd_wraps_and_keeps_inactive :
    after (exec (.vadd 12 8 (.vec 4) 1) (at0 (vec 0x01777))) (fun t => (List.range 5).map (fun i => t.me.pat 12 i 8)) =
      some [251, 5, 0, 7, 0] := by decide +kernel
theorem test_vadd_saturates :
    after (exec (.vadd 12 8 (.imm 6) 0) (at0 (vec 0x21777))) (fun t => ((List.range 5).map (fun i => t.me.pat 12 i 8), t.me.satCount)) =
      some ([255, 9, 255, 9, 255], 3) := by decide +kernel
theorem test_vsra_of_signed_bytes :
    after (exec (.vsra 12 8 (.imm 1) 0) (at0 (vec 0x00777))) (fun t => (List.range 3).map (fun i => t.me.pat 12 i 8)) =
      some [253, 1, 253] := by decide +kernel
theorem test_descriptor_of_a_result :
    after (exec (.vadd 12 8 (.vec 4) 0) (at0 (vec 0x01777))) (fun t => ((t.me.vr 12).desc.dirty, (t.me.vr 12).desc.width,
      (t.me.vr 12).desc.prog, (t.me.vr 12).desc.vlen)) = some (true, 7, 1, 5) := by decide +kernel

theorem witness_masks :
    (at0 (vec 0x01777)).me.VectorReady true [4, 8] false ∧ (at0 (vec 0x01777)).MaskFree 2 :=
  ⟨ReadyNow.ready (by decide +kernel), by decide +kernel, fun d2 h => by cases (by decide +kernel : (at0 (vec 0x01777)).me.copyReg = none) ▸ h⟩
theorem witness_mask_conditions :
    (maskSpec (at0 (vec 0x01777)) (.vcmpltu 2 4 (.vec 8) 1)).map (fun v => (v.kindOk, v.srcs, v.d)) = some (true, [4, 8], 2) ∧
    (at0 (vec 0x01777)).me.vtype.getLsbD 20 = false ∧ (at0 (vec 0x01777)).me.marks = [] ∧
    (at0 { vec 0x01777 with vl := 0 }).me.vl = 0 ∧ (at0 (vec 0x01777)).me.vstart = 0 ∧
    (8 : Reg).toNat % 2 ^ (at0 (vec 0x01777)).me.vt.ig = 0 := by decide +kernel
/-- A mask that a copy changes while an instruction waits is read as it was. -/
theorem witness_sampled_mask :
    (vec 0x01777).kept = none ∧ (((vec 0x01777).sample.putK 1 0).sampled 1) = 0b01011 ∧ ((vec 0x01777).sample.putK 1 0).kr 1 = 0 := by
  decide +kernel
theorem test_compare_sets_active_bits :
    after (exec (.vcmpltu 2 4 (.vec 8) 0) (at0 (vec 0x01777))) (fun t => t.me.kr 2) = some 0b10111 := by decide +kernel
theorem test_kpopc_and_kfirst :
    after (exec (.kpopc 4 1 0) (at0 (vec 0x01777))) (fun t => t.me.xr 4) = some 3 ∧
    after (exec (.kfirst 4 2 0) (at0 (vec 0x01777))) (fun t => t.me.xr 4) = some 0xFFFFFFFFFFFFFFFF := by decide +kernel
theorem test_vext_extends :
    after (exec (.vext 4 8 0) (at0 (vec 0x00777))) (fun t => t.me.xr 4) = some 0xFFFFFFFFFFFFFFFA := by decide +kernel

theorem witness_permutations :
    (at0 (vec 0x01777)).me.VectorReady true [12, 4] true ∧ (at0 (vec 0x01777)).me.VectorReady true [12] true :=
  ⟨ReadyNow.ready (by decide +kernel), ReadyNow.ready (by decide +kernel)⟩
theorem witness_permutation_conditions :
    let s := at0 (vec 0x01777)
    (permSpec s (.vcompress 12 4 1)).map (fun p => (p.1, p.2.1)) = some (12, [4]) ∧ permIdle s (.vcompress 12 4 1) = false ∧
    permIdle s (.vcompress 12 4 2) = true ∧ (permSpec s (.vslideup 12 4 (.imm 5) 0)).isSome = true ∧
    permIdle s (.vslideup 12 4 (.imm 5) 0) = true ∧ permIdle s (.vslideup 12 4 (.imm 4) 0) = false ∧ s.me.vstart = 0 ∧
    s.me.vl.toNat ≤ (s.me.xr 3).toNat ∧ (s.me.xr 0).toNat < s.me.vl.toNat ∧ s.me.active 1 0 = true := by decide +kernel
theorem test_permutation_that_writes_nothing :
    after (exec (.vslideup 12 4 (.imm 5) 0) (at0 (vec 0x01777))) (fun t => ((t.me.vr 12).desc.dirty, t.me.pc)) =
      some (false, 4) := by decide +kernel
theorem test_vcompress :
    after (exec (.vcompress 12 8 1) (at0 (vec 0x01777))) (fun t => (List.range 5).map (fun i => t.me.pat 12 i 8)) =
      some [250, 3, 3, 0, 0] := by decide +kernel
theorem test_vslidedn :
    after (exec (.vslidedn 12 4 (.imm 2) 0) (at0 (vec 0x01777))) (fun t => (List.range 5).map (fun i => t.me.pat 12 i 8)) =
      some [3, 4, 5, 0, 0] := by decide +kernel
/-- One instruction of each kind whose checks `checksOf` lists, over a legal type of its own, and those of the trees. -/
theorem witness_vector_checks :
    ([Instr.vadd 12 4 (.vec 8) 0, .vcmpltu 2 4 (.vec 8) 1, .vredsum 4 8 3 0, .vld 12 1 0, .vst 8 1 0, .vamoadd 8 1 4 1 0,
      .vcompress 12 4 1, .vcvt 12 8 5 0, .vdeq 12 8 5 0, .vquant 12 8 5, .vsetq 3 5, .kld 2 1 0, .kst 2 1 0, .qld 3 1 0,
      .qst 3 1 0, .mopa 0 4 8 0 0, .mrd 0 12 0 0 0, .mwr 0 4 0 0 0].all (fun i => (checksOf (at0 (vec 0x01777)) i).isSome)) = true ∧
    ([Instr.vfredsum 4 8 0 0, .vfscan 12 8 0, .vfscanSeg 12 8 1].all (fun i => (fpTreeChecks (at0 (vec 0x02FFF)) i).isSome)) = true ∧
    (at0 (vec 0x01777)).me.remote = .idle ∧ (at0 { vec 0x01777 with vl := 0 }).me.vl = 0 ∧
    namesScalarResult (.vadd 12 4 (.vec 8) 0) = false := by decide +kernel
/-- The first failing check of a list, for each of the checks in its turn. -/
theorem witness_failing_checks :
    let of := fun (h : Hart) (i : Instr) => (checksOf (at0 h) i).bind firstFailing
    of (vec 0x101777) (.vadd 12 5 (.vec 9) 0) = some (0x10, 0x101777) ∧ of (vec 0x40777) (.vadd 12 5 (.vec 9) 0) = some (0x11, 5) ∧
    of { vec 0x01777 with vstart := 5 } (.vadd 12 4 (.vec 8) 0) = some (0x13, 5) ∧
    of { vec 0x01777 with mfmt := 3 } (.vlds 12 1 2 0) = some (0x12, 3) ∧
    of { vec 0x01777 with vstart := 1 } (.vcompress 12 4 1) = some (0x13, 1) ∧
    of { vec 0x06777 with sidx := 8 } (.qld 3 1 0) = some (0x32, 8) ∧
    of { vec 0x01777 with x := h0.x.set 1 0x1004 } (.kld 2 1 0) = some (0x25, 0x1004) ∧
    of (vec 0x00777) (.mopa 0 4 8 0 0) = some (0x30, 0) ∧ of (vec 0x01777) (.vdeq 12 8 5 0) = some (0x10, 0x01777) ∧
    (fpTreeChecks (at0 (vec 0x01777)) (.vfscan 12 8 0)).bind firstFailing = some (0x10, 0x01777) := by decide +kernel
theorem test_checks_trap :
    trapsWith (exec (.vdeq 12 8 5 0) (at0 (vec 0x01777))) 0x10 0x01777 = true ∧
    trapsWith (exec (.kld 2 1 0) (at0 { vec 0x01777 with x := h0.x.set 1 0x1004 })) 0x25 0x1004 = true := by decide +kernel
theorem test_group_alignment_trap :
    after (exec (.vadd 12 5 (.vec 9) 0) (at0 (vec 0x40777))) (fun t => (t.me.cause, t.me.tval)) = some (0x11, 5) := by
  decide +kernel


/-! ### Reductions and scans -/

theorem witness_reductions :
    (at0 (vec 0x01777)).me.VectorReady (at0 (vec 0x01777)).me.vt.isInt [8] false ∧
    (at0 (vec 0x01777)).me.VectorReady (at0 (vec 0x01777)).me.vt.isInt [12, 8] true ∧
    (at0 (vec 0x02FFF)).me.VectorReady (at0 (vec 0x02FFF)).me.vt.isFp [8] false ∧
    (at0 (vec 0x44FFF)).me.VectorReady ((at0 (vec 0x44FFF)).me.vt.kind = 4 || (at0 (vec 0x44FFF)).me.vt.kind = 5) [12, 8] true :=
  ⟨ReadyNow.ready (by decide +kernel), ReadyNow.ready (by decide +kernel), ReadyNow.ready (by decide +kernel),
    ReadyNow.ready (by decide +kernel)⟩
theorem witness_reduction_conditions :
    (reduceSpec (at0 (vec 0x01777)) (.vredsum 4 8 3 0)).map (fun r => (r.1, r.2.1)) = some (4, 8) ∧
    (at0 (vec 0x02FFF)).slice = 0 ∧ (at0 (vec 0x02FFF)).me.shadow.valid = false ∧ (at0 (vec 0x02FFF)).me.vstart = 0 := by
  decide +kernel
theorem test_vredsum :
    after (exec (.vredsum 4 4 3 1) (at0 (vec 0x01777))) (fun t => t.me.xr 4) = some 12 := by decide +kernel
theorem test_vscan :
    after (exec (.vscan 12 4 2 0) (at0 (vec 0x01777))) (fun t => (List.range 5).map (fun i => t.me.pat 12 i 8)) =
      some [8, 10, 13, 17, 22] := by decide +kernel
/-- A floating reduction and a scan that stop at a checkpoint. -/
theorem witness_checkpoint :
    let s := { at0 (vec 0x02FFF) with slice := 1 }
    let u := { at0 (vec 0x44FFF) with slice := 1 }
    (fpTreeChecks s (.vfredmax 4 8 0 0)).isSome = true ∧ vtypeValid (s.me.vtype.setWidth 20) = true ∧
    vtypeValid (u.me.vtype.setWidth 20) = true ∧ s.me.shadow.valid = false ∧ s.me.marks = [] ∧ s.slice ≠ 0 ∧
    after (exec (.vfredmax 4 8 0 0) s) (fun t => t.me.shadow.valid) = some true ∧
    after (exec (.vfscan 12 8 0) u) (fun t => t.me.shadow.valid) = some true := by decide +kernel

/-! ### Conversions and scale registers -/

/-- A hart of a type with a conversion word in x5 and a scale register q8 of one block of format 6. -/
def converting (vtype : BitVec 21) (word : Word) : State :=
  at0 { vec vtype with x := h0.x.set 5 word, q := h0.q.set 8 { QReg.initial with nblk := 1, fmt := 6 } }
theorem witness_conversions :
    (converting 0x01777 0x070).me.VectorReady true [12] true ∧ (converting 0x02FFF 0x006).me.VectorReady true [12] true ∧
    (converting 0x06777 0x002).me.VectorReady true [12] true ∧ (converting 0x06777 0x002).me.VectorReady true [] false :=
  ⟨ReadyNow.ready (by decide +kernel), ReadyNow.ready (by decide +kernel), ReadyNow.ready (by decide +kernel),
    ReadyNow.ready (by decide +kernel)⟩
theorem witness_conversion_words :
    let s := converting 0x01777 0x070
    let u := converting 0x02FFF 0x006
    let w := converting 0x06777 0x002
    s.me.vt.kind.toNat ≤ 11 ∧ (convOf (s.me.xr 5)).map (fun c => decide ((8 : Reg).toNat % c.regs = 0)) = some true ∧
    s.me.vt.isInt = true ∧ s.me.vstart = 0 ∧ isFpKind u.me.vt.kind = true ∧
    (convOf (u.me.xr 5)).map (fun c => isMxKind c.kind && decide ((8 : Reg).toNat % c.regs = 0)) = some true ∧
    (u.me.vl.toNat + 31) / 32 ≤ (u.me.qr 8).nblk.toNat ∧ (u.me.vr 8).desc.borg = (u.me.qr 8).org ∧
    isMxKind w.me.vt.kind = true ∧ (8 : Reg).toNat % 2 ^ w.me.vt.ig = 0 ∧ w.me.vstart = 0 ∧
    (convOf (w.me.xr 5)).map (fun c => isFpKind c.kind && decide ((8 : Reg).toNat % c.regs = 0)) = some true ∧
    w.me.sidx.toNat % 32 = 0 := by decide +kernel
/-- Block values of each case of R182: a NaN, zeros alone, an infinity, and a largest magnitude of 3 = 1.5 × 2. -/
theorem witness_blocks :
    let bad := [Val.nan true, .num false 1 0]
    let zeros := [Val.num true 0 0]
    let top := [Val.num false 3 0, .num true 1 (-1)]
    bad.any Val.isNan = true ∧ zeros.all Val.isZero = true ∧ top.any Val.isNan = false ∧ top.all Val.isZero = false ∧
    (quantBlock (converting 0x06777 0).me.vt top).code = 120 := by decide +kernel
theorem witness_block_values :
    (∀ v ∈ [Val.num false 3 0, .num true 1 (-1)], |v.exact| < dyadic 1 (1 + 1)) ∧
    (∃ v ∈ [Val.num false 3 0, .num true 1 (-1)], dyadic 1 1 ≤ |v.exact|) := by
  norm_num [Val.exact, dyadic]
theorem witness_microscale_formats : Fmt.e2m1 ∈ allFormats ∧ Fmt.e2m1.infPat = none ∧ fmtOfKind 9 ≠ none := by decide
theorem test_saturating_conversions :
    (Fmt.e2m1.convert (.num false 7 0)).pat = 7 ∧ (Fmt.e2m1.convert (.num false 7 0)).counted = true ∧
    toMxint8 (.num true 5 (-7)) = { pat := 0xFE, exc := .inexact, counted := false } ∧
    toIntSat (.num false 5 (-1)) (-128) 127 = (2, .inexact, false) := by decide
theorem test_vcvt_extends :
    after (exec (.vcvt 12 8 5 0) (at0 { vec 0x00FFF with x := h0.x.set 5 0x070 })) (fun t => (t.me.pat 12 0 16, t.me.pat 12 1 16)) =
      some (0xFFFA, 3) := by decide +kernel
theorem test_vsetq :
    after (exec (.vsetq 3 5) (at0 { vec 0x06777 with x := h0.x.set 5 0x30081 })) (fun t =>
      ((t.me.qr 3).scales.get 0, (t.me.qr 3).scales.get 1, (t.me.qr 3).nblk, (t.me.qr 3).org, (t.me.qr 3).fmt)) =
      some (0x81, 0x7F, 1, 3, 6) := by decide +kernel


/-! ### Vector memory -/

/-- `mem0` with the vector hart of a type. -/
def vmem (vtype : BitVec 21) : State := mem0 (vec vtype)

/-- The addresses of the active elements of a load and of a store, and whether the elements' table entries are good. -/
def loadAddrs (s : State) (i : Instr) : List Word :=
  ((vloadForm s i).map (fun f => (s.me.activeBody f.mask).flatMap f.addrs)).getD []
def storeAddrs (s : State) (i : Instr) : List Word :=
  ((vstoreForm s i).map (fun f => (s.me.activeBody f.mask).flatMap f.addrs)).getD []
def loadGood (s : State) (i : Instr) : Bool := (vloadForm s i).any (fun f => f.kindOk && (s.me.activeBody f.mask).all f.good)

theorem witness_vector_loads :
    (at0 (vec 0x01777)).me.VectorReady true [12] true ∧
    (at0 (vec 0x01777)).me.MemReady [.word, .plane, .mx] ((at0 (vec 0x01777)).me.xr 1) none ∧
    (at0 (vec 0x01777)).readsApart (loadAddrs (at0 (vec 0x01777)) (.vld 12 1 1)) :=
  ⟨ReadyNow.ready (by decide +kernel), by unfold Hart.MemReady; decide +kernel, reached_apart (by decide +kernel)⟩
/-- A PLANE hart, whose groups at 0x1000 name planes 0 to 2, and a BCF hart with a chunk at 0x1010 of two elements. -/
def planeState : State :=
  let s := at0 { vec 0x00777 with mfmt := 1 }
  { s with mem := memPuts s.mem (writesAt 0x1000 [7, 0, 7]) }
def bcfState : State :=
  let s := at0 { vec 0x00777 with mfmt := 3, x := h0.x.set 2 0x2000 }
  { s with mem := memPuts s.mem (writesAt 0x1010 [5] ++ writesAt 0x1020 [9, 8] ++ writesAt 0x2000 [0x10]) }
theorem witness_other_loads :
    let s := at0 (vec 0x01777)
    s.me.remote = .idle ∧ s.mem.wf = true ∧ loadGood s (.vld 12 1 1) = true ∧
    reached planeState.readPlace (fun _ => true) (loadAddrs planeState (.vld 12 1 0)) = true ∧
    loadGood bcfState (.vldc 12 1 2 0) = true ∧
    reached bcfState.readPlace (fun _ => true) (loadAddrs bcfState (.vldc 12 1 2 0)) = true ∧
    (vloadForm planeState (.vldp 12 1 0 2)).map (fun f => f.kindOk) = some true ∧
    ReadyNow planeState.me true [12] ∧ ReadyNow bcfState.me true [12] := by decide +kernel
theorem test_bcf_expands :
    after (exec (.vldc 12 1 2 0) bcfState) (fun t => (List.range 5).map (fun i => t.me.pat 12 i 8)) = some [9, 0, 8, 0, 0] := by
  decide +kernel
/-- Five bytes from the last two of the translated page on: element 2 is the first that fails. -/
def vff : State := at0 { vec 0x01777 with x := h0.x.set 1 0x7FFFFFE, ptbase := 0 }
theorem witness_first_fault :
    vff.me.VectorReady true [12] true ∧ vff.readsApart ((addrsFrom 0x7FFFFFE 2)) :=
  ⟨ReadyNow.ready (by decide +kernel), reached_apart (by decide +kernel)⟩
theorem witness_first_fault_element :
    (vloadForm vff (.vldff 12 1 0)).map (fun f => (vff.me.activeBody f.mask, f.addrs 0 ++ f.addrs 1,
      stopped (vff.probeBytes .read 0 (f.addrs 2)))) =
        some ([0, 1, 2, 3, 4], addrsFrom 0x7FFFFFE 2, some (0x20, 0x8000000)) ∧
    (0x20 : BitVec 7) ∉ [(0x60 : BitVec 7), 0x61, 0x62] := by decide +kernel
theorem test_vldff_trims :
    after (exec (.vldff 12 1 0) vff) (fun t => (t.me.vl, t.me.pc)) = some (2, 4) := by decide +kernel
theorem test_vld_word_layout :
    after (exec (.vld 12 1 0) (vmem 0x01003)) (fun t => (List.range 5).map (fun i => t.me.pat 12 i 4)) =
      some [1, 0, 2, 0, 3] := by decide +kernel
theorem test_vlds_stride :
    after (exec (.vlds 12 1 2 0) (vmem 0x01777)) (fun t => (List.range 3).map (fun i => t.me.pat 12 i 8)) =
      some [1, 8, 15] := by decide +kernel

/-- A hart of a microscaled type. -/
def runState : State := at0 (vec 0x06777)
theorem witness_run_loads :
    runState.me.VectorReady true [] false ∧ runState.me.VectorReady (isMxKind runState.me.vt.kind) [] false ∧
    runState.MaskFree 2 ∧ runState.readsApart (addrsFrom 0x1000 272) :=
  ⟨ReadyNow.ready (by decide +kernel), ReadyNow.ready (by decide +kernel), ⟨by decide +kernel,
    fun d2 h => by cases (by decide +kernel : runState.me.copyReg = none) ▸ h⟩, reached_apart (by decide +kernel)⟩
theorem witness_run_conditions :
    runState.me.remote = .idle ∧ runState.mem.wf = true ∧
    (runState.me.xr 1 + (0 : BitVec 13).signExtend 64).toNat % 8 = 0 ∧ runState.me.vstart = 0 ∧
    runState.me.sidx.toNat % 32 = 0 ∧ runState.belayed 0 = false ∧ runState.locks = [] ∧ runState.me.vl.toNat ≤ 32768 ∧
    runState.me.marks = [] ∧ (addrsFrom 0x1000 272).all (fun va => (runState.writePlace va).isSome) = true := by decide +kernel
theorem test_kld :
    after (exec (.kld 2 1 0) (mem0 { vec 0x01777 with k := h0.k.set 2 0xFFFF })) (fun t => t.me.kr 2) = some 0xFFE1 := by
  decide +kernel

theorem witness_vector_stores :
    (at0 (vec 0x01777)).me.VectorReady true [8] false ∧
    (at0 (vec 0x01777)).me.MemReady [.word, .plane, .mx] ((at0 (vec 0x01777)).me.xr 1) none :=
  ⟨ReadyNow.ready (by decide +kernel), by unfold Hart.MemReady; decide +kernel⟩
theorem witness_store_addresses :
    let s := at0 (vec 0x01777)
    s.belayed 0 = false ∧ s.locks = [] ∧ (vstoreForm s (.vst 8 1 1)).isSome = true ∧
    (storeAddrs s (.vst 8 1 1)).all (fun va => (s.writePlace va).isSome) = true ∧
    (storeAddrs planeState (.vst 8 1 0)).all (fun va => (planeState.writePlace va).isSome) = true := by decide +kernel
/-- Element 1 overlaps element 0, and the element written last stands. -/
theorem test_ordered_store_overlaps :
    after (exec (.vstx 8 1 0 0) (vmem 0x01777)) (fun t => t.readByte 0 0x1000) =
      some 250 := by decide +kernel
theorem test_vst_keeps_masked_off_bytes :
    after (exec (.vst 8 1 1) (vmem 0x01777)) (fun t => (List.range 5).map (fun i => t.readByte 0 (0x1000 + i))) =
      some [250, 3, 3, 3, 5] := by decide +kernel
theorem test_vst_of_nibbles_merges :
    after (exec (.vst 4 1 0) (vmem 0x01333)) (fun t => (List.range 3).map (fun i => t.readByte 0 (0x1000 + i))) =
      some [0x21, 0x43, 0x05] := by decide +kernel

/-- The addresses of the elements of a VAMO of bytes. -/
def vamoAddrs (s : State) : List Word :=
  (s.me.activeBody 1).flatMap (fun n => addrsFrom (s.me.xr 1 + BitVec.ofNat 64 (s.me.pat 4 n 8)) 1)
theorem witness_vector_atomics :
    (vmem 0x01777).me.VectorReady (vamoKind 0 (vmem 0x01777).me.vt) [8, 4] true ∧
    (∀ va ∈ vamoAddrs (vmem 0x01777), ∃ p, (vmem 0x01777).writePlace va = some p ∧ (vmem 0x01777).queuedAt [p.pa] = false ∧
      ¬ markedBy (vmem 0x01777).writePlace (vamoAddrs (vmem 0x01777)) p.pa) :=
  ⟨ReadyNow.ready (by decide +kernel), fun _ hv =>
    have h : reached (vmem 0x01777).writePlace (fun p => !(vmem 0x01777).queuedAt [p.pa]) (vamoAddrs (vmem 0x01777)) = true := by
      decide +kernel
    let ⟨p, hp, _, hq⟩ := reached_place h hv
    ⟨p, hp, by simpa using hq, reached_unmarked h p.pa⟩⟩
theorem witness_vector_atomic_conditions :
    let s := vmem 0x01777
    s.me.vstart = 0 ∧ s.me.mfmt = 0 ∧
    (s.me.xr 1).toNat % 1 = 0 ∧ s.me.remote = .idle ∧ s.mem.wf = true ∧ s.inBelay 0 = false ∧ s.locks = [] ∧
    s.fencePending = false ∧ s.vamos = [] ∧ s.reservations = [] ∧
    (linesOf ((vamoAddrs s).filterMap (fun va => (s.writePlace va).map (fun p => p.pa)))).length ≤ 65536 := by decide +kernel
theorem witness_combines :
    8 ∈ [8, 16, 32, 64] ∧ 250 < 2 ^ 8 ∧ 3 < 2 ^ 8 ∧ ((4 : BitVec 4), Fmt.fp32) ∈ [(2, Fmt.bf16), (3, Fmt.fp16), (4, Fmt.fp32), (5, Fmt.fp64)] := by
  decide
theorem witness_vector_atomic_operands : vamoSpec (.vamoadd 8 1 4 1 0) = some (0, 8, 1, 4, 1, false) := rfl
theorem test_vamoadd :
    after (exec (.vamoadd 8 1 4 1 0) (vmem 0x01777)) (fun t => (memGet t.mem 0x1001, memGet t.mem 0x1003, t.me.pat 8 0 8)) =
      some (252, 4, 2) := by decide +kernel


/-! ### The tile unit -/

/-- The vector hart as the owner of its core's tile unit, with shape 2 × 2 × 2. -/
def tiled (vtype : BitVec 21) : State :=
  (at0 { vec vtype with tshape := 0x200020002 }).modCore 0 (fun c => { c with tileOwner := some 0 })

theorem witness_tile_configuration :
    ((at0 h0).chiplet (chipletOf (coreOf 0))).st = .full ∧ ((at0 h0).core (coreOf 0)).tileOwner = none ∧
    ((tiled 0x01777).core (coreOf 0)).tileOwner = some 0 ∧
    (((tiled 0x01777).modCore 0 (fun c => { c with tileOwner := some 1 })).core (coreOf 0)).tileOwner = some 1 ∧
    (((at0 h0).modChiplet 0 (fun c => { c with st := .provisional })).chiplet 0).st = .provisional := by decide +kernel
theorem test_tshape_grants :
    after (exec (.tshape 4 1) (at0 { vec 0x01777 with x := h0.x.set 1 0 })) (fun t => t.me.xr 4) =
      some (64 * 2 ^ 32 + 256 * 2 ^ 16 + 512) := by decide +kernel
theorem witness_outer_product :
    let s := tiled 0x00777
    s.slice = 0 ∧ s.me.vl ≠ 0 ∧ s.ownsTile = true ∧ s.me.marks = [] ∧
    (s.me.mopaCheck (s.me.zhalf 0) ((s.me.zhalf 0).mxs && isMxKind s.me.vt.kind) 4 8).isNone = true ∧
    s.me.tileN ≤ 256 ∧ tileWfFrom 0 (s.tile 0) = true := by decide +kernel
theorem test_mopa_sums_products :
    after (exec (.mopa 0 4 8 0 0) (tiled 0x00777)) (fun t => (cellV (tileGet (t.tile 0) 0), cellV (tileGet (t.tile 0) 257))) =
      some (1 * (-6) + 2 * 3, 3 * (-6) + 4 * 3) := by decide +kernel
/-- Products of panels with and without a NaN and an infinity, and each kind of value a cell takes or gives. -/
theorem witness_products_and_cells :
    (kindVal 0 8 250).isZero = false ∧ (kindVal 0 8 0).isZero = true ∧ kindVal 4 32 0x7F800000 = .inf false ∧
    (kindVal 4 32 0x7FC00000).isNan = true ∧ (Val.num false 0 0).isZero = true ∧
    cellNan (cell48 true false 5) = true ∧ cellNan (cell48 false true 5) = false ∧
    cellV (cell48 false false (-(2 ^ 47) - 1)) = -(2 ^ 47) - 1 ∧ Fmt.fp32.decode 0xBF800000 = .num true 0x800000 (-23) := by
  decide +kernel
theorem test_accumulation :
    acc48 0 (cell48 false false 3) (.num true 5 (-1)) = cell48 false false 1 ∧
    acc48 0 (cell48 false false 3) (.inf true) = cell48 false true (3 - 2 ^ 47) ∧
    acc32 0x3F800000 (.num true 1 0) = 0 ∧ acc32 0x80000000 (.num true 0 0) = 0x80000000 := by decide +kernel
theorem test_read_out :
    (mrdElem { ill := false, ig := 0, sat := false, mz := false, kind := 0, wb := 8, wa := 8, wd := 8 }
      { fp32 := false, mxs := false, wrap := false, l := 0 } 0x100010000 (cell48 false false 300)).1 =
        { pat := 127, count := 1 } := by decide +kernel
theorem witness_slice_moves :
    let s := tiled 0x00777
    s.me.vl ≠ 0 ∧ s.ownsTile = true ∧ s.me.tileM ≠ 0 ∧ s.me.tileN ≤ 256 ∧
    (let u := s.setMe { s.me with vl := 4 }
     (u.me.xr 0).toNat % 512 + (u.me.vl.toNat - 1) / u.me.tileN < u.me.tileM ∧
     (u.me.xr 0).toNat % 512 + (u.me.vl.toNat - 1) / u.me.tileM < u.me.tileN ∧ u.me.tileN ≠ 0 ∧
     ReadyNow u.me true [12]) := by decide +kernel
theorem test_mwr_writes_a_row :
    after (exec (.mwr 0 4 0 0 0) (let s := tiled 0x00777; s.setMe { s.me with vl := 4 }))
      (fun t => (cellV (tileGet (t.tile 0) 0), cellV (tileGet (t.tile 0) 1), cellV (tileGet (t.tile 0) 256))) =
      some (1, 2, 3) := by decide +kernel


/-! ### Copies -/

/-- `mem0` with the six registers x10 to x15 given. -/
def regs6 (h : Hart) (d0 d1 d2 d3 d4 d5 : Word) : State :=
  mem0 { h with x := (((((h.x.set 10 d0).set 11 d1).set 12 d2).set 13 d3).set 14 d4).set 15 d5 }

/-- Two rows of four bytes from 0x1000, 16 apart, to 0x2000. -/
def cpy0 : State := regs6 h0 0x1000 0x2000 0x200000004 16 16 0
/-- The same by an index list of zeros at 0x3000. -/
def cpyx0 : State := regs6 h0 0x1000 0x2000 0x200000004 16 0x3000 0
/-- 32 bytes with one scale. -/
def cpyq0 : State := regs6 h0 0x1000 0x2000 0x20 0x1020 0x2020 0x700
/-- Eight elements of four bits from WORD to PLANE layout. -/
def cpyw0 : State := regs6 h0 0x1000 0x2000 8 0 0 0x300

/-- The copy instruction of a form with its registers from x10, and its word. -/
def copyWord (form : Nat) : BitVec 32 := packR 0x34 (kField 2) 10 0 (BitVec.ofNat 11 form)
/-- The places of a copy's index list and its entries. -/
def listOf (form : Nat) (s : State) : List Place × List Nat :=
  let c := copyDesc form (s.me.copyRegs 10)
  let ips := placed (s.indexPlaces (copyWord form) c)
  (ips, if form = 2 then (List.range c.nrow).map (fun n => leNat ((List.range 4).map (fun j =>
    ((ips[4 * n + j]?).map (fun p => s.readByte s.cur p.pa)).getD 0))) else [])
/-- The checks of a copy, in order. -/
def copyChecks (form : Nat) (s : State) : List RunCheck :=
  let d := s.me.copyRegs 10
  let c := copyDesc form d
  [((copyFault form d).isSome, 0x42, BitVec.ofNat 64 ((copyFault form d).getD 0)), (c.overlap (listOf form s).2, 0x42, 6),
    (s.maskOwned s.cur 2, 0x43, 2), (decide (form = 2) && c.d4.toNat % 4 != 0, 0x25, c.d4)]
/-- What the copy statement asks of an instruction that is accepted. -/
def copyB (form : Nat) (s : State) : Bool :=
  let c := copyDesc form (s.me.copyRegs 10)
  s.engineFree (coreOf s.cur) && !s.fencePending && s.me.remote == .idle && located (s.indexPlaces (copyWord form) c) &&
    (listOf form s).1.all (fun p => s.inModule p.pa && p.mark.isNone) && (firstFailing (copyChecks form s)).isNone &&
    (match s.probeChunks (copyWord form) c c.descending (listOf form s).2 with
      | .ok ps => decide (ps.all.length ≠ 0)
      | .error _ => false)

theorem witness_cpy : copyB 0 cpy0 = true := by decide +kernel
theorem witness_cpyq : copyB 1 cpyq0 = true := by decide +kernel
theorem witness_cpyx : copyB 2 cpyx0 = true := by decide +kernel
theorem witness_cpyw : copyB 3 cpyw0 = true := by decide +kernel
/-- An accepted copy without chunks. -/
theorem witness_copy_of_no_rows : copyB 0 (regs6 h0 0x1000 0x2000 4 16 16 0) = false ∨
    (copyDesc 0 ((regs6 h0 0x1000 0x2000 4 16 16 0).me.copyRegs 10)).chunks = 0 := by decide +kernel
/-- One copy for each check that turns it away: a bad descriptor, sides that overlap, an owned mask, a list out of line. -/
theorem witness_copies_turned_away :
    let clash := regs6 h0 0x1000 0x1002 0x200000004 16 8 0
    let list := regs6 h0 0x1000 0x2000 0x200000004 16 0x3001 0
    (copyFault 1 (#v[0x1000, 0x2000, 0x21, 0, 0, 0x700] : Vector Word 6)) = some 2 ∧
    firstFailing (copyChecks 0 clash) = some (0x42, 6) ∧ firstFailing (copyChecks 2 list) = some (0x25, 0x3001) := by
  decide +kernel

/-- A page of frame 0 that a probe has taken. -/
def page0 (a : Acc) : PageMap :=
  { acc := a, vpn := 0, asid := 0, glob := false, big := true, home := 0, base := 0, host := none, mark := none, fail := none }
/-- A state with the copy of `cpy0` in flight, with a transposer or waiting for one, of a hart that lives or not. -/
def copying (engine retired : Bool) : State :=
  let x : Copy := { owner := 0, launch := 0, retired := retired, form := 0, d := cpy0.me.copyRegs 10, k := 2, next := 1,
                    desc := true, loc := false, engine := engine, since := 0, index := [], pages := [page0 .read, page0 .write] }
  cpy0.modCore 0 (fun c => { c with copies := [x] })

/-- The copy that `copying` has in flight. -/
def copyB1 (engine retired : Bool) (f : Copy → Bool) : Bool :=
  match (copying engine retired).core 0 with
  | c => match c.copies with
    | [x] => f x
    | _ => false

theorem witness_chunk_lands :
    let s := copying true false
    copyB1 true false (fun x =>
      let io := s.chunkIO 0 x
      x.engine && !s.copyStands x && decide (x.next < (copyDesc x.form.toNat x.d).chunks) && (s.chunkErrors 0 io).isEmpty &&
      !s.chunkCut x io && decide (coreOf x.owner = 0) && !x.retired && decide (io.chunk < 32768) &&
      io.writes.all (fun w => s.inModule w.pa && !s.homeLost w.pa)) = true ∧
    copyB1 true true (fun x => x.retired) = true ∧ s.locks = [] ∧ s.mem.wf = true ∧ s.clean = true ∧
    s.inService (chipletOf 0) = true ∧ (s.core 0).queue = [] := by decide +kernel
theorem test_chunk_lands :
    after (exec (.chunkLand 0 0) (copying true false)) (fun t => ((t.hart 0).kr 2, (t.core 0).copies.length,
      (List.range 4).map (fun i => t.coreByte 0 (0x2000 + i)))) = some (1, 0, [1, 2, 3, 4]) := by decide +kernel
/-- A state with bad lines and a copy of one byte in flight from 0x1000 to 0x2000. -/
def copyingByte (lines : List Nat) : State :=
  let t := regs6 h0 0x1000 0x2000 0x100000001 0 0 0
  let x : Copy := { owner := 0, launch := 0, retired := false, form := 0, d := t.me.copyRegs 10, k := 2, next := 0,
                    desc := false, loc := false, engine := true, since := 0, index := [], pages := [page0 .read, page0 .write] }
  { t.modCore 0 (fun c => { c with copies := [x] }) with badLines := lines.map (fun l => { line := l, llc := false }) }
/-- The errors of its chunk. -/
def byteErrors (s : State) : List CopyError :=
  (s.core 0).copies.flatMap (fun x => (s.chunkErrors 0 (s.chunkIO 0 x)).map (fun e => e.1))
/-- A source line, and a destination line that the chunk merges with, stop it; other lines do not. -/
theorem witness_copy_error :
    byteErrors (copyingByte [0x20]) = [.mem] ∧ byteErrors (copyingByte [0x40]) = [.mem] ∧ byteErrors (copyingByte [0x41]) = [] := by
  decide +kernel
theorem witness_copy_timeout :
    let far : ChunkIO := { chunk := 0, srcs := [{ va := 0, pa := 0x100000000000, host := none }], dsts := [], writes := [] }
    far.timesOut 0x100000000000 = true ∧
    copyB1 true false (fun x => decide (x.since + max 1 (copying true false).fabric.fto.toNat ≤
      ({ copying true false with baseClock := 0x100000 } : State).baseClock)) = true := by decide +kernel
theorem witness_restored_copy :
    copyB1 false false (fun x => !x.engine && !(copying false false).copyStands x) = true ∧
    (((copying false false).core 0).copies.filter (fun k => k.engine)).length < 2 := by decide +kernel
theorem witness_waitm :
    let s := copying true false
    let u := s.beginAs 0
    let lost := { vec 0x01777 with marks := [{ unit := 1, reg := 1, plane := 0, pos := 3 }] }
    s.maskOwned 0 2 = true ∧ u.me.marks = [] ∧
    ((List.range (min (u.me.xr 2).toNat 32768)).filter (fun i => !(u.me.kr 2).getLsbD i)).length = 7 ∧
    cpy0.maskOwned 0 2 = false ∧
    ((s.modHart 0 (fun h => { h with status := .blocked (.waitm 4 2 7) })).beginAs 0).me.status = .blocked (.waitm 4 2 7) ∧
    lost.marks = [{ unit := 1, reg := 1, plane := 0, pos := 3 }] ∧ 3 < min (lost.xr 2).toNat 32768 := by decide +kernel
theorem test_waitm_counts_clear_bits :
    after (exec (.waitm 4 1 2) (at0 (vec 0x01777))) (fun t => t.me.xr 4) = some 4 := by decide +kernel
theorem test_waitm_waits :
    after (exec (.waitm 4 2 2) (copying true false)) (fun t => (t.me.status, t.me.pc)) =
      some (.blocked (.waitm 4 2 7), 0) := by decide +kernel

/-! ### The Weave unit -/

/-- A hart with x1 = 0x1000. -/
def hw : Hart := { h0 with x := h0.x.set 1 0x1000 }
/-- Descriptors at 0x1000: intersection of list A at 0x2000 (3 long) with list B at 0x2100 (3 long); CSR, with row
pointers at 0x2200. A holds 1, 4, 6; B holds 4, 5, 6; the pointers are 0, 3. -/
def woven (word0 d2 d3 : Nat) : State :=
  let s := at0 hw
  let b4 := fun (l : List Nat) => l.flatMap (fun n => leBytes 4 n)
  let desc := [word0, 0x2000, d2, d3, 0x2100, 0, 3, 0].flatMap (fun n => leBytes 8 n)
  { s with mem := memPuts s.mem (writesAt 0x1000 desc ++ writesAt 0x2000 (b4 [1, 4, 6]) ++ writesAt 0x2100 (b4 [4, 5, 6]) ++
    writesAt 0x2200 (b4 [0, 3])) }
/-- The cursor of the list intersection. -/
def cur0 : Cursor := cursorAt #v[0, 0x2000, 0, 0x300000000, 0x2100, 0, 3, 0] 0 3 0 0 3
/-- Slot 5 open with it. -/
def openSlot : State := (woven 0 0 0x300000000).setSlot 5 (some { owner := 0, cur := cur0 })

theorem witness_wvopen :
    ((woven 0 0 0x300000000).slot 5).isNone = true ∧ weaveBad (#v[0, 0x2000, 0, 0x300000000, 0x2100, 0, 3, 0] : Vector Word 8) = false ∧
    weaveBad (#v[4, 0x2000, 0x2200, 0x100000000, 0x2100, 0, 3, 0] : Vector Word 8) = false ∧
    reached (woven 0 0 0x300000000).readPlace (fun _ => true) (addrsFrom 0x1000 64) = true ∧
    reached (woven 4 0x2200 0x100000000).readPlace (fun _ => true)
      (addrsFrom 0x1000 64 ++ addrsFrom 0x2200 4 ++ addrsFrom 0x2204 4) = true ∧ (woven 0 0 0x300000000).me.remote = .idle ∧
    (woven 0 0 0x300000000).mem.wf = true := by decide +kernel
theorem test_wvopen_descriptor :
    descOf ((addrsFrom 0x1000 64).map (woven 4 0x2200 0x100000000).vaByte) =
      (#v[4, 0x2000, 0x2200, 0x100000000, 0x2100, 0, 3, 0] : Vector Word 8) := by decide +kernel
theorem test_wvopen_answers_length :
    after (exec (.wvopen 4 1 5) (woven 4 0x2200 0x100000000)) (fun t => (t.me.xr 4, ((t.slot 5).map (fun x => x.cur.whi)))) =
      some (3, some 3) := by decide +kernel
theorem witness_wvstep :
    openSlot.slice = 0 ∧ (openSlot.slot 5).map (fun x => x.owner) = some 0 ∧ openSlot.me.weaveAlign 4 8 = none ∧
    openSlot.maskOwned 0 1 = false ∧ openSlot.me.vstart.toNat ≤ cur0.cap ∧
    (let r := openSlot.weaveLoop 0 cur0.cap weaveFuel
      { cur := cur0, io := { reader := openSlot.me.reader, places := [] }, e := 0, out := [], stop := none }
     r.stop.isNone && r.cur.done) = true := by decide +kernel
/-- The streams of that cursor are in order and can be read, and steps of one pair hand out its two pairs. -/
theorem witness_weave_sequence :
    reached openSlot.readPlace (fun _ => true) cur0.entries = true ∧ cur0.afirst ≤ 0 ∧ 0 < cur0.afirst + cur0.rows ∧
    openSlot.weavePtr cur0 0 ≤ 0 ∧ weaveBad cur0.desc = false ∧
    openSlot.weavePairs cur0 = [⟨1, 0, 0⟩, ⟨2, 2, 0⟩] ∧
    (let r := openSlot.weaveRuns 0 [(1, weaveFuel, 0), (1, 1, 0), (8, weaveFuel, 0)] cur0
     (r.1.map (fun x => (x.2.1, x.2.2)), r.2.1.done, r.2.2)) = ([(⟨1, 0, 0⟩, true), (⟨2, 2, 0⟩, true)], true, true) := by
  decide +kernel
theorem witness_weave_order : openSlot.WeaveInOrder cur0 := by
  have h : (∀ i, i < 1 → openSlot.weavePtr cur0 i ≤ openSlot.weavePtr cur0 (i + 1)) ∧
      (∀ n, n < 3 → 0 < n → openSlot.word32 (cur0.desc.get 1) (n - 1) < openSlot.word32 (cur0.desc.get 1) n) ∧
      (∀ n, n < 3 → 0 < n → openSlot.word32 (cur0.desc.get 4) (n - 1) < openSlot.word32 (cur0.desc.get 4) n) ∧
      (cur0.afirst, cur0.rows, cur0.wlo, cur0.whi, cur0.blen, cur0.mode) = (0, 1, 0, 3, 3, 0) := by decide +kernel
  obtain ⟨hp, ha, hb, he⟩ := h
  simp only [Prod.mk.injEq] at he
  obtain ⟨h1, h2, h3, h4, h5, h6⟩ := he
  refine ⟨fun i _ hi => ⟨hp i (by omega), fun _ n hl hn => ha n ?_ ?_⟩, fun _ n hn hl => hb n (by omega) hn, fun hm => ?_⟩
  · rw [h4] at hn; omega
  · omega
  · omega
theorem test_wvstep_intersects :
    after (exec (.wvstep 1 4 8 5) openSlot) (fun t => (t.me.vl, t.me.pat 4 0 32, t.me.pat 6 0 32, t.me.pat 4 1 32, t.me.pat 6 1 32)) =
      some (2, 1, 0, 2, 2) := by decide +kernel
theorem witness_wvsplit_and_images :
    cur0.mode ≠ 1 ∧ cur0.acsr = false ∧
    ((addrsFrom 0x1000 128).all (fun va => (openSlot.writePlace va).isSome)) = true ∧ openSlot.belayed 0 = false ∧
    Cursor.ofImage cur0.image = some cur0 ∧ weaveBad cur0.desc = false ∧ (weaveMisaligned cur0.desc).isNone = true ∧
    cur0.wlo ≤ cur0.pa ∧ cur0.pa ≤ cur0.whi ∧ cur0.whi < 2 ^ 32 := by decide +kernel
/-- A good image at 0x1000. -/
def imaged : State := { at0 hw with mem := memPuts (at0 hw).mem (writesAt 0x1000 cur0.image) }
theorem witness_wvload :
    reached imaged.readPlace (fun _ => true) (addrsFrom 0x1000 128) = true ∧
    Cursor.ofImage ((addrsFrom 0x1000 128).map imaged.vaByte) = some cur0 := by decide +kernel
/-- A cursor over the row of a CSR array, and one that is exhausted at issue with vstart = 1. -/
theorem witness_cursor_cases :
    let c := cursorAt #v[4, 0x2000, 0x2200, 0x100000000, 0x2100, 0, 3, 0] 0 3 0 0 3
    c.acsr = true ∧ c.mode ≠ 1 ∧ List.range' (c.afirst + 1) (c.acount - 1) = [] ∧ c.acount < 2 ^ 32 ∧
    ({ cur0 with done := true } : Cursor).done = true ∧ 1 ≤ ({ cur0 with done := true } : Cursor).cap := by decide +kernel
theorem test_exhausted_step_writes_no_descriptor :
    after (exec (.wvstep 1 4 8 5) ((openSlot.setMe { hw with vstart := 1 }).setSlot 5 (some { owner := 0, cur := { cur0 with done := true } })))
      (fun t => ((t.me.vr 4).desc.dirty, t.me.vl, t.me.vstart)) = some (false, 1, 0) := by decide +kernel
theorem test_wvsplit_windows :
    after (exec (.wvsplit 4 2 3 5) (openSlot.setMe { hw with x := (hw.x.set 2 2).set 3 1 })) (fun t => t.me.xr 4) = some 1 := by
  decide +kernel


/-! ### Farms -/

theorem witness_strip :
    let s := farming 1 [] h0
    let ended := withLaunch (at0 h0) { farm 1 [] with count := 10 }
    let full := withLaunch (at0 h0) { farm 1 [] with nextDeal := 10 }
    let far := withLaunch (at0 h0) { farm 2 [] with record := { farmRec 2 with strips := 100000 }, nextDeal := 65538 }
    (s.launch (s.hart 0).launch).isSome = true ∧ (farm 1 []).record.kind ≠ 0 ∧ (farm 1 []).openOf 0 = none ∧
    (farm 1 []).allDone = false ∧ (farm 1 []).failed = none ∧ (farm 1 []).nextStrip = some 3 ∧
    3 < (farm 1 []).stripFloor + 65536 ∧ s.openBelayed < 128 ∧
    (ended.launch 0).any (fun x => x.allDone) = true ∧ (full.launch 0).any (fun x => x.nextStrip.isNone && !x.allDone) = true ∧
    (far.launch 0).any (fun x => x.nextStrip == some 65538 && decide (x.stripFloor + 65536 ≤ 65538)) = true := by
  decide +kernel
/-- Hart 1, whose STRIP asked before, stands before hart 0: hart 0 waits behind it. -/
def asking : State :=
  let s := farming 1 [] h0
  let s := s.setHart 1 { h0 with rank := 1, status := .blocked (.strip 4) }
  { s with camp := { s.camp with asks := [1] } }
theorem witness_strip_order :
    asking.asksStrip 0 = false ∧ asking.asksStrip 1 = true ∧ (asking.hart 1).status = .blocked (.strip 4) ∧
    (asking.launch (asking.hart 1).launch).any (fun z => z.nextStrip == some 3 && z.failed.isNone) = true := by decide +kernel
theorem test_strip_waits_behind_another :
    after (exec (.strip 4) asking) (fun t => (t.me.status, t.camp.asks)) = some (.blocked (.strip 4), [1, 0]) := by decide +kernel
/-- Outside a farm, and with a strip open, STRIP is STRIP_STATE. -/
theorem witness_strip_state :
    ((withLaunch (at0 h0) launch0).launch 0).all (fun x => x.record.kind == 0) = true ∧
    (farm 1 [strip2]).openOf 0 = some strip2 ∧ trapsWith (exec (.strip 4) (withLaunch (at0 h0) launch0)) 0x54 0 = true ∧
    trapsWith (exec (.strip 4) (farming 1 [strip2] h0)) 0x54 (BitVec.ofNat 64 strip2.strip) = true := by decide +kernel
theorem test_strip_deals :
    after (exec (.strip 4) (farming 1 [] h0)) (fun t => (t.me.xr 4, t.me.sidx, t.me.avl, t.me.vl)) = some (3, 300, 100, 100) := by
  decide +kernel
theorem test_last_strip_is_shorter :
    after (exec (.strip 4) (withLaunch (at0 h0) { farm 1 [] with nextDeal := 9 })) (fun t => (t.me.xr 4, t.me.sidx, t.me.vl)) =
      some (9, 900, 40) := by decide +kernel

theorem witness_strip_commits :
    let s := farming 1 [strip2] h0
    let r := farming 2 [strip2] h0
    (s.launch (s.hart 0).launch).isSome = true ∧ (farm 1 [strip2]).openOf 0 = some strip2 ∧ (farm 2 []).openOf 0 = none ∧
    s.quiet 0 = true ∧ s.locks = [] ∧ s.badLines = [] ∧ strip2.bad = [] ∧ (farm 1 [strip2]).record.kind = 1 ∧
    (farm 1 [strip2]).record.rn.toNat ≤ ((s.hart 0).xr 2).toNat ∧ ((s.hart 0).xr 0).toNat < (farm 1 [strip2]).record.rn.toNat ∧
    (farm 2 [strip2]).record.kind = 2 ∧ (farm 2 [strip2]).failed = none ∧ strip2.stop ≤ (farm 2 [strip2]).ropeFloor + 8192 ∧
    r.quiet 0 = true ∧ strip2.post < (farm 2 [strip2]).ropeFloor + 8192 ∧
    (farming 2 [strip2] { h0 with status := .blocked .scommit }).quiet 0 = true := by decide +kernel
/-- A staged line that holds uncorrectable data, and a bad line that the strip merges into. -/
def badStrip (o : OpenStrip) (lines : List BadLine) : State :=
  let s := farming 1 [o] h0
  { s with badLines := lines }
theorem witness_belay_errors :
    let o := { strip2 with staged := [.bytes (writesAt 0x1000 [9])] }
    let b : BadLine := { line := 0x20, llc := false }
    (badStrip { o with bad := [b] } []).belayError { o with bad := [b] } = some b ∧ (badStrip o [b]).belayError o = some b ∧
    (farm 2 [strip2]).failed = none ∧ ({ farm 2 [strip2] with failed := some 1 } : Launch).failed.isSome = true ∧
    (farm 2 []).ropeFloor + 8192 ≤ ({ strip2 with post := 8392, stop := 8492 } : OpenStrip).post := by decide +kernel
theorem test_belay_error_redeals :
    after (exec .scommit (badStrip { strip2 with bad := [{ line := 0x20, llc := false }] } [])) (fun t =>
      (t.me.cause, (t.launch 0).map (fun x => (x.opens.length, x.redeal, x.count)))) = some (0x60, some (0, [2], 2)) := by
  decide +kernel
theorem test_retire_commits :
    after (exec .retire (farming 1 [{ strip2 with staged := [.bytes (writesAt 0x1000 [9])] }] h0)) (fun t =>
      (memGet t.mem 0x1000, (t.hart 0).status, (t.launch 0).map (fun x => (x.count, x.retired)))) =
      some (9, .free, some (3, 1)) := by decide +kernel
theorem test_belay_applies_staged_writes :
    after (exec .scommit (farming 1 [{ strip2 with staged := [.bytes (writesAt 0x1000 [9]), .bytes (writesAt 0x1000 [8])] }] h0))
      (fun t => (memGet t.mem 0x1000, (t.launch 0).map (fun x => (x.count, x.stripFloor, x.opens.length)))) =
      some (8, some (3, 3, 0)) := by decide +kernel
theorem test_scommit_posts_the_rest :
    after (exec .scommit (farming 2 [strip2] h0)) (fun t => (t.launch 0).map (fun x => (x.ropeFloor, x.postedAbove.length))) =
      some (some (300, 0)) := by decide +kernel
theorem test_sdep_last_stands :
    after (exec (.sdep 2 0) (farming 1 [{ strip2 with deposits := [(0, 1)] }] h0)) (fun t =>
      (t.launch 0).map (fun x => x.opens.map (fun o => o.deposits))) = some (some [[(0, 7)]]) := by decide +kernel
/-- A store of hart 0 inside its belayed strip meets the conditions of the store statement. -/
theorem witness_staged_store :
    (farming 1 [strip2] h0).AccessReady .write .opened 8 0x1000 (packM13 0x1B 2 1 3 0) (places 8) :=
  AccessNow.ready (by decide +kernel)
theorem witness_staged_store_conditions :
    let s := farming 1 [strip2] h0
    s.inBelay 0 = true ∧ s.belayed 0 = true ∧ s.openStrip 0 = some strip2 ∧
    (firstFull strip2.lines ((places 8).map (fun p => p.pa))).isNone = true ∧
    (s.mergeError 0 ((places 8).map (fun p => ({ pa := p.pa, val := 0, mask := 0xFF } : ByteWrite)))).isNone = true := by
  decide +kernel

/-- The record of `recorded` as base camp reads it. -/
def w0 : Vector Word 8 := #v[0x400, 0, 0, 0x8000, 0, 0, 0x100000001, 0]
/-- The places of the 64 bytes of a record. -/
def places64 : List Place := places 64

theorem witness_farm :
    ((recorded h0).beginAs 0).AccessReady .read .opened 64 0x1000 (packR 0x36 4 1 3 0) places64 :=
  AccessNow.ready (by decide +kernel)
theorem witness_farm_record :
    (recorded h0).belayed 0 = false ∧ (recorded h0).locks = [] ∧ (recorded h0).clean = true ∧
    (∀ p ∈ places64, p.mark = none) ∧ descOf (places64.map (fun p => (recorded h0).fetchByte 0 p.pa)) = w0 ∧
    (recordOf w0).strips.toNat ≤ 2 ^ 24 ∧ (recordOf w0).done ≠ 0 ∧ (recordOf w0).done.toNat % 8 = 0 ∧
    (recordOf w0).asid = h0.asid ∧ recordBad w0 = false ∧ (recordOf w0).kind = 0 ∧
    (recordOf w0).team.toNat ≤ 4 * ((recorded h0).permitted (recordOf w0).cores).length ∧ (recorded h0).quiet 0 = true ∧
    ((recorded h0).queue 5).records.length < 256 ∧ (recordOf w0).asid ≠ ({ h0 with asid := 1 } : Hart).asid ∧
    2 ^ 24 < (recordOf (w0.set 5 0x1000001)).strips.toNat ∧ (recordOf (w0.set 6 0x500000001)).team.toNat = 5 := by
  decide +kernel
/-- The address-space entries that the record's check reads: entry 0 is valid, and one elsewhere is not. -/
def entryValid (s : State) (asid : BitVec 16) : Option Bool :=
  match { s.beginAs 0 with tick := s.tick + 1 }.asEntry asid with
  | .ok e => some (e[0].getLsbD 0)
  | .error _ => none
theorem witness_farm_entries :
    entryValid (recorded h0) 0 = some true ∧ entryValid (recorded h0) 1 = some false ∧
    4 * ((recorded h0).permitted (recordOf (w0.set 6 0x500000001)).cores).length < 5 := by decide +kernel
/-- A farm of no strips answers its identities at DONE. -/
theorem witness_empty_farm :
    let r := recordOf (w0.set 6 0x400000100000001)
    r.kind = 1 ∧ r.strips = 0 ∧ recordBad (w0.set 6 0x400000100000001) = false ∧
    (List.range (8 + 8 * r.rn.toNat)).all (fun i => decide (r.done.toNat + i < 2 ^ 52) &&
      (recorded h0).region (r.done.toNat + i) == .global) = true := by decide +kernel
theorem witness_farm_waits : 256 ≤ (crowded.queue 5).records.length := by decide +kernel
theorem test_farm_enqueues :
    after (exec (.farm 4 1 3) (recorded h0)) (fun t => ((t.queue 5).records.map (fun r => r.record.done), t.me.xr 4)) =
      some ([0x8000], 0) := by decide +kernel
theorem witness_farmw :
    ((mem0 h0).beginAs 0).AccessReady .read .opened 8 0x1000 (packR 0x36 4 1 0 4) (places 8) ∧
    ((at0 h0).beginAs 0).AccessReady .read .opened 8 0x1000 (packR 0x36 4 1 0 4) (places 8) :=
  ⟨AccessNow.ready (by decide +kernel), AccessNow.ready (by decide +kernel)⟩
theorem witness_farmw_values :
    leNat ((places 8).map (fun p => (mem0 h0).fetchByte 0 p.pa)) ≠ 0 ∧
    leNat ((places 8).map (fun p => (at0 h0).fetchByte 0 p.pa)) = 0 ∧ (∀ p ∈ places 8, p.mark = none) := by decide +kernel


/-! ### The rope and barriers -/

theorem witness_rope :
    let s := farming 2 [strip2] { vec 0x01777 with x := (h0.x.set 5 300).set 6 299 }
    (s.launch (s.hart 0).launch).isSome = true ∧ (farm 2 [strip2]).record.kind = 2 ∧ (farm 2 [strip2]).openOf 0 = some strip2 ∧
    strip2.stop ≤ ((s.hart 0).xr 5).toNat ∧ ((s.hart 0).xr 6).toNat < strip2.stop ∧ s.quiet 0 = true ∧
    strip2.post ≤ ((s.hart 0).xr 6).toNat ∧ ((s.hart 0).xr 6).toNat < (farm 2 [strip2]).ropeFloor + 8192 ∧
    ((s.hart 0).xr 2).toNat < strip2.post ∧ (farm 2 [strip2]).posted 7 = true ∧
    ({ farm 2 [strip2] with ropeFloor := 5 } : Launch).posted 7 = false ∧
    ReadyNow (s.hart 0) (s.hart 0).vt.isInt [4] ∧ (s.hart 0).vstart = 0 ∧
    (((s.hart 0).activeBody 0).map (fun n => (s.hart 0).pat 4 n (s.hart 0).vt.wa)).all (fun i =>
      decide (i < strip2.post) && (farm 2 [strip2]).posted i) = true ∧
    (((s.hart 0).activeBody 0).map (fun n => (s.hart 0).pat 8 n (s.hart 0).vt.wa)).head? = some 250 := by decide +kernel
theorem test_post_moves_the_floor :
    after (exec (.post 6) (farming 2 [strip2] { h0 with x := h0.x.set 6 249 })) (fun t =>
      (t.launch 0).map (fun x => (x.ropeFloor, x.postPos 0))) = some (some (250, 250)) := by decide +kernel
theorem test_wait_ahead_of_the_rope :
    after (exec (.waitRope 6) (farming 2 [strip2] { h0 with x := h0.x.set 6 200 })) (fun t => (t.me.cause, t.me.tval)) =
      some (0x51, 200) := by decide +kernel

/-- Barrier object 0 of launch 0, generation 2, two arrivals needed, one made, phase 5. -/
def barred (h : Hart) : State :=
  (at0 h).modBarrier 0 (fun _ => { owner := some 0, gen := 2, need := 2, arrived := 1, phase := 5 })
theorem witness_barriers :
    let s := barred { h0 with x := (h0.x.set 5 0x20040).set 6 4 }
    1 ≤ ((s.hart 0).xr 2).toNat ∧ ((s.hart 0).xr 2).toNat ≤ 65535 ∧ (s.camp.barriers.get 1).owner = none ∧
    (∀ k : Fin 64, k < 1 → (s.camp.barriers.get k).owner ≠ none) ∧ s.barrierOf 0 ((s.hart 0).xr 5) = some 0 ∧
    (s.hart 0).xr 0 = 0 ∧ s.belayed 0 = false ∧ s.quiet 0 = true ∧
    1 ≤ ((s.camp.barriers.get 0).phase - ((s.hart 0).xr 6).setWidth 16).toNat ∧
    ((s.camp.barriers.get 0).phase - ((s.hart 0).xr 6).setWidth 16).toNat ≤ 32768 ∧
    ¬ 1 ≤ ((s.camp.barriers.get 0).phase - ((s.hart 0).xr 3).setWidth 16).toNat ∧ s.barrierOf 0 ((s.hart 0).xr 2) = none := by
  decide +kernel
theorem witness_no_barrier_left :
    let s := (List.finRange 64).foldl (fun s k => s.modBarrier k (fun b => { b with owner := some 0 })) (at0 h0)
    (List.finRange 64).all (fun k => (s.camp.barriers.get k).owner.isSome) = true := by decide +kernel
theorem test_barrier_completes_a_phase :
    after (exec (.barw 4 5) (barred { h0 with x := h0.x.set 5 0x20040 })) (fun t =>
      (t.me.xr 4, (t.camp.barriers.get 0).phase, (t.camp.barriers.get 0).arrived)) = some (5, 6, 0) := by decide +kernel


/-! ### The fabric -/

/-- Elements of v4 (5, 5, 3, 4, 1 as bytes) at offsets v8. -/
def scattering : State := linked (vec 0x01777)
/-- Every element of an RSCAT of bytes is located with no page to mark, on a module that `ok` admits. -/
def scatB (s : State) (ok : Place → Bool) : Bool :=
  (List.range s.me.vl.toNat).all (fun i =>
    let e := s.locateAll (s.ctx s.cur) .write .never (s.me.xr 1 + BitVec.ofNat 64 (s.me.pat 8 i 8)) 1
    located e && (placed e).all (fun p => p.mark.isNone && ok p))
/-- The same on another module's page. -/
def scatteringAway : State := linked1 { vec 0x01777 with x := h0.x.set 1 0x8000000 }
theorem witness_rscat :
    let s := scattering
    let h := s.me
    s.locks = [] ∧ s.clean = true ∧ s.mem.wf = true ∧ s.quiet s.cur = true ∧ s.belayed s.cur = false ∧ h.remote = .idle ∧
    ReadyNow h (vamoKind 6 h.vt) [4, 8] ∧ h.vstart = 0 ∧ h.mfmt = 0 ∧ (h.xr 1).toNat % (h.vt.wd / 8) = 0 ∧
    h.vt.wd = 8 ∧ scatB s (fun p => p.pa / 2 ^ 44 == 0) = true ∧ ReadyNow scatteringAway.me true [4, 8] ∧
    scatB scatteringAway (fun p => p.pa / 2 ^ 44 == 1 && scatteringAway.reachable (scatteringAway.moduleOf p.pa)) = true := by
  decide +kernel
theorem test_rscat_here :
    after (exec (.rscat 4 1 8) scattering) (fun t => (t.fabric.out.length, t.me.pc)) = some (0, 4) := by decide +kernel
theorem test_rscat_sends_a_train :
    after (exec (.rscat 4 1 8) scatteringAway) (fun t => (t.fabric.out.map (fun m => match m with
      | .train m false ws n => (m, ws.length, n)
      | _ => (0, 0, 0)), t.me.remote)) = some ([(1, 5, 5)], .trains [1]) := by decide +kernel
theorem witness_trains_end :
    (linked { h0 with remote := .trains [] }).me.remote = .trains [] ∧
    (linked { h0 with remote := .trains [1, 3] }).me.remote = .trains [1, 3] := by decide +kernel

/-- An RMCAST descriptor at 0x1000: 4 bytes from 0x1000 to offset 0x9000 of the modules of a mask. -/
def casting (d1 d2 d3 mask : Nat) (h : Hart) : State :=
  let s := linked h
  { s with mem := memPuts s.mem (writesAt 0x1000 ([0x1000, d1, d2, d3, mask, 0, 0, 0].flatMap (fun n => leBytes 8 n))) }
theorem witness_rmcast :
    (casting 0x9000 4 0 3 h0).AccessReady .read .opened 64 0x1000 (packR 0x37 0 1 0 1) (places 64) :=
  AccessNow.ready (by decide +kernel)
theorem witness_rmcast_source :
    let s := casting 0x9000 4 0 3 h0
    let d := descOf ((places 64).map (fun p => s.fetchByte 0 p.pa))
    let u := { (s.keepProbe (places 64) none).usedPins with tick := s.tick + 1 }
    (∀ p ∈ places 64 ++ places 4, p.mark = none) ∧ d[1].toNat < 2 ^ 44 ∧ d[2].toNat < 2 ^ 32 ∧ d[2].toNat ≠ 0 ∧ d[3] = 0 ∧
    ((List.range 256).filter (fun f => (#v[d[4], d[5], d[6], d[7]].toList.getD (f / 64) 0).getLsbD (f % 64))) = [0, 1] ∧
    s.reachable 0 = true ∧ s.reachable 1 = true ∧ (s.me.xr 1) = 0x1000 ∧
    placed (u.probeBytes .read (packR 0x37 0 1 0 1) (addrsFrom d[0] d[2].toNat)) = places 4 ∧
    (∀ p ∈ places 4, s.inModule p.pa = true) := by decide +kernel
/-- Descriptors that fail each check, one that names a module without a route, and one of no bytes. -/
theorem witness_rmcast_checks :
    let d := fun (d1 d2 d3 mask : Nat) => descOf ((places 64).map (fun p => (casting d1 d2 d3 mask h0).fetchByte 0 p.pa))
    2 ^ 44 ≤ (d (2 ^ 44) 4 0 3)[1].toNat ∧ 2 ^ 32 ≤ (d 0 (2 ^ 32) 0 3)[2].toNat ∧ (d 0 4 1 3)[3] ≠ 0 ∧
    (d 0 0 0 3)[2].toNat = 0 ∧ (d 0 4 0 4)[4] = 4 ∧ (casting 0 4 0 4 h0).reachable 2 = false := by decide +kernel
theorem test_rmcast_copies_here_and_sends :
    after (exec (.rmcast 1) (casting 0x9000 4 0 3 h0)) (fun t => (memGet t.mem 0x9001, t.fabric.out.length, t.me.remote)) =
      some (0x10, 1, .trains [1]) := by decide +kernel

theorem witness_fabric_timeout :
    let s := linked { h0 with remote := .sent 0x100000001000 }
    let t := { linked { h0 with remote := .trains [3, 1] } with baseClock := 0x100000 }
    s.baseClock < (s.hart 0).sentAt + max 1 s.fabric.fto.toNat ∧ s.routeUp 1 = true ∧ s.routeUp 3 = false ∧
    (t.hart 0).sentAt + max 1 t.fabric.fto.toNat ≤ t.baseClock ∧ (t.hart 0).remote = .trains [3, 1] ∧ t.vamos = [] ∧
    ({ s with baseClock := 0x100000 }.hart 0).remote = .sent 0x100000001000 ∧
    (linked { h0 with remote := .reading [(0x100000001000, 8)] [] }).me.remote = .reading [(0x100000001000, 8)] [] ∧
    isRemote 0x100000001000 = true ∧ isRemote 0x1000 = false := by decide +kernel
/-- A store whose first part waits at module 1 behind a byte of this module. -/
def storeRest : StoreRest :=
  { parts := [[{ pa := 0x1000, val := 1, mask := 0xFF }, { pa := 0x100000001000, val := 2, mask := 0xFF }]], group := 0, ordered := false,
    away := true, pins := [], stop := none }
/-- Part of a store that has been sent. -/
def stored0 (clock : Nat) : State := { linked { h0 with remote := .storing storeRest } with baseClock := clock }
theorem witness_store_timeout :
    (stored0 0x100000).me.remote = .storing storeRest ∧ storeRest.away = true ∧ (stored0 0x100000).homeLost 0x1000 = false ∧
    storeRest.parts.head? = some ([{ pa := 0x1000, val := 1, mask := 0xFF }] ++ { pa := 0x100000001000, val := 2, mask := 0xFF } :: []) := by
  decide +kernel
theorem test_timeout_of_a_store :
    trapsWith (exec (.fabricTimeout 0) (stored0 0x100000)) 0x63 0x100000001000 = true := by
  have h : exec (.fabricTimeout 0) (stored0 0x100000) = .next ((((if Config.freeBit 0 0 then
      (stored0 0x100000).home [{ pa := 0x1000, val := 1, mask := 0xFF }] else stored0 0x100000).freeLocks (.hart 0)).step1).trapHart
        0 0x63 0x100000001000 0) := rfl
  rw [h]
  cases Config.freeBit 0 0 <;> decide +kernel
theorem test_timeout_names_the_lowest :
    trapsWith (exec (.fabricTimeout 0) { linked { h0 with remote := .trains [3, 1] } with baseClock := 0x100000 }) 0x63 1 = true := by
  decide +kernel
theorem test_acknowledgements :
    after (exec (.fabricAck 0 1) (linked { h0 with remote := .trains [1, 3] })) (fun t => t.me.remote) = some (.trains [3]) ∧
    after (exec (.fabricAck 0 3) (linked { h0 with remote := .trains [1, 3] })) (fun t => t.me.remote) = some (.trains [1, 3]) := by
  decide +kernel


/-! ### Collectives -/

/-- An RCOMB descriptor at 0x1000: source 0x1100, DST 0x2000, STAT 0x3000, RANKS at 0x1200 (modules 0 and 1), two
elements, CID 9, tag 3. -/
def combining : State :=
  let s := linked h0
  { s with mem := memPuts s.mem (
      writesAt 0x1000 ([0x1100, 0x2000, 0x3000, 0x1200, 0x900010002, 3, 0, 0].flatMap (fun n => leBytes 8 n)) ++
      writesAt 0x1100 ([0x3F800000, 0x40000000, 0x40400000, 0x40800000].flatMap (fun n => leBytes 4 n)) ++
      writesAt 0x1201 [1]) }
theorem witness_rcomb :
    let s := combining
    let at_ := fun (t : State) (va : Word) (n : Nat) =>
      let e := t.locateAll (t.ctx t.cur) .read .opened va n
      located e && (placed e).all (fun p => p.mark.isNone && s.inModule p.pa)
    let d := descOf ((places 64).map (fun p => s.readByte 0 p.pa))
    let t0 := { (s.keepProbe (places 64) none).usedPins with tick := s.tick + 1 }
    let rs := placed (t0.locateAll (t0.ctx t0.cur) .read .opened d[3] 2)
    let t1 := { (t0.keepProbe rs none).usedPins with tick := t0.tick + 1 }
    s.locks = [] ∧ s.clean = true ∧ s.quiet 0 = true ∧ s.belayed 0 = false ∧ s.me.remote = .idle ∧ (s.me.xr 1).toNat % 64 = 0 ∧
    at_ s (s.me.xr 1) 64 = true ∧ at_ t0 d[3] 2 = true ∧ at_ t1 d[0] 16 = true ∧ d[2].toNat % 64 = 0 ∧
    d[4].toNat / 2 ^ 16 % 2 ^ 9 = 1 ∧ d[4].toNat % 2 ^ 16 = 2 ∧ d[4].toNat / 2 ^ 25 % 2 ^ 7 = 0 ∧ d[5].toNat < 4 ∧ d[6] = 0 ∧
    d[7] = 0 ∧ rs.map (fun p => s.readByte 0 p.pa) = [0, 1] ∧ s.reachable 0 = true ∧ s.reachable 1 = true ∧
    s.collective { launch := s.me.launch, rank := s.me.rank, tag := BitVec.ofNat 2 d[5].toNat } = none ∧ s.nodes = [] := by
  decide +kernel
/-- A descriptor at 0x1000 of a collective of this module alone, with no source. -/
def combiningAlone (word2 word4 word5 : Nat) : State :=
  let s := linked h0
  { s with mem := memPuts s.mem (
      writesAt 0x1000 ([0, 0x2000, word2, 0x1200, word4, word5, 0, 0].flatMap (fun n => leBytes 8 n))) }
theorem test_rcomb_alone :
    after (exec (.rcomb 1) (combiningAlone 0x3000 0x900000002 3)) (fun t =>
      (t.collectives.map (fun c => (c.nr, c.ranks)), t.roots.map (fun x => x.present), t.me.pc)) =
      some ([(0, [0])], [[0]], 4) := by decide +kernel
theorem test_rcomb_checks :
    trapsWith (exec (.rcomb 1) (combiningAlone 0x3020 0x900000002 3)) 0x44 2 = true ∧
    trapsWith (exec (.rcomb 1) (combiningAlone 0x3000 0x901000002 3)) 0x44 4 = true ∧
    trapsWith (exec (.rcomb 1) (combiningAlone 0x3000 0x900000002 4)) 0x44 5 = true := by decide +kernel

/-- The input of a rank at the foot of the tree: the triple (1, 1, [1, 2]). -/
def input0 (rank : Nat) : CollInput :=
  { cid := 9, nr := 1, len := 2, ranks := [0, 1], level := 0, index := rank, present := [rank]
    triple := some { m := 0x3F800000, s := 0x3F800000, v := [0x3F800000, 0x40000000] } }
/-- The root result of both. -/
def root0 : CollInput := { input0 0 with level := 1, present := [0, 1] }
/-- A collective in flight on tag 3, its status given, and the root result of module 1; it writes at physical 0x2000 and
0x3000 through a table at 0x208000 whose first entry is a big writable page. -/
def collecting (status : Option Word) (w : Waiting) : State :=
  let s := linked { h0 with status := .blocked w }
  { s with
    mem := memPuts s.mem (writesAt 0x200000 (leBytes 8 0x208001) ++ writesAt 0x208000 (leBytes 8 0xDF))
    collectives := [{ key := { launch := 0, rank := 0, tag := 3 }, cid := 9, nr := 1, len := 2, ranks := [0, 1], dst := 0x2000,
                      stat := 0x3000, asid := 0, ptbase := 0x200000, issuedAt := 0,
                      own := (input0 0).triple, status := status }]
    roots := [root0] }
/-- The collective of `collecting`. -/
def coll0 (s : State) : Option Collective := s.collective { launch := 0, rank := 0, tag := 3 }
theorem witness_collective_result :
    let s := collecting none (.rwait 4 3)
    (coll0 s).any (fun c => c.status.isNone && decide (root0.cid = c.cid ∧ root0.nr = c.nr ∧ root0.len = c.len ∧ root0.ranks = c.ranks) &&
      root0.present.any (fun r => c.ranks[r]? == some s.fabric.ident)) = true ∧
    root0.present = (List.range 2).filter (fun r => decide (r ∈ root0.present)) ∧ s.fabricOn = true ∧ s.locks = [] ∧
    root0.triple.all (fun t => t.v.length == 2) = true ∧ s.baseClock < 0x100000 * (levelsOf 2 + 2) ∧
    0x100000 * (levelsOf 2 + 2) ≤ { s with baseClock := 0x300000 }.baseClock := by decide +kernel
/-- The result stands here whether or not the root does; an absent root, and another triple of this module alone, are refused. -/
theorem witness_collective_roots :
    (collecting none (.rwait 4 3)).roots = [root0] ∧ ({ collecting none (.rwait 4 3) with roots := [] } : State).roots = [] ∧
    root0.present ≠ [[0, 1].idxOf 0] ∧ ({ root0 with present := [0], triple := none } : CollInput).triple ≠ (input0 0).triple := by
  decide +kernel
theorem test_combine_of_equal_maxima :
    combineTriple { m := 0x3F800000, s := 0x3F800000, v := [0x3F800000] } { m := 0x3F800000, s := 0x3F800000, v := [0x40000000] } =
      { m := 0x3F800000, s := 0x40000000, v := [0x40400000] } := by decide +kernel
/-- A collective of this module alone, and its result. -/
def alone : State :=
  let s := collecting none (.rwait 4 3)
  { s with collectives := s.collectives.map (fun c => { c with nr := 0, ranks := [0] }), roots := [{ input0 0 with nr := 0, ranks := [0] }] }
theorem test_result_writes_status :
    after (exec (.collectiveResult ⟨{ launch := 0, rank := 0, tag := 3 }, { input0 0 with nr := 0, ranks := [0] }⟩) alone) (fun t =>
      ((coll0 t).map (fun c => c.status), memGet t.mem 0x3000, memGet t.mem 0x3002, memGet t.mem 0x3008)) =
      some (some (some 0x10001), 1, 1, 1) ∧
    after (exec (.collectiveResult ⟨{ launch := 0, rank := 0, tag := 3 }, { input0 0 with nr := 0, ranks := [0], triple := none }⟩) alone)
      (fun t => (coll0 t).map (fun c => c.status)) = some (some none) := by decide +kernel
theorem test_member_timeout :
    after (exec (.collectiveMemberTimeout { launch := 0, rank := 0, tag := 3 }) { collecting none (.rwait 4 3) with baseClock := 0x300000 })
      (fun t => ((coll0 t).map (fun c => c.status), memGet t.mem 0x3000)) = some (some (some 3), 3) := by decide +kernel
theorem witness_rwait :
    (coll0 (collecting (some 0x20001) (.rwait 4 3))).map (fun c => c.status) = some (some 0x20001) ∧
    (collecting none (.rwait 4 2)).collective { launch := 0, rank := 0, tag := BitVec.ofNat 2 5 } = none ∧
    (coll0 (collecting none (.rwait 4 2))).map (fun c => c.status) = some none ∧
    (((collecting none (.rwait 4 2)).beginAs 0).me).status = .blocked (.rwait 4 2) ∧ (collecting none (.rwait 4 2)).quiet 0 = true := by
  decide +kernel
/-- A router with the node of rank 0's input, and the clock at which it is late. -/
def noding (closed : Bool) (clock : Nat) : State :=
  { linked h0 with nodes := [{ cid := 9, level := 1, index := 0, inputs := [input0 0], firstAt := 0, closed := closed }], baseClock := clock }
theorem witness_combine_input :
    let s := noding false 0
    s.fabricOn = true ∧ s.nodes.all (fun n => n.cid == (input0 1).cid && n.level == (input0 1).level + 1 &&
      n.index == (input0 1).index / 2 && n.inputs.all (fun y => y.index != (input0 1).index)) = true ∧
    s.nodes.all (fun n => decide (s.baseClock < n.firstAt + max 1 s.fabric.fto.toNat)) = true ∧
    (noding false 0x100000).nodes.all (fun n => decide (n.firstAt + max 1 s.fabric.fto.toNat ≤ 0x100000)) = true ∧
    (noding true 0x100000).spent { cid := 9, level := 1, index := 0, inputs := [input0 0], firstAt := 0, closed := true } = false ∧
    0x100000 < 0x100000 * (levelsOf 2 + 2) ∧ (noding false 0x300000).nodes.all (fun n => decide (n.firstAt + 0x100000 * (levelsOf 2 + 2) ≤ 0x300000)) = true ∧
    (linked h0).nodes = [] := by decide +kernel
/-- A later input in the place of one that a late node has counted starts it anew; in time, it is dropped. -/
theorem test_reused_node_starts_anew :
    after (exec (.combineInput (input0 0)) (noding true 0x100000)) (fun t => t.nodes.map (fun n => (n.firstAt, n.closed))) =
      some [(0x100000, false)] ∧
    after (exec (.combineInput (input0 0)) (noding false 0)) (fun t => t.nodes.map (fun n => n.firstAt)) = some [0] := by decide +kernel
/-- Both inputs in time make the root result, which this module keeps and sends to module 1; a late node's does too. -/
theorem test_second_input_makes_the_root :
    after (exec (.combineInput (input0 1)) (noding false 0)) (fun t => (t.roots.map (fun x => x.present), t.fabric.out.length, t.nodes.length)) =
      some ([[0, 1]], 1, 0) ∧
    after (exec (.combineNodeTimeout ⟨9, 1, 0⟩) (noding false 0x100000)) (fun t => (t.roots.map (fun x => x.present), t.fabric.out.length,
      t.nodes.map (fun n => n.closed))) = some ([[0]], 0, [true]) := by decide +kernel
/-- The last of three partials climbs to where it meets its partner; a result at the root has nothing to meet. -/
theorem witness_climbs :
    let x : CollInput := { input0 2 with nr := 2, ranks := [0, 1, 2] }
    x.nr ≤ 255 ∧ x.index < (x.nr + 1 + 2 ^ x.level - 1) / 2 ^ x.level ∧ (inputClimb 9 x).level = 1 ∧ (inputClimb 9 x).index = 1 ∧
    (root0.nr + 1 + 2 ^ root0.level - 1) / 2 ^ root0.level ≤ 1 := by decide
/-- A module that is not the home of the node above. -/
theorem witness_home_elsewhere :
    Config.combineHome 9 2 0 ≠ ({ linked h0 with fabric := { (linked h0).fabric with ident := Config.combineHome 9 2 0 + 1 } } : State).fabric.ident := by
  show Config.combineHome 9 2 0 ≠ Config.combineHome 9 2 0 + 1
  generalize Config.combineHome 9 2 0 = m
  revert m
  decide


/-! ### Ports, routes and what another module asks -/

theorem witness_ports :
    (linked h0).mgmt.base = true ∧ (linked h0).fabric.en = true ∧ (3 : Fin 16).val < Config.ports (linked h0).part ∧
    Config.ports .p8820 ≤ (15 : Fin 16).val := by decide +kernel
/-- Place 0 reaches place 1 by ports 2 and 5 and place 2 by way of it. -/
def links0 : List Link := [{ src := 0, port := 2, dst := 1 }, { src := 0, port := 5, dst := 1 }, { src := 1, port := 0, dst := 2 }]
theorem witness_explore :
    Config.hasFab (linked h0).part = true ∧ Config.hasFab .p8810 = false ∧ (∀ l ∈ links0, l.src ≤ 2 ∧ l.dst ≤ 2) ∧
    duplicateId 0 [1, 2] links0 = false ∧ duplicateId 0 [1, 0] links0 = true ∧ (3 : Word).getLsbD 1 = true := by decide +kernel
/-- Whatever graph the free value gives, a write of FCTL explores some modules and links. -/
theorem witness_explored_graph :
    ∃ (idents : List Byte) (links : List Link), Config.fabricGraph 0 = (idents, links.map (fun l => (l.src, l.port, l.dst))) :=
  ⟨(Config.fabricGraph 0).1, (Config.fabricGraph 0).2.map (fun l => { src := l.1, port := l.2.1, dst := l.2.2 }), by
    simp [Function.comp_def]⟩
theorem test_explore :
    after (exec (.explore ⟨[1, 2], links0⟩) { linked h0 with fabric := { (linked h0).fabric with up := 0x24 } }) (fun t =>
      (t.fabric.routes.get 1, t.fabric.routes.get 2, t.fabric.routes.get 3, t.fabric.routes.get 0)) =
      some (some 2, some 2, none, none) := by decide +kernel
/-- Two modules of one ID on ports of their own, and a module with this one's ID. -/
theorem test_duplicate_id :
    after (exec (.explore ⟨[7, 7], [{ src := 0, port := 2, dst := 1 }, { src := 0, port := 5, dst := 2 }]⟩)
      { linked h0 with fabric := { (linked h0).fabric with up := 0x24 } }) (fun t => (t.fabric.dup, t.fabric.done)) = some (true, false) ∧
    after (exec (.explore ⟨[1, 0], links0⟩) (linked h0)) (fun t => (t.fabric.dup, t.fabric.done)) = some (true, false) := by
  decide +kernel
theorem witness_remote_access :
    let s := linked { h0 with remote := .sent 0x100000001000 }
    s.fabricOn = true ∧ s.locks = [] ∧ s.clean = true ∧ s.mem.wf = true ∧ (s.hart 0).remote = .sent 0x100000001000 ∧
    (s.vamos.find? (fun f => f.owner == 0)).isNone = true ∧ s.routeUp (s.moduleOf 0x100000001000) = true ∧
    s.baseClock < (s.hart 0).sentAt + max 1 s.fabric.fto.toNat ∧
    (List.range 8).all (fun i => s.inModule (0x1000 + i) && !s.homeLost (0x1000 + i)) = true ∧ 0x1000 % 8 = 0 ∧
    s.region 0x1000 = .global ∧ s.inModule 0x7FFFFFFFFFF = false := by decide +kernel
/-- A hart that reads, and one whose store has a part under way, both in time with routes up. -/
theorem witness_answers :
    let s := linked { h0 with remote := .reading [(0x100000001000, 2), (0x100000002000, 1)] [] }
    let t := stored0 0
    (s.hart 0).remote = .reading ((0x100000001000, 2) :: [(0x100000002000, 1)]) [] ∧ s.routeUp (s.moduleOf 0x100000001000) = true ∧
    (t.hart 0).remote = .storing storeRest ∧ storeRest.parts = (storeRest.parts.headD []) :: [] ∧
    (storeRest.parts.headD []).any (fun w => isRemote w.pa) = true ∧ t.homeLost 0x1000 = false ∧
    t.baseClock < (t.hart 0).sentAt + max 1 t.fabric.fto.toNat ∧ t.locks = [] ∧
    lineSlice t.part 3 32 ≠ noSlice ∧ t.grantedIn (lineSlice t.part 3 32) < 65536 ∧
    65536 ≤ ({ t with reservations := [{ slice := lineSlice t.part 3 32, hart := 0, lines := 65536, granted := true }] } : State).grantedIn
      (lineSlice t.part 3 32) := by decide +kernel
theorem test_answered_part_and_read :
    after (exec (.remoteAccess (.ours 0 [])) (stored0 0)) (fun t => (memGet t.mem 0x1000, match t.me.remote with
      | .storing r => (r.away, r.parts.length)
      | _ => (true, 9))) = some (1, false, 0) ∧
    after (exec (.remoteAccess (.ours 0 [7, 8])) (linked { h0 with remote := .reading [(0x100000001000, 2)] [] })) (fun t => t.me.remote) =
      some (.reading [] [(0x100000001000, 7), (0x100000001001, 8)]) := by decide +kernel
theorem test_answer_in_time :
    after (exec (.remoteAccess (.ours 0 [5])) (linked { h0 with remote := .sent 0x100000001000 })) (fun t => t.me.remote) =
      some (.answered [5]) ∧
    after (exec (.remoteAccess (.ours 0 [5])) { linked { h0 with remote := .sent 0x100000001000 } with baseClock := 0x100000 })
      (fun t => t.me.remote) = some (.sent 0x100000001000) := by decide +kernel
theorem test_trains_not_acknowledged :
    after (exec (.fabricTrain 1 ⟨false, [{ off := 0x1000, bytes := [7] }]⟩ 2) (linked h0)) (fun t =>
      (memGet t.mem 0x1000, t.fabric.out.length)) = some (0, 0) ∧
    after (exec (.fabricTrain 1 ⟨true, [{ off := 0xC0000000000, bytes := [7] }]⟩ 1) (linked h0)) (fun t => t.fabric.out.length) =
      some 0 := by decide +kernel
theorem test_inbound_amo_and_train :
    after (exec (.remoteAccess (.amo 0x1000 .add .d 5 0)) (linked h0)) (fun t => memGet t.mem 0x1000) = some 5 ∧
    after (exec (.fabricTrain 1 ⟨false, [{ off := 0x1000, bytes := [7] }, { off := 0x1000, bytes := [9] }]⟩ 2) (linked h0)) (fun t =>
      (memGet t.mem 0x1000, t.fabric.out)) = some (9, [.ack 1]) := by decide +kernel
theorem test_locked_line_has_its_holder :
    after (exec (.remoteAccess (.lockLine 0x1000 3 5)) (linked h0)) (fun t => t.locks.map (fun l => (l.line, l.holder))) =
      some [(32, some (.module 5))] := by decide +kernel


/-! ### The host -/

/-- A record as eight doublewords: `kind` and strips as given, DONE at 0x8000, address space 0, one hart. -/
def hostRec (done kind strips : Nat) : List Byte :=
  [0x400, 0, 0, done, 0, strips, kind * 2 ^ 58 + 0x100000001, 0].flatMap (fun n => leBytes 8 n)
/-- Entry 0 of the address-space table of `hosted` as base camp reads it. -/
def entry0 : Vector Word 4 := #v[1, 0, 0, 0]
theorem witness_host_enqueue :
    let r := fun (bytes : List Byte) => recordOf (descOf bytes)
    hosted.mgmt.base = true ∧ (hostRec 0x8000 0 0).length = 64 ∧ (r (hostRec 0 0 0)).done = 0 ∧
    (r (hostRec 0x8004 0 0)).done.toNat % 8 ≠ 0 ∧ (r (hostRec 0x8000 0 0)).done ≠ 0 ∧
    (r (hostRec 0x8000 0 0)).done.toNat % 8 = 0 ∧
    (match hosted.asEntry (r (hostRec 0x8000 0 0)).asid with
      | .ok e => e == entry0
      | .error _ => false) = true ∧ hosted.region 0x8000 = .global ∧ hosted.locks = [] ∧ hosted.clean = true ∧ entry0[0].getLsbD 0 = true ∧
    recordBad (descOf (hostRec 0x8000 0 0)) = false ∧ recordBad (descOf (hostRec 0x8000 3 0)) = true ∧
    (r (hostRec 0x8000 0 0)).team.toNat ≤ 4 * (hosted.permitted (r (hostRec 0x8000 0 0)).cores).length ∧
    2 ^ 24 < (r (hostRec 0x8000 1 0x1000001)).strips.toNat ∧ (hosted.queue 5).records.length < 256 ∧
    (r (hostRec 0x8000 0 0)).kind = 0 ∧ (r (hostRec 0x8000 1 7)).strips ≠ 0 ∧ (r (hostRec 0x8000 1 0)).strips = 0 ∧
    recordBad (descOf (hostRec 0x8000 1 0)) = false := by
  decide +kernel
theorem witness_host_queue_full :
    let s := { crowded with mgmt := hosted.mgmt }
    256 ≤ (s.queue 5).records.length := by decide +kernel
theorem test_host_enqueue_bad_record :
    after (exec (.hostEnqueue 5 0 (hostRec 0x8000 3 0)) hosted) (fun t => (memGet t.mem 0x8000, t.msixPending, (t.queue 5).records.length)) =
      some (3, 0x40, 0) := by decide +kernel
theorem test_host_enqueue_drop :
    after (exec (.hostEnqueue 5 8 (hostRec 0x8000 0 0)) hosted) (fun t => (t.camp.drops, (t.queue 5).records.length)) =
      some (1, 0) ∧
    after (exec (.hostEnqueue 5 64 (hostRec 0x8000 0 0)) hosted) (fun t => (t.camp.drops, (t.queue 5).records.length)) =
      some (0, 0) := by decide +kernel
/-- A vector whose entry is unmasked, and the pending bit of one that is masked. -/
def unmasked (pending : BitVec 32) (n : Fin 32) : State :=
  { hosted with msixTable := hosted.msixTable.set n.val { addr := 0, data := 0, masked := false } n.isLt, msixPending := pending }
theorem witness_vectors :
    ((unmasked 0 6).msixTable.get 6).masked = false ∧ (hosted.msixTable.get 6).masked = true ∧
    { hosted with msixPending := 0x40 }.msixPending.getLsbD 6 = true ∧ hosted.msixPending.getLsbD 6 = false ∧
    (0 : Word).getLsbD 32 = false := by decide +kernel
theorem test_vectors :
    ((unmasked 0 6).signal 6).msix = [6] ∧ (hosted.signal 6).msixPending = 0x40 ∧
    after (exec (.controlRegisterWrite 0x300068 5) { hosted with msixPending := 0x40 }) (fun t =>
      (t.msix, t.msixPending, (t.msixTable.get 6).data)) = some ([6], 0, 5) := by decide +kernel

theorem witness_host_preempt :
    let s := { savable h0 with mgmt := hosted.mgmt }
    (0 : HartId).val = (0 : Word).toNat % 128 ∧ s.mgmt.base = true ∧ (s.hart 0).live = true ∧
    (s.saveArea 0).isSome = true ∧ (s.hart 1).live = false ∧ ((withLaunch (at0 h0) launch0).saveArea 0).isNone = true ∧ (127 : HartId).val = (127 : Word).toNat % 128 := by decide +kernel

theorem witness_host_memory :
    let bad := { hosted with badLines := [{ line := 32, llc := false }] }
    hosted.memoryUp = true ∧ hosted.locks = [] ∧ 0x1000 + 8 ≤ Config.memBytes hosted.part ∧ hosted.clean = true ∧ bad.mgmt.elogChips = [] ∧
    Config.memBytes hosted.part < 0x5FFFFFFFFF + 2 ∧ 0x5FFFFFFFFF + 1 ≤ Config.memBytes hosted.part ∧
    bad.badLines.length = 1 ∧ 0x1000 < 32 * 128 + 128 ∧ 32 * 128 < 0x1000 + 8 ∧
    bad.badLines.all (fun b => decide (0x1080 + 8 ≤ b.line * 128 ∨ b.line * 128 + 128 ≤ 0x1080)) = true := by decide +kernel
theorem test_host_reads_past_the_end :
    after (exec (.hostMemoryRead 0x5FFFFFFFFF 2) hosted) (fun t => t.hostReplies) = some [.unsupported] := by decide +kernel
theorem test_host_reads_bad_line :
    after (exec (.hostMemoryRead 0x1000 8) { hosted with badLines := [{ line := 32, llc := false }] }) (fun t =>
      (t.hostReplies, t.msixPending, t.mgmt.elog.entries.get 0)) = some ([.abort], 0x20000, 0x1001) := by decide +kernel
theorem witness_control_bar : hosted.mgmt.base = true ∧ hosted.hostUp = true := by decide +kernel
theorem test_nonce_is_written_when_idle :
    after (exec (.controlRegisterWrite 0x200048 0x0807060504030201) hosted) (fun t => (t.mailbox.nonce.get 8, t.mailbox.nonce.get 15,
      t.mailbox.nonce.get 16)) = some (1, 8, 0) ∧ hosted.mailbox.busy = false ∧
    after (exec (.controlRegisterWrite 0x200048 1) { hosted with mailbox := { hosted.mailbox with busy := true } }) (fun t =>
      t.mailbox.nonce.get 8) = some 0 := by decide +kernel
theorem test_hsig_of_an_absent_chiplet :
    after (exec (.controlRegisterWrite 0x10018 127) hosted) (fun t => (t.hart 127).hostSig) = some true := by decide +kernel
theorem test_aperture_and_drops :
    after (exec (.controlRegisterWrite 0x30028 0x20) hosted) (fun t => (t.apertures.get 1).size) = some 0x20 ∧
    after (exec (.controlRegisterWrite 0x10008 0x5) { hosted with camp := { hosted.camp with drops := 7 } }) (fun t => t.camp.drops) =
      some 2 := by decide +kernel


/-! ### Placement and the end of launches -/

/-- A record of two harts on core 0 is the lone head, of queue 4. -/
def headed (team : Byte) : State :=
  let s := { hosted with harts := State.reset.harts }
  s.modQueue 4 (fun _ => { records := [{ record := { rec0 with team := team, done := 0x8000 }, headAt := 0 }], resume := [] })
theorem witness_placement :
    let s := headed 2
    s.mgmt.powered = true ∧ s.mgmt.base = true ∧ s.camp.promises = [] ∧ s.locks = [] ∧ s.camp.owed = [] ∧
    (∀ k : Fin 16, (s.queue k).resume = []) ∧ s.camp.launches = [] ∧ allHarts.all (fun h => (s.hart h).status != .halted) = true ∧
    (∀ k : Fin 16, k ≠ 4 → (s.queue k).records = []) ∧
    s.positionsFor 4 { rec0 with team := 2, done := 0x8000 } [] = some [0, 1] ∧
    (match s.asEntry 0 with
      | .ok e => e == entry0 && e[0].getLsbD 0
      | .error _ => false) = true ∧ s.mem.wf = true ∧
    ({ s with mgmt := { s.mgmt with base := false } }.mgmt.base) = false := by decide +kernel
theorem test_rotation_places_the_team :
    after (exec .rotationDecision (headed 2)) (fun t => ((t.hart 0).pc, (t.hart 1).status, (t.hart 1).xr 10, (t.hart 2).status)) =
      some (0x400, .running, 1, .free) := by decide +kernel

/-- A head of four harts on core 0 that has waited, with hart 0 parked there and savable. -/
def waited (now : Nat) : State :=
  let s := savable { h0 with status := .parked }
  let s := { s with mgmt := hosted.mgmt, baseClock := now }
  s.modQueue 4 (fun _ => { records := [{ record := { rec0 with team := 4 }, headAt := 0 }], resume := [] })
theorem witness_head_waits :
    let s := waited 0x100000
    let r : Queued := { record := { rec0 with team := 4 }, headAt := 0 }
    (s.queue 4).records = [r] ∧ (waited 0xFFFFF).baseClock < r.headAt + 2 ^ 20 ∧ r.headAt + 2 ^ 20 ≤ s.baseClock ∧
    s.positionsFor 4 r.record [] = none ∧ s.camp.owed = [] ∧
    s.victims 4 r.record [] (allHarts.reverse.filter (s.displaceable 4 r.record)) = some [0] := by decide +kernel
theorem test_head_frees_a_position :
    after (exec (.queueHeadWaitLimit 4) (waited 0x100000)) (fun t => ((t.hart 0).preemptReq, t.camp.owed)) =
      some (true, [(4, [0])]) := by decide +kernel

/-- Launch 0 of one hart that has retired, with a barrier. -/
def finished (x : Launch) : State :=
  (withLaunch { hosted with harts := State.reset.harts } { x with retired := 1 }).modBarrier 3 (fun b => { b with owner := some 0 })
theorem witness_completion :
    let s := finished launch0
    let r := finished { farm 1 [] with count := 10 }
    (s.launch 0).any (fun x => s.launchEnded x) = true ∧ s.locks = [] ∧ s.clean = true ∧
    (r.launch 0).any (fun x => r.launchEnded x && (List.range (x.trailer.length + 1)).all (fun i =>
      r.region (x.record.done.toNat + 8 * i) == .global)) = true ∧ (s.camp.barriers.get 3).owner = some 0 := by decide +kernel
theorem test_completion_word :
    after (exec (.completionWordWrite 0) (finished launch0)) (fun t =>
      ((List.range 8).map (fun i => memGet t.mem (0x8000 + i)), t.msixPending, t.camp.launches.length)) =
      some ([1, 0, 0, 0, 1, 0, 0, 0], 4, 0) := by decide +kernel
theorem witness_team_hart_stop :
    let s := savable { h0 with stopReq := true }
    (s.hart 0).stopReq = true ∧ (s.hart 0).preemptible = true ∧ (s.core (coreOf 0)).queue = [] ∧
    ((savable h0).hart 0).stopReq = false := by decide +kernel


/-! ### Fencing -/

/-- Chiplet 0 with hart 0 of a launch of a kind, and 63 lane reports. -/
def fencing (x : Launch) : State :=
  let s := { withLaunch (at0 h0) x with mgmt := hosted.mgmt, baseClock := 100 }
  s.modChiplet 0 (fun c => { c with reports := (List.range 63).reverse })
theorem witness_fence :
    let s := fencing launch0
    s.inService 0 = true ∧ s.mem.wf = true ∧ s.vamos = [] ∧ s.harts.all (fun h => h.remote == .idle) = true ∧ s.mgmt.base = true ∧
    (0xA500 : Word).toNat % 256 = (0 : ChipletId).val ∧ (0 : ChipletId).val < Config.chiplets s.part ∧
    (0xA500 : Word).toNat / 256 % 256 = 0xA5 ∧ (0x5A00 : Word).toNat / 256 % 256 ≠ 0xA5 ∧
    (s.modChiplet 0 (fun c => { c with limit := true })).chiplet 0 = { s.chiplet 0 with limit := true } ∧
    (s.chiplet 0).limit = false ∧ (s.chiplet 0).reports[62]? = some 0 ∧ 7 * (s.baseClock - 0) < 10 * 2 ^ 30 ∧
    s.mgmt.flogAt ≠ s.baseClock ∧ chipletOf (coreOf 0) = (0 : ChipletId) ∧ chipletOf 0 = (0 : ChipletId) ∧
    (s.hart 0).live = true ∧ (s.launch (s.hart 0).launch).map (fun x => (x.failed, x.record.kind)) = some (none, 0) ∧
    ((fencing (farm 1 [strip2])).launch 0).map (fun x => (x.failed, x.record.kind)) = some (none, 1) ∧
    ((fencing (farm 2 [strip2])).launch 0).map (fun x => (x.failed, x.record.kind)) = some (none, 2) := by decide +kernel
theorem test_lane_report_limit :
    let t := (fencing launch0).trapHart 0 0x62 0 0
    (t.chiplet 0).limit = true ∧ ((t.chiplet 0).reports.length, (t.chiplet 0).reports.head?) = (64, some 100) ∧
    after (exec (.laneSramReportLimit 0) t) (fun u => ((u.chiplet 0).st, (u.chiplet 0).reason)) = some (.fenced, 0x62) := by
  decide +kernel
theorem test_fence_of_a_roped_farm :
    after (exec (.managementFenceRequest 0) (fencing (farm 2 [strip2]))) (fun t =>
      ((t.chiplet 0).st, t.mgmt.flog.entries.get 0, (t.launch 0).map (fun x => (x.failed, x.cairn.map (fun c => c.get 1))))) =
      some (.fenced, 0x1640001, some (some 6, some 200)) := by decide +kernel
theorem test_fence_of_a_belayed_farm :
    after (exec (.thermalTcrit 0 111) (fencing (farm 1 [strip2]))) (fun t =>
      ((t.launch 0).map (fun x => (x.failed, x.lostRanks, x.redeal)), t.msixPending)) = some (some (none, [0], [2]), 1) := by decide +kernel
theorem test_tcrit_itself_fences_nothing :
    after (exec (.thermalTcrit 0 110) (fencing launch0)) (fun t => ((t.chiplet 0).st, (t.core 0).temp)) = some (.full, 110) := by
  decide +kernel


/-! ### Contexts -/

/-- Hart 0 of launch 0 with a save area at 0x10000, and the first doubleword of a good image of a hart without tile,
copies or cursors there; pc 0x444 and status 0x0304 in it. -/
def contexted (h : Hart) : State :=
  let s := savable { h with x := h.x.set 1 0x10000 }
  { s with mem := memPuts s.mem (writesAt 0x10000 ([0x4301000000000000, 0x444, 0x304].flatMap (fun n => leBytes 8 n))) }
/-- The area's pages. -/
def pages132 : List Place := (List.range 132).map (fun i => place (0x10000 + 0x8000 * i))

/-- A hart whose PREEMPT is due, one that has been saved, and one with a lane word that cannot be read. -/
theorem witness_preempt :
    let s := savable { h0 with preemptReq := true }
    let t := savable { h0 with status := .saving }
    let bad := savable { h0 with preemptReq := true, marks := [{ unit := 1, reg := 1, plane := 0, pos := 3 }] }
    s.locks = [] ∧ s.clean = true ∧ s.mem.wf = true ∧ s.saveArea 0 = some 0x10000 ∧ s.preemptDue 0 = true ∧
    s.quiet 0 = true ∧ (s.saveError 0).isNone = true ∧ (savable h0).preemptDue 0 = false ∧ (bad.saveError 0).isSome = true ∧
    bad.preemptDue 0 = true ∧ bad.quiet 0 = true ∧ bad.inService (chipletOf (coreOf 0)) = true ∧ (t.hart 0).status = .saving ∧
    t.saveArea 0 = some 0x10000 ∧ (t.launch (t.hart 0).launch).map (fun x => x.failed) = some none := by decide +kernel
/-- The head of the image that a reader gives, with no copy or cursor in it. -/
def plainHead (s : State) (rd : Nat → Byte) : Option (Bool × Nat) :=
  match imageHead (imageWord rd 0) with
  | some x => if imageUnits s.part rd x = some { copies := [], cursors := [] } then some (x.tile, x.curs) else none
  | none => none
theorem witness_restore :
    let s := contexted { h0 with status := .restoring }
    let rd := fun (o : Nat) => memGet s.mem (0x10000 + o)
    s.locks = [] ∧ s.clean = true ∧ s.mem.wf = true ∧ s.saveArea 0 = some 0x10000 ∧ (s.hart 0).status = .restoring ∧
    plainHead s rd = some (false, 0) ∧ (s.core (coreOf 0)).tileOwner = none ∧
    (∀ n : Fin 8, (s.core (coreOf 0)).slots.get n = none) ∧ (imageWord rd 16).getLsbD 4 = false := by decide +kernel
/-- An image with nothing in it. -/
theorem witness_bad_image :
    let s := savable { h0 with status := .restoring, x := h0.x.set 1 0x10000 }
    (s.hart 0).status = .restoring ∧ imageHead (imageWord (fun o => memGet s.mem (0x10000 + o)) 0) = none ∧
    imageHead (imageWord (fun o => memGet s.mem (areaAddr pages132 o)) 0) = none ∧
    (s.launch (s.hart 0).launch).map (fun x => x.failed) = some none := by decide +kernel
theorem test_bad_image_fails_the_launch :
    after (exec (.contextRestore 0) (savable { h0 with status := .restoring })) (fun t =>
      ((t.hart 0).status, (t.launch 0).map (fun x => x.failed))) = some (.halted, some (some 5)) := by decide +kernel
theorem area_address (o : Nat) (h : o < 0x420000) : areaAddr pages132 o = 0x10000 + o := by
  have hd : o / 2 ^ 15 < 132 := by omega
  simp only [areaAddr, pages132, List.getElem?_map, List.getElem?_range hd, Option.map_some, Option.getD_some, place]
  omega
theorem witness_area : ∀ o r, o < 0x420000 → r < 0x420000 → areaAddr pages132 o = areaAddr pages132 r → o = r := by
  intro o r ho hr h
  rw [area_address o ho, area_address r hr] at h
  omega
theorem witness_ctxs_ctxl :
    let s := contexted { h0 with sr := 0x0010 }
    let rd := fun (o : Nat) => memGet s.mem (areaAddr pages132 o)
    s.locks = [] ∧ s.clean = true ∧ s.mem.wf = true ∧ (s.me.xr 1).toNat % 0x10000 = 0 ∧ s.quiet s.cur = true ∧
    (∀ p ∈ pages132, p.mark = none) ∧ placed (s.probeArea .write (s.me.xr 1) 132) = pages132 ∧
    placed (s.probeArea .read (s.me.xr 1) 132) = pages132 ∧ s.belayed s.cur = false ∧ s.inBelay s.cur = false ∧ (s.saveError s.cur).isNone = true ∧
    plainHead s rd = some (false, 0) ∧ (s.core (coreOf s.cur)).tileOwner = none ∧
    (∀ n : Fin 8, (s.core (coreOf s.cur)).slots.get n = none) := by decide +kernel
/-- An image that wants the tile unit of a core whose unit another hart owns. -/
theorem test_ctxl_of_an_owned_tile_unit :
    let s := contexted h0
    let s := { s with mem := memPuts s.mem (writesAt 0x10000 (leBytes 8 0x4301000400000000)) }
    trapsWith (exec (.ctxl 1) (s.modCore 0 (fun c => { c with tileOwner := some 2 }))) 0x34 2 = true := by decide +kernel
theorem test_ctxl_bad_image :
    after (exec (.ctxl 1) (savable { h0 with x := h0.x.set 1 0x10000 })) (fun t => (t.me.cause, t.me.tval)) =
      some (0x74, 0x10000) := by decide +kernel
/-- The bytes of the image that a save of hart 0 writes. -/
def imageOf (s : State) (o : Nat) : Byte :=
  if o < 8 then BitVec.ofNat 8 ((s.headWord 0).toNat / 256 ^ o) else (s.savedByte 0 0x444 0x0304 o).getD 0
/-- A hart of a save with x1 and an alarm in use, which holds no copy and no cursor. -/
def regular : State := at0 { h0 with alarm := 0x100, vtype := vtypeOf 0x01777 }
theorem witness_regular : (regular.hart 0).Regular where
  x0 := by decide +kernel
  rows := by
    intro n p e _
    show (((Vector.replicate 32 VReg.zero).get n).planes.get p).getLsbD e = false
    simp [Vector.get, VReg.zero]
  vlen := by decide +kernel
  vtype := by decide +kernel
  tshape := by decide +kernel
  zcfg := by decide +kernel
  fflags := by decide +kernel
  ld := by decide +kernel
  tvec := by decide +kernel
  ptbase := by decide +kernel
theorem witness_saved_image :
    (∀ o b, regular.savedByte 0 0x444 0x0304 o = some b → imageOf regular o = b) ∧
    imageWord (imageOf regular) 0 = regular.headWord 0 := by
  refine ⟨fun o b h => ?_, by decide +kernel⟩
  have ho : ¬ o < 8 := fun h8 => by simp [State.savedByte, h8] at h
  show (if o < 8 then _ else _) = b
  rw [if_neg ho]
  exact congrArg (·.getD 0) h
theorem witness_saved_units :
    (regular.core 0).copies = [] ∧ Config.hasWeave regular.part = true ∧ (∀ n : Fin 8, (regular.core 0).slots.get n = none) ∧
    Cursor.ofImage cur0.image = some cur0 := by decide +kernel
theorem test_saved_registers :
    let rd := imageOf regular
    imageWord rd 8 = 0x444 ∧ imageWord rd 16 = 0x0304 ∧ imageWord rd 0x108 = 0x1000 ∧ imageWord rd 0x030 = 0x01777 := by
  decide +kernel
theorem test_saved_status : srSaved 0x071B = 0x070F := by decide +kernel


/-! ### Power, chiplets, clocks and the mailbox -/

/-- The module after power-on with a chiplet of a state. -/
def chip (st : ChipletState) : State := hosted.modChiplet 0 (fun c => { c with st := st })
theorem witness_power :
    State.reset.mgmt.powered = false ∧ (chip .off).mgmt.base = true ∧ (0 : ChipletId).val < Config.chiplets (chip .off).part ∧
    (chip .off).mem.wf = true ∧ ((chip .off).chiplet 0).st = .off ∧ ((chip .fenced).chiplet 0).st = .fenced ∧
    ((chip .provisional).chiplet 0).st = .provisional := by decide +kernel
/-- Chiplet 1 may not join while chiplet 0 is OFF; its turn comes after that, and a decision boundary comes every 8 clocks. -/
theorem witness_join_order :
    (∀ k : ChipletId, ¬ k.val < (0 : ChipletId).val) ∧ ((chip .off).chiplet 1).st = .off ∧
    (∀ k : ChipletId, k.val < (1 : ChipletId).val → ((chip .full).chiplet k).st ≠ .off) ∧ (chip .off).baseClock % 8 = 0 ∧
    { chip .off with baseClock := 9 }.baseClock % 8 ≠ 0 := by decide +kernel
theorem test_join_in_order :
    after (execChipletJoin 1 true (chip .off)) (fun t => (t.chiplet 1).st) = some .off ∧
    after (execChipletJoin 1 false (chip .full)) (fun t => ((t.chiplet 1).st, (t.chiplet 1).reason)) = some (.fenced, 0x64) := by
  decide +kernel
theorem test_chiplet_joins :
    after (execChipletJoin 0 true (chip .fenced)) (fun t => ((t.chiplet 0).st, (t.core 3).clockStep, (t.core 4).clockStep)) =
      some (.provisional, 8, 1) := by decide +kernel
theorem witness_clock_steps :
    let due := (chip .full).modCore 0 (fun k => { k with cycle := 0x10000, clockStep := 16 })
    due.inService (chipletOf 0) = true ∧ (due.core 0).stepAt + 2 ^ 16 ≤ (due.core 0).cycle.toNat ∧ 95 < (96 : Byte).toNat ∧
    (84 : Byte).toNat < 85 ∧ ¬ ((chip .full).core 0).stepAt + 2 ^ 16 ≤ ((chip .full).core 0).cycle.toNat := by decide +kernel
theorem test_hot_reading_fences :
    after (execClockStepIncrease 0 111 false (chip .full)) (fun t => ((t.chiplet 0).st, (t.core 0).temp)) = some (.fenced, 111) := by
  decide +kernel
theorem test_clock_steps :
    let due := (chip .full).modCore 0 (fun k => { k with cycle := 0x10000, clockStep := 16 })
    after (execClockStepDecrease 0 96 false due) (fun t => (t.core 0).clockStep) = some 15 ∧
    after (execClockStepDecrease 0 95 false due) (fun t => (t.core 0).clockStep) = some 16 ∧
    after (execClockStepIncrease 0 84 false due) (fun t => (t.core 0).clockStep) = some 16 := by decide +kernel
/-- The mailbox with a command running, and the module in recovery. -/
def boxed (busy recov : Bool) : State :=
  { hosted with mailbox := { hosted.mailbox with busy := busy }, mgmt := { hosted.mgmt with recov := recov } }
theorem witness_mailbox :
    (boxed true false).hostUp = true ∧ (boxed true false).mailbox.busy = true ∧ (boxed true false).mgmt.recov = false ∧
    (boxed false true).mailbox.busy = false ∧ (boxed false true).mgmt.recov = true ∧ (boxed false false).locks = [] ∧
    (boxed false false).hostUp = true ∧ 3 < (4 : Byte).toNat := by decide +kernel
theorem test_busy_mailbox_sets_ovr :
    after (execGetcert (boxed true false)) (fun t => (t.mailbox.ovr, t.mailbox.busy)) = some (true, true) := by decide +kernel
theorem test_bad_command :
    after (execMailboxBadCommand 9 (boxed false false)) (fun t => (t.mailbox.res, t.mailbox.busy, t.msixPending)) = some (2, false, 0x40000) := by
  decide +kernel
/-- A LOADFW that runs with no image that verifies: its end answers 1 and keeps both banks. -/
theorem witness_loadfw :
    let s := { boxed true false with mailbox := { hosted.mailbox with busy := true, op := 3, arg1 := 0x1000001 } }
    s.mailbox.busy = true ∧ s.mailbox.op = 3 ∧ s.locks = [] ∧ 2 ^ 24 < s.mailbox.arg1.toNat := by decide +kernel
theorem test_loadfw_of_too_many_bytes :
    after (execMailboxCommandComplete { boxed true false with mailbox := { hosted.mailbox with busy := true, op := 3, arg1 := 0x1000001 } })
      (fun t => (t.mailbox.res, t.mailbox.busy, t.flash.marker)) = some (1, false, 0) := by decide +kernel
/-- The digest of the three bytes "abc" of FIPS 180-4. -/
theorem test_sha384_of_abc : sha384 [0x61, 0x62, 0x63] = beBytes 48
    0xcb00753f45a35e8bb5a03d699ac65007272c32ab0eded1631a8b605a43ff5bed8086072ba1e7cc2358baeca134c825a7 := by decide +kernel


/-! ### The memory system -/

/-- One write of hart 0 in core 0's queue, of a generation, with a line of locks. -/
def queued (gen : Byte) (held : Bool) : State :=
  let w : QueuedWrite := { hart := 0, launch := 0, gen := gen, group := 0, after := 0, ordered := false, bytes := [{ pa := 0x1000, val := 0xF5, mask := 0x0F }] }
  let s := (mem0 h0).modCore 0 (fun c => { c with queue := [w] })
  { s with locks := if held then [{ line := 32, slice := 0, holder := some (.module 7), waiting := [] }] else [] }
theorem witness_store_queue :
    ((queued 0 false).core 0).queue.length = 1 ∧ (queued 0 false).canLeave ((queued 0 false).core 0).queue 0 = true ∧
    (queued 0 true).canLeave ((queued 0 true).core 0).queue 0 = false ∧ ((queued 0 false).chiplet 0).gen = 0 ∧
    ((queued 1 false).chiplet 0).gen ≠ 1 ∧ (queued 0 false).clean = true ∧ (queued 0 false).homeLost 0x1000 = false ∧
    (queued 0 false).mem.wf = true := by decide +kernel
theorem test_write_reaches_home :
    after (execStoreQueueWriteHome 0 0 (queued 0 false)) (fun t => memGet t.mem 0x1000) = some 0x05 ∧
    after (execStoreQueueWriteHome 0 0 (queued 1 false)) (fun t => memGet t.mem 0x1000) = some 0x01 := by decide +kernel
/-- A table at 0x200000 whose first entry leads to a table at 0x208000, whose first entry is a page. -/
def tabled : State :=
  let s := at0 { h0 with ptbase := 0x200000 }
  { s with mem := memPuts s.mem (writesAt 0x200000 (leBytes 8 0x208001) ++ writesAt 0x208000 (leBytes 8 0xDF)) }
theorem witness_page_walk :
    (tabled.hart 0).live = true ∧ (0x1000 : Word).toNat < 2 ^ 48 ∧ isLocal 0x1000 = false ∧
    (match tabled.walk (tabled.walkStop 0 0x1000) ((tabled.hart 0).ptbase.toNat / 2 ^ 15) 0x1000 with
      | .leaf pte _ big => pte == 0xDF && big
      | _ => false) = true := by decide +kernel
/-- Line 32 locked by module 7, with hart 2 waiting for it or none, and by hart 3's VAMO. -/
def lockedLine (holder : Holder) (waiting : List HartId) : State :=
  { at0 h0 with locks := [{ line := 32, slice := 0, holder := some holder, waiting := waiting }] }
theorem witness_locked_lines :
    (lockedLine (.module 7) [2]).locks.map (fun l => (l.line, l.holder, l.waiting)) = [(32, some (.module 7), [2])] ∧
    (lockedLine (.hart 3) []).locks.map (fun l => l.holder) = [some (.hart 3)] := by decide +kernel
theorem test_released_line_goes_to_the_first :
    after (exec (.lockedLineGrant 32) (lockedLine (.module 7) [2, 1])) (fun t => (t.lockedFor 2 32, t.lockedFor 1 32)) =
      some (false, true) ∧
    after (exec (.lockedLineGrant 32) (lockedLine (.module 7) [])) (fun t => t.locks.length) = some 0 := by decide +kernel
/-- Two reservations that wait in slice 3. -/
def reserving (n : Nat) : State :=
  { at0 h0 with reservations := [{ slice := 3, hart := 0, lines := n, granted := false }, { slice := 3, hart := 1, lines := 1, granted := false }] }
theorem witness_reservation :
    let s := reserving 65536
    s.reservations.head?.map (fun r => (r.slice, r.granted)) = some (3, false) ∧
    s.heldIn 3 + ((s.reservations.filter (fun k => k.slice == 3 && k.granted)).map (fun k => k.lines)).sum + 65536 ≤ 65536 ∧
    65536 < (reserving 65537).heldIn 3 + 65537 := by decide +kernel
theorem test_reservation_first_in_order :
    after (execLockReservationGrant 3 (reserving 65536)) (fun t => t.reservations.map (fun r => r.granted)) = some [true, false] ∧
    after (execLockReservationGrant 3 (reserving 65537)) (fun t => t.reservations.map (fun r => r.granted)) = some [false, false] := by
  decide +kernel


end Sys2Proof.Tests
end

section
/-! SUPPORT. Loops over states and harts, and what the operations on launches of base camp do (R323, R404). -/

namespace Sys2Proof.Laws
open Sys2Proof.Machine

/-! ### Loops -/

/-- What holds before the steps of a run, what one of its steps establishes, and what every later step keeps. -/
theorem foldl_establishes {σ α : Type} {f : σ → α → σ} {P Q : σ → Prop} {a : α} {l : List α} (m : a ∈ l)
    (keep : ∀ s b, P s → P (f s b)) (make : ∀ s, P s → Q (f s a)) (stay : ∀ s b, Q s → Q (f s b)) {s : σ} (h : P s) :
    Q (l.foldl f s) := by
  obtain ⟨before, after, rfl⟩ := List.append_of_mem m
  rw [List.foldl_append, List.foldl_cons]
  have reached : P (before.foldl f s) := List.foldlRecOn before f h (fun t p b _ => keep t b p)
  exact List.foldlRecOn after f (make _ reached) (fun t q b _ => stay t b q)

/-- A loop over harts that changes each of them changes nothing else. -/
theorem foldl_modHart (f : Hart → Hart) {l : List HartId} (nd : l.Nodup) (s : State) :
    ∃ hs, l.foldl (fun s h => s.modHart h f) s = { s with harts := hs } ∧
      ∀ g, hs.get g = if g ∈ l then f (s.hart g) else s.hart g := by
  induction l generalizing s with
  | nil => exact ⟨s.harts, rfl, fun g => by simp [State.hart]⟩
  | cons a rest ih =>
    obtain ⟨fresh, nd⟩ := List.nodup_cons.mp nd
    obtain ⟨hs, e, each⟩ := ih nd (s.modHart a f)
    refine ⟨hs, e, fun g => ?_⟩
    rw [each, modHart_eq, hart_setHart]
    by_cases n : g = a
    · subst n; simp [fresh]
    · simp [n]

/-! ### Launches -/

theorem launch_modLaunch (s : State) (l k : Nat) {f : Launch → Launch} (same : ∀ x, (f x).ident = x.ident) :
    (s.modLaunch l f).launch k = (s.launch k).map (fun x => if k = l then f x else x) := by
  unfold State.launch State.modLaunch
  have e : (fun x : Launch => x.ident == k) ∘ (fun x => if x.ident == l then f x else x) = (fun x => x.ident == k) := by
    funext x
    by_cases n : x.ident = l <;> simp [n, same]
  rw [List.find?_map, e]
  refine Option.map_congr (fun x m => ?_)
  have := List.find?_some m
  simp_all

/-- A launch after its failure with a code at a base clock (R404). -/
def fallen (x : Launch) (code : Byte) (now : Nat) : Launch := { (x.failWith code now).abandon with lostRanks := [] }

@[simp] theorem failWith_ident (x : Launch) (code : Byte) (now : Nat) : (x.failWith code now).ident = x.ident := by
  unfold Launch.failWith; repeat' split
  all_goals rfl
@[simp] theorem failWith_record (x : Launch) (code : Byte) (now : Nat) : (x.failWith code now).record = x.record := by
  unfold Launch.failWith; repeat' split
  all_goals rfl
@[simp] theorem failWith_cairn (x : Launch) (code : Byte) (now : Nat) : (x.failWith code now).cairn = x.cairn := by
  unfold Launch.failWith; repeat' split
  all_goals rfl
@[simp] theorem abandon_ident (x : Launch) : x.abandon.ident = x.ident := by unfold Launch.abandon; split <;> rfl
@[simp] theorem abandon_record (x : Launch) : x.abandon.record = x.record := by unfold Launch.abandon; split <;> rfl
@[simp] theorem abandon_cairn (x : Launch) : x.abandon.cairn = x.cairn := by unfold Launch.abandon; split <;> rfl
@[simp] theorem abandon_failed (x : Launch) : x.abandon.failed = x.failed := by unfold Launch.abandon; split <;> rfl

@[simp] theorem fallen_ident (x : Launch) (code : Byte) (now : Nat) : (fallen x code now).ident = x.ident := by simp [fallen]
@[simp] theorem fallen_record (x : Launch) (code : Byte) (now : Nat) : (fallen x code now).record = x.record := by simp [fallen]
@[simp] theorem fallen_cairn (x : Launch) (code : Byte) (now : Nat) : (fallen x code now).cairn = x.cairn := by simp [fallen]

/-- A launch that stands, or that has failed with the code, has failed with it afterwards. -/
theorem fallen_failed {x : Launch} {code : Byte} (now : Nat) (h : x.failed = none ∨ x.failed = some code) :
    (fallen x code now).failed = some code := by
  rcases h with h | h <;> simp [fallen, Launch.failWith, h]

theorem launch_failLaunch (s : State) (l k : Nat) (code : Byte) :
    (s.failLaunch l code).launch k = (s.launch k).map (fun x => if k = l then fallen x code s.baseClock else x) := by
  have e : (s.failLaunch l code).launch k = ((s.modLaunch l (fun x => (x.failWith code s.baseClock).abandon)).modLaunch l
      (fun x => { x with lostRanks := [] })).launch k := rfl
  rw [e, launch_modLaunch (f := fun x => { x with lostRanks := [] }) _ l k (fun _ => rfl), launch_modLaunch s l k (by simp),
    Option.map_map]
  refine Option.map_congr (fun x _ => ?_)
  by_cases n : k = l <;> simp [n, fallen]

/-- What the loss of a rank does to a launch (R323): its strip is closed, to be dealt again, and while the launch stands a
new hart starts for the rank. -/
theorem loseRank_eq (x : Launch) (rank : Nat) : ∃ redeal lost, x.loseRank rank =
      { x with opens := x.opens.filter (fun o => o.rank != rank), redeal := redeal, lostRanks := lost } ∧
    (x.failed = none → lost = x.lostRanks ++ [rank]) := by
  unfold Launch.loseRank
  cases e : x.openOf rank with
  | none =>
    have closed : x.opens.filter (fun o => o.rank != rank) = x.opens := by
      simpa [Launch.openOf, List.filter_eq_self] using e
    rw [closed]
    dsimp only
    split
    · exact ⟨_, _, rfl, fun stands => by simp_all⟩
    · exact ⟨_, _, rfl, fun _ => rfl⟩
  | some o =>
    have same : o.rank = rank := by simpa using List.find?_some e
    rw [← same]
    dsimp only
    split
    · next failed => exact ⟨_, _, rfl, fun stands => by simp [Launch.redealStrip, stands] at failed⟩
    · exact ⟨_, _, rfl, fun _ => rfl⟩

@[simp] theorem loseRank_ident (x : Launch) (rank : Nat) : (x.loseRank rank).ident = x.ident := by
  obtain ⟨_, _, e, _⟩ := loseRank_eq x rank; rw [e]
@[simp] theorem loseRank_record (x : Launch) (rank : Nat) : (x.loseRank rank).record = x.record := by
  obtain ⟨_, _, e, _⟩ := loseRank_eq x rank; rw [e]
@[simp] theorem loseRank_failed (x : Launch) (rank : Nat) : (x.loseRank rank).failed = x.failed := by
  obtain ⟨_, _, e, _⟩ := loseRank_eq x rank; rw [e]
theorem loseRank_opens (x : Launch) (rank : Nat) :
    (x.loseRank rank).opens = x.opens.filter (fun o => o.rank != rank) := by
  obtain ⟨_, _, e, _⟩ := loseRank_eq x rank; rw [e]
theorem loseRank_lostRanks {x : Launch} (rank : Nat) (stands : x.failed = none) :
    (x.loseRank rank).lostRanks = x.lostRanks ++ [rank] := by
  obtain ⟨_, _, e, lost⟩ := loseRank_eq x rank; rw [e]; exact lost stands

/-- No strip of the rank is open after its loss. -/
theorem openOf_loseRank_same (x : Launch) (rank : Nat) : (x.loseRank rank).openOf rank = none := by
  simp [Launch.openOf, loseRank_opens]

/-- The loss of a rank opens no strip. -/
theorem openOf_loseRank_none {x : Launch} {r : Nat} (rank : Nat) (h : x.openOf r = none) :
    (x.loseRank rank).openOf r = none := by
  simp only [Launch.openOf, List.find?_eq_none] at h ⊢
  exact fun o m => h o (List.mem_of_mem_filter (loseRank_opens x rank ▸ m))

end Sys2Proof.Laws
end

section
/-! PROOF. Fencing (R348, R361 to R366, R397, R399): what the fence sequence does, loop by loop, what it does to launches
with a hart on the chiplet, and the triggers of a fence. -/

namespace Sys2Proof.Proofs.Fence
open Sys2Proof Sys2Proof.Machine Sys2Proof.Laws

/-! ### The local state of cores (R16, R191) -/

/-- An address of the scratchpad or the scalar data memory of core k. -/
def inLocal (k : CoreId) (a : Nat) : Bool := decide (slotBase k.val ≤ a) && decide (a < slotBase k.val + 0x440000)

theorem inLocal_iff {k : CoreId} {a : Nat} :
    inLocal k a = true ↔ slotBase k.val ≤ a ∧ a < slotBase k.val + 0x440000 := by
  simp [inLocal]

theorem core_clearLocal_lost (s : State) (j k : CoreId) :
    ((s.clearLocal k).modCore k Core.lost).core j = if j = k then (s.core j).lost else s.core j := by
  rw [modCore_eq, core_setCore]
  by_cases n : j = k
  · subst n
    have e : (s.clearLocal j).core j = { s.core j with marks := [] } := core_setCore_same _ _ _
    rw [if_pos rfl, if_pos rfl, e]
    rfl
  · rw [if_neg n, if_neg n]
    exact core_setCore_ne s _ n

theorem memGet_clearLocal {s : State} (wf : s.mem.wf = true) (k : CoreId) (a : Nat) :
    memGet (s.clearLocal k).mem a = if inLocal k a then 0 else memGet s.mem a := by
  refine (memGet_filter wf (fun a => decide (a < slotBase k.val) || decide (slotBase k.val + 0x440000 ≤ a)) a).trans ?_
  have e : (decide (a < slotBase k.val) || decide (slotBase k.val + 0x440000 ≤ a)) = !inLocal k a := by
    simp [inLocal, ← decide_not]
  cases i : inLocal k a <;> simp [e, i]

/-- The loop over the cores of a chiplet: their state is lost, their local memories are zero, and nothing else changes. -/
theorem foldl_loseCore {l : List CoreId} (nd : l.Nodup) (s : State) (wf : s.mem.wf = true) :
    ∃ m cs, l.foldl (fun s k => (s.clearLocal k).modCore k Core.lost) s = { s with mem := m, cores := cs } ∧
      (∀ j, cs.get j = if j ∈ l then (s.core j).lost else s.core j) ∧
      ∀ a, memGet m a = if ∃ k ∈ l, inLocal k a then 0 else memGet s.mem a := by
  induction l generalizing s with
  | nil => exact ⟨s.mem, s.cores, rfl, fun j => by simp [State.core], fun a => by simp⟩
  | cons k rest ih =>
    obtain ⟨fresh, nd⟩ := List.nodup_cons.mp nd
    obtain ⟨m, cs, e, each, bytes⟩ := ih nd ((s.clearLocal k).modCore k Core.lost) (memWfFrom_filter wf _)
    refine ⟨m, cs, e, fun j => ?_, fun a => ?_⟩
    · rw [each, core_clearLocal_lost]
      by_cases n : j = k
      · subst n; simp [fresh]
      · simp [n]
    · rw [bytes, modCore_eq, setCore_mem, memGet_clearLocal wf]
      cases i : inLocal k a <;> simp [i]

/-! ### Steps 1 to 3 of the fence sequence -/

theorem mem_hartsOf {c : ChipletId} {h : HartId} : h ∈ hartsOf c ↔ chipletOf (coreOf h) = c := by
  simp [hartsOf, allHarts]
theorem mem_coresOf {c : ChipletId} {k : CoreId} : k ∈ coresOf c ↔ chipletOf k = c := by
  simp [coresOf, allCores]
theorem hartsOf_nodup (c : ChipletId) : (hartsOf c).Nodup := (List.nodup_finRange 128).filter _
theorem coresOf_nodup (c : ChipletId) : (coresOf c).Nodup := (List.nodup_finRange 32).filter _

/-- The chiplet's record after a fence with a reason. -/
def fencedChiplet (s : State) (c : ChipletId) (reason : Byte) : Chiplet :=
  { st := .fenced, gen := (s.chiplet c).gen + 1, reason := reason, reports := [], limit := false, fencedAt := s.baseClock }

/-- The state after step 1 and the chiplet's part of steps 2 and 3: the log entry and the chiplet's record. -/
def recordFence (s : State) (c : ChipletId) (reason : Byte) : State :=
  { s.modChiplet c (fun _ => fencedChiplet s c reason) with
    mgmt := s.mgmt.logFence s.baseClock (fenceEntry s.baseClock ((s.chiplet c).gen + 1) reason c) }

theorem stopChiplet_eq (s : State) (c : ChipletId) (reason : Byte) : s.stopChiplet c reason =
    (hartsOf c).foldl (fun s h => s.modHart h Hart.vacant)
      ((coresOf c).foldl (fun s k => (s.clearLocal k).modCore k Core.lost) (recordFence s c reason)) := rfl

/-- t is s after steps 1 to 3 of the fence of chiplet c: the log, the chiplet's record, its cores with their memories and
its harts. -/
structure StoppedFrom (s : State) (c : ChipletId) (reason : Byte) (t : State) : Prop where
  chiplets : t.chiplets = (s.modChiplet c (fun _ => fencedChiplet s c reason)).chiplets
  mgmt : t.mgmt = s.mgmt.logFence s.baseClock (fenceEntry s.baseClock ((s.chiplet c).gen + 1) reason c)
  mem : ∀ a, memGet t.mem a = if ∃ k, chipletOf k = c ∧ inLocal k a then 0 else memGet s.mem a
  core : ∀ k, t.core k = if chipletOf k = c then (s.core k).lost else s.core k
  hart : ∀ h, t.hart h = if chipletOf (coreOf h) = c then (s.hart h).vacant else s.hart h
  launch : ∀ l, t.launch l = s.launch l
  signals : t.msix = s.msix ∧ t.msixTable = s.msixTable ∧ t.msixPending = s.msixPending

theorem stopChiplet_stoppedFrom (s : State) (c : ChipletId) (reason : Byte) (wf : s.mem.wf = true) :
    StoppedFrom s c reason (s.stopChiplet c reason) := by
  obtain ⟨m, cs, cores, eachCore, bytes⟩ := foldl_loseCore (coresOf_nodup c) (recordFence s c reason) wf
  obtain ⟨hs, harts, eachHart⟩ :=
    foldl_modHart Hart.vacant (hartsOf_nodup c) { recordFence s c reason with mem := m, cores := cs }
  rw [stopChiplet_eq, cores, harts]
  simp only [mem_coresOf] at eachCore bytes
  simp only [mem_hartsOf] at eachHart
  exact ⟨rfl, rfl, bytes, eachCore, eachHart, fun _ => rfl, rfl, rfl, rfl⟩

/-! ### Step 4: requests of the chiplet's harts -/

/-- A chiplet in service none of whose VAMOs and stores waits for another module, in a module with canonical memory. -/
structure FenceReady (s : State) (c : ChipletId) : Prop where
  inService : s.inService c = true
  wf : s.mem.wf = true
  vamos : ∀ f ∈ s.vamos, chipletOf (coreOf f.owner) ≠ c
  stores : ∀ h r, chipletOf (coreOf h) = c → (s.hart h).remote = .storing r → r.away = false

theorem endPart_of_none_away {s : State} {h : HartId} (p : Bool)
    (home : ∀ r, (s.hart h).remote = .storing r → r.away = false) : s.endPart h p = s := by
  unfold State.endPart
  split
  · next r e => rw [home r e, if_neg (by simp)]
  · rfl

theorem dropFlight_of_no_flight {s : State} {h : HartId} (p : Bool) (idle : ∀ f ∈ s.vamos, f.owner ≠ h) :
    s.dropFlight h p = s := by
  have e : s.flightOf h = none := by simpa [State.flightOf] using idle
  unfold State.dropFlight
  rw [e]

/-- The state in which no hart of a chiplet waits in a STRIP (R322). -/
def unasked (s : State) (c : ChipletId) : State :=
  { s with camp := { s.camp with asks := s.camp.asks.filter (fun h => chipletOf (coreOf h) != c) } }

/-- Where nothing waits for another module, only the waiters in STRIP, the line locks and the reservations change. -/
theorem dropRequests_eq {s : State} {c : ChipletId} (ready : FenceReady s c) :
    ∃ locks rs, s.dropRequests c = { unasked s c with locks := locks, reservations := rs } := by
  unfold State.dropRequests
  refine List.foldlRecOn (motive := fun t : State => ∃ locks rs, t = { unasked s c with locks := locks, reservations := rs })
    (hartsOf c) _ ⟨s.locks, s.reservations, rfl⟩ ?_
  rintro t ⟨locks, rs, e⟩ h m
  have on := mem_hartsOf.mp m
  have home : ∀ r, (t.hart h).remote = .storing r → r.away = false := by rw [e]; exact fun r => ready.stores h r on
  have grounded : ∀ f ∈ t.vamos, f.owner ≠ h := by rw [e]; exact fun f m own => ready.vamos f m (own ▸ on)
  rw [endPart_of_none_away true home, dropFlight_of_no_flight true grounded]
  exact ⟨(t.leaveHomes h).locks, (t.leaveHomes h).reservations, by rw [e]; rfl⟩

/-- Steps 1 to 4 of the fence. -/
theorem dropRequests_stopChiplet_stoppedFrom {s : State} {c : ChipletId} (ready : FenceReady s c) (reason : Byte) :
    StoppedFrom s c reason ((s.dropRequests c).stopChiplet c reason) := by
  obtain ⟨locks, rs, e⟩ := dropRequests_eq ready
  rw [e]
  obtain ⟨chiplets, mgmt, mem, core, hart, launch, signals⟩ :=
    stopChiplet_stoppedFrom { unasked s c with locks := locks, reservations := rs } c reason ready.wf
  exact ⟨chiplets, mgmt, mem, core, hart, launch, signals⟩

/-! ### Launches that lose a hart (R364, R365) -/

/-- A launch after the loss of the hart of a rank, by its kind (Table 13.11). -/
def afterLoss (x : Launch) (rank : Nat) (reason gen : Byte) (c : ChipletId) (now : Nat) : Launch :=
  match x.record.kind.toNat with
  | 1 => x.loseRank rank
  | 2 => fallen (if x.cairn.isSome then x else { x with cairn := some (x.cairnOf reason gen c) }) 0x06 now
  | _ => fallen x 0x07 now

@[simp] theorem afterLoss_ident (x : Launch) (rank : Nat) (reason gen : Byte) (c : ChipletId) (now : Nat) :
    (afterLoss x rank reason gen c now).ident = x.ident := by
  unfold afterLoss; repeat' split
  all_goals simp
@[simp] theorem afterLoss_record (x : Launch) (rank : Nat) (reason gen : Byte) (c : ChipletId) (now : Nat) :
    (afterLoss x rank reason gen c now).record = x.record := by
  unfold afterLoss; repeat' split
  all_goals simp

theorem launch_loseHart (s : State) (l k rank : Nat) (reason gen : Byte) (c : ChipletId) :
    (s.loseHart l rank reason gen c).launch k =
      (s.launch k).map (fun x => if k = l then afterLoss x rank reason gen c s.baseClock else x) := by
  by_cases n : k = l
  · subst n
    cases e : s.launch k with
    | none => simp [State.loseHart, e]
    | some x =>
      unfold State.loseHart afterLoss
      rw [e]
      dsimp only
      split
      · rw [launch_modLaunch _ _ _ (by simp), e]; simp [*]
      · rw [launch_failLaunch, launch_modLaunch _ _ _ (by intro x; split <;> rfl), e]; simp [*]
      · rw [launch_failLaunch, e]; simp [*]
  · unfold State.loseHart
    split
    · simp [n]
    · split
      · rw [launch_modLaunch _ _ _ (by simp)]; simp [n]
      · rw [launch_failLaunch, launch_modLaunch _ _ _ (by intro x; split <;> rfl)]; simp [n]
      · rw [launch_failLaunch]; simp [n]

/-- A launch that may lose harts in this fence: it stands, or has failed by the loss of one. -/
structure Losing (x : Launch) : Prop where
  plain : x.record.kind = 0 → x.failed = none ∨ x.failed = some 0x07
  belayed : x.record.kind = 1 → x.failed = none
  roped : x.record.kind = 2 → x.failed = none ∨ x.failed = some 0x06 ∧ x.cairn.isSome = true

/-- A launch that has lost the hart of a rank (Table 13.11). -/
structure HasLost (rank : Nat) (x : Launch) : Prop where
  plain : x.record.kind = 0 → x.failed = some 0x07
  belayed : x.record.kind = 1 → x.failed = none ∧ rank ∈ x.lostRanks ∧ x.openOf rank = none
  roped : x.record.kind = 2 → x.failed = some 0x06 ∧ x.cairn.isSome = true

theorem HasLost.losing {rank : Nat} {x : Launch} (h : HasLost rank x) : Losing x :=
  ⟨fun k => .inr (h.plain k), fun k => (h.belayed k).1, fun k => .inr (h.roped k)⟩

section
variable {x : Launch} (rank : Nat) (reason gen : Byte) (c : ChipletId) (now : Nat)

theorem afterLoss_of_plain (k : x.record.kind = 0) : afterLoss x rank reason gen c now = fallen x 0x07 now := by
  simp [afterLoss, k]
theorem afterLoss_of_belayed (k : x.record.kind = 1) : afterLoss x rank reason gen c now = x.loseRank rank := by
  simp [afterLoss, k]
theorem afterLoss_of_roped (k : x.record.kind = 2) : afterLoss x rank reason gen c now =
    fallen (if x.cairn.isSome then x else { x with cairn := some (x.cairnOf reason gen c) }) 0x06 now := by
  simp [afterLoss, k]

/-- The loss of a rank's hart takes a launch that stands to one that has lost the rank. -/
theorem Losing.afterLoss (h : Losing x) : HasLost rank (afterLoss x rank reason gen c now) where
  plain k := by
    rw [afterLoss_record] at k
    rw [afterLoss_of_plain rank reason gen c now k]
    exact fallen_failed now (h.plain k)
  belayed k := by
    rw [afterLoss_record] at k
    rw [afterLoss_of_belayed rank reason gen c now k, loseRank_failed, loseRank_lostRanks rank (h.belayed k)]
    exact ⟨h.belayed k, by simp, openOf_loseRank_same x rank⟩
  roped k := by
    rw [afterLoss_record] at k
    rw [afterLoss_of_roped rank reason gen c now k]
    refine ⟨fallen_failed now ?_, ?_⟩
    · split <;> exact (h.roped k).imp_right And.left
    · rw [fallen_cairn]; split <;> simp [*]

/-- What a launch has lost stays lost when it loses another hart. -/
theorem HasLost.afterLoss {r : Nat} (h : HasLost r x) : HasLost r (afterLoss x rank reason gen c now) where
  plain := (h.losing.afterLoss rank reason gen c now).plain
  belayed k := by
    rw [afterLoss_record] at k
    obtain ⟨stands, lost, closed⟩ := h.belayed k
    rw [afterLoss_of_belayed rank reason gen c now k, loseRank_failed, loseRank_lostRanks rank stands]
    exact ⟨stands, List.mem_append_left _ lost, openOf_loseRank_none rank closed⟩
  roped := (h.losing.afterLoss rank reason gen c now).roped

end

/-- The launch of an identifier still holds the record and meets P. -/
def LaunchIs (x : Launch) (P : Launch → Prop) (t : State) : Prop :=
  ∃ z, t.launch x.ident = some z ∧ z.record = x.record ∧ P z

/-- A step of the loop over lost harts: what the launch becomes when the hart is one of its own. -/
theorem LaunchIs.loseHart {x : Launch} {P Q : Launch → Prop} {t : State} (h : LaunchIs x P t) (p : Nat × Nat)
    (reason gen : Byte) (c : ChipletId) (own : ∀ z, P z → p.1 = x.ident → Q (afterLoss z p.2 reason gen c t.baseClock))
    (other : ∀ z, P z → p.1 ≠ x.ident → Q z) : LaunchIs x Q (t.loseHart p.1 p.2 reason gen c) := by
  obtain ⟨z, found, same, holds⟩ := h
  rw [LaunchIs, launch_loseHart, found]
  by_cases n : x.ident = p.1
  · exact ⟨_, rfl, by simp [n, same], by simpa [n] using own z holds n.symm⟩
  · exact ⟨z, by simp [n], same, other z holds (Ne.symm n)⟩

/-- A launch that stands has lost every rank whose hart the fence takes. -/
theorem foldl_loseHart_launch {lost : List (Nat × Nat)} {s : State} {x : Launch} {rank : Nat} (reason gen : Byte)
    (c : ChipletId) (m : (x.ident, rank) ∈ lost) (found : s.launch x.ident = some x) (stands : x.failed = none) :
    LaunchIs x (HasLost rank) (lost.foldl (fun t p => t.loseHart p.1 p.2 reason gen c) s) := by
  refine foldl_establishes (P := LaunchIs x Losing) m (fun t p h => ?_) (fun t h => ?_) (fun t p h => ?_)
    ⟨x, found, rfl, fun _ => .inl stands, fun _ => stands, fun _ => .inl stands⟩
  · exact h.loseHart p reason gen c (fun z k _ => (k.afterLoss p.2 reason gen c _).losing) (fun z k _ => k)
  · exact h.loseHart _ reason gen c (fun z k _ => k.afterLoss rank reason gen c _) (fun z _ n => absurd rfl n)
  · exact h.loseHart p reason gen c (fun z k _ => k.afterLoss p.2 reason gen c _) (fun z k _ => k)

/-- The hart y is the hart x, but that a live one may be asked to stop. -/
def AtMostStopped (x y : Hart) : Prop := y = x ∨ x.live = true ∧ y = { x with stopReq := true }

theorem AtMostStopped.trans {x y z : Hart} (h : AtMostStopped x y) (k : AtMostStopped y z) : AtMostStopped x z := by
  rcases h with rfl | ⟨live, rfl⟩
  · exact k
  · rcases k with rfl | ⟨_, rfl⟩ <;> exact .inr ⟨live, rfl⟩

theorem AtMostStopped.eq {x y : Hart} (h : AtMostStopped x y) : y = { x with stopReq := y.stopReq } := by
  rcases h with rfl | ⟨_, rfl⟩ <;> rfl

theorem AtMostStopped.eq_of_not_live {x y : Hart} (h : AtMostStopped x y) (free : x.live = false) : y = x := by
  rcases h with rfl | ⟨live, _⟩
  · rfl
  · rw [free] at live; cases live

theorem failLaunch_hart_atMostStopped (s : State) (l : Nat) (code : Byte) (h : HartId) :
    AtMostStopped (s.hart h) ((s.failLaunch l code).hart h) := by
  rw [failLaunch_hart]
  split
  · next on => exact .inr ⟨(Bool.and_eq_true _ _ ▸ on).1, rfl⟩
  · exact .inl rfl

/-- The loss of a hart changes base camp and stops harts; nothing else changes. -/
theorem loseHart_frame (s : State) (l rank : Nat) (reason gen : Byte) (c : ChipletId) :
    ∃ hs camp, s.loseHart l rank reason gen c = { s with harts := hs, camp := camp } ∧
      ∀ h, AtMostStopped (s.hart h) (hs.get h) := by
  unfold State.loseHart
  split
  · exact ⟨s.harts, s.camp, rfl, fun _ => .inl rfl⟩
  · split
    · exact ⟨s.harts, _, rfl, fun _ => .inl rfl⟩
    · exact ⟨_, _, rfl, failLaunch_hart_atMostStopped _ l 0x06⟩
    · exact ⟨_, _, rfl, failLaunch_hart_atMostStopped s l 0x07⟩

theorem foldl_loseHart_frame (lost : List (Nat × Nat)) (s : State) (reason gen : Byte) (c : ChipletId) :
    ∃ hs camp, lost.foldl (fun t p => t.loseHart p.1 p.2 reason gen c) s = { s with harts := hs, camp := camp } ∧
      ∀ h, AtMostStopped (s.hart h) (hs.get h) := by
  induction lost generalizing s with
  | nil => exact ⟨s.harts, s.camp, rfl, fun _ => .inl rfl⟩
  | cons p rest ih =>
    obtain ⟨hs, camp, e, first⟩ := loseHart_frame s p.1 p.2 reason gen c
    rw [List.foldl_cons, e]
    obtain ⟨hs', camp', e', later⟩ := ih { s with harts := hs, camp := camp }
    exact ⟨hs', camp', e', fun h => (first h).trans (later h)⟩

/-! ### The fence of a chiplet -/

/-- Launch and rank of the live harts of a chiplet. -/
def lostHarts (s : State) (c : ChipletId) : List (Nat × Nat) :=
  (hartsOf c).filterMap (fun h => if (s.hart h).live then some ((s.hart h).launch, (s.hart h).rank) else none)

theorem mem_lostHarts {s : State} {c : ChipletId} {h : HartId} (on : chipletOf (coreOf h) = c)
    (live : (s.hart h).live = true) : ((s.hart h).launch, (s.hart h).rank) ∈ lostHarts s c :=
  List.mem_filterMap.mpr ⟨h, mem_hartsOf.mpr on, by rw [if_pos live]⟩

theorem fence_eq {s : State} {c : ChipletId} (on : s.inService c = true) (reason : Byte) :
    s.fence c reason = ((lostHarts s c).foldl (fun t p => t.loseHart p.1 p.2 reason ((s.chiplet c).gen + 1) c)
      ((s.dropRequests c).stopChiplet c reason)).signal 0 := by
  unfold State.fence
  rw [on]
  rfl

/-- A fence that is the first of its base clock writes its entry at the place that is next (R399). -/
theorem logFence_entry (m : Management) (now : Nat) (e : Word) (first : m.flogAt ≠ now) :
    (m.logFence now e).flog.entries.get m.flog.next.toFin = e := by
  unfold Management.logFence
  rw [if_neg first]
  exact vget_set_same _ _ _

theorem fenceEntry_toNat (now : Nat) (gen reason : Byte) (c : ChipletId) : (fenceEntry now gen reason c).toNat =
    now / 1024 % 2 ^ 32 * 2 ^ 32 + gen.toNat * 2 ^ 24 + reason.toNat * 2 ^ 16 + c.val * 256 + 1 := by
  have := gen.isLt
  have := reason.isLt
  have := c.isLt
  rw [fenceEntry, BitVec.toNat_ofNat]
  omega

theorem signal_msix_congr {s t : State} (n : Nat) (table : s.msixTable = t.msixTable) (sent : s.msix = t.msix)
    (pending : s.msixPending = t.msixPending) :
    (s.signal n).msix = (t.signal n).msix ∧ (s.signal n).msixPending = (t.signal n).msixPending := by
  unfold State.signal
  rw [table]
  split <;> simp [sent, pending]

theorem vacant_not_live (x : Hart) : x.vacant.live = false := rfl

/-- t is s after the fence of chiplet c with a reason (Tables 13.10 and 13.11). -/
structure FencedFrom (s : State) (c : ChipletId) (reason : Byte) (t : State) : Prop where
  chiplets : t.chiplets = (s.modChiplet c (fun _ => fencedChiplet s c reason)).chiplets
  ownHart : ∀ h, chipletOf (coreOf h) = c → t.hart h = (s.hart h).vacant
  otherHart : ∀ h, chipletOf (coreOf h) ≠ c → AtMostStopped (s.hart h) (t.hart h)
  core : ∀ k, t.core k = if chipletOf k = c then (s.core k).lost else s.core k
  mem : ∀ a, memGet t.mem a = if ∃ k, chipletOf k = c ∧ inLocal k a then 0 else memGet s.mem a
  signal : t.msix = (s.signal 0).msix ∧ t.msixPending = (s.signal 0).msixPending
  mgmt : t.mgmt = s.mgmt.logFence s.baseClock (fenceEntry s.baseClock ((s.chiplet c).gen + 1) reason c)
  launch : ∀ h x, chipletOf (coreOf h) = c → (s.hart h).live = true → s.launch (s.hart h).launch = some x →
    x.failed = none → LaunchIs x (HasLost (s.hart h).rank) t

/-- The fence of a chiplet in service none of whose VAMOs and stores waits for another module. -/
theorem fence_fencedFrom {s : State} {c : ChipletId} (ready : FenceReady s c) (reason : Byte) :
    FencedFrom s c reason (s.fence c reason) := by
  have stopped := dropRequests_stopChiplet_stoppedFrom ready reason
  rw [fence_eq ready.inService]
  generalize (s.dropRequests c).stopChiplet c reason = t at stopped ⊢
  have launches (x : Launch) (rank : Nat) (m : (x.ident, rank) ∈ lostHarts s c) (found : s.launch x.ident = some x) :=
    foldl_loseHart_launch reason ((s.chiplet c).gen + 1) c m ((stopped.launch _).trans found)
  obtain ⟨hs, camp, lost, each⟩ := foldl_loseHart_frame (lostHarts s c) t reason ((s.chiplet c).gen + 1) c
  rw [lost] at launches ⊢
  constructor
  case chiplets => exact (signal_chiplets _ 0).trans stopped.chiplets
  case ownHart =>
    intro h on
    have vacant : t.hart h = (s.hart h).vacant := (stopped.hart h).trans (if_pos on)
    rw [hart_signal, ← vacant]
    exact (each h).eq_of_not_live (vacant ▸ vacant_not_live _)
  case otherHart =>
    intro h off
    have same : t.hart h = s.hart h := (stopped.hart h).trans (if_neg off)
    rw [hart_signal, ← same]
    exact each h
  case core => exact fun k => (core_signal _ 0 k).trans (stopped.core k)
  case mem => exact fun a => (congrArg (memGet · a) (signal_mem _ 0)).trans (stopped.mem a)
  case signal =>
    obtain ⟨sent, table, pending⟩ := stopped.signals
    exact signal_msix_congr 0 table sent pending
  case mgmt => exact (signal_mgmt _ 0).trans stopped.mgmt
  case launch =>
    intro h x on live found stands
    have own : x.ident = (s.hart h).launch := by simpa using List.find?_some found
    obtain ⟨z, there, same, holds⟩ := launches x (s.hart h).rank (own ▸ mem_lostHarts on live) (own ▸ found) stands
    exact ⟨z, (launch_signal _ 0 _).trans there, same, holds⟩

/-! ### The triggers of a fence -/

theorem hostFence_eq (s : State) {c : ChipletId} {v : Word} (names : v.toNat % 256 = c.val) :
    exec (.hostFence v) s =
      if s.mgmt.base && v.toNat / 256 % 256 == 0xA5 && s.present c then .next (s.fence c 0x64) else .next s := by
  have e : (⟨v.toNat % 256, names ▸ c.isLt⟩ : ChipletId) = c := Fin.ext names
  show execHostFence v s = _
  unfold execHostFence
  dsimp only
  rw [dif_pos (names ▸ c.isLt), e]
  rfl

theorem laneSramReportLimit_eq (s : State) (c : ChipletId) : exec (.laneSramReportLimit c) s =
    if (s.chiplet c).limit then .next (s.fence c 0x62) else .next s := rfl

theorem thermalTcrit_eq (s : State) {k : CoreId} (temp : Byte) (present : s.present (chipletOf k) = true) :
    exec (.thermalTcrit k temp) s = let u := s.setCore k { s.core k with temp := temp }
      if 110 < temp.toNat then .next (u.fence (chipletOf k) 0x64) else .next u := by
  show execThermalTcrit k temp s = _
  unfold execThermalTcrit State.readTemp
  rw [if_pos present]
  exact apply_ite Host.Outcome.next _ _ _

/-- A reading of a sensor leaves what a fence of any chiplet needs. -/
theorem FenceReady.setCore {s : State} {c : ChipletId} (ready : FenceReady s c) (k : CoreId) (x : Core) :
    FenceReady (s.setCore k x) c :=
  ⟨ready.inService, ready.wf, ready.vamos, ready.stores⟩

/-! ### Reports of lane SRAM errors (R348) -/

/-- Of 64 reports or more, the newest now, the newest 64 stand within the time of R348 when the 64th of them does. -/
theorem reportsDense_take (now : Nat) (old : List Nat) : reportsDense ((now :: old).take 64) = true ↔
    ∃ first, old[62]? = some first ∧ 7 * (now - first) < 10 * 2 ^ 30 := by
  by_cases full : 62 < old.length
  · have last : ((now :: old).take 64).getLastD 0 = old[62] := by
      rw [List.getLastD_eq_getLast?, List.getLast?_eq_getElem?]
      simp [Nat.min_eq_left (show 63 ≤ old.length from full)]
    have len : ((now :: old).take 64).length = 64 := by simp; omega
    rw [reportsDense, last, len]
    simp [full]
  · have few : (((now :: old).take 64).length == 64) = false := by simp; omega
    have absent : old[62]? = none := by simp; omega
    rw [reportsDense, few, absent]
    simp

theorem noteReport_laneSram (s : State) (h : HartId) :
    s.noteReport h 0x62 = s.modChiplet (chipletOf (coreOf h)) (fun k => k.note s.baseClock) := rfl

theorem trapHart_chiplet (s : State) (h : HartId) (cause : BitVec 7) (v e : Word) (c : ChipletId) :
    (s.trapHart h cause v e).chiplet c = (s.noteReport h cause).chiplet c := by
  unfold State.trapHart
  split
  · exact chiplet_congr (halt_chiplets _ h) c
  · rfl

theorem trapHart_laneSram_chiplet (s : State) (h : HartId) (v e : Word) :
    (s.trapHart h 0x62 v e).chiplet (chipletOf (coreOf h)) = (s.chiplet (chipletOf (coreOf h))).note s.baseClock := by
  rw [trapHart_chiplet, noteReport_laneSram, chiplet_modChiplet_same]

theorem note_limit (k : Chiplet) (now : Nat) : (k.note now).limit = true ↔
    k.limit = true ∨ ∃ old, k.reports[62]? = some old ∧ 7 * (now - old) < 10 * 2 ^ 30 := by
  rw [← reportsDense_take, ← Bool.or_eq_true]
  rfl

end Sys2Proof.Proofs.Fence

namespace Sys2Proof.Proofs
open Sys2Proof Sys2Proof.Machine Sys2Proof.Laws Fence

/-- Settles O56: every trigger runs the one fence sequence, whose steps are followed loop by loop. -/
theorem fenceEvents : Obligations.FenceEvents := by
  intro s c on wf vamos stores fenced
  have ready : FenceReady s c := ⟨on, wf, vamos, stores⟩
  have fences {u : State} (reason : Byte) (ready : FenceReady u c) : fenced u reason (.next (u.fence c reason)) := by
    have f := fence_fencedFrom ready reason
    refine ⟨_, rfl, (chiplet_congr f.chiplets c).trans (chiplet_modChiplet_same u c _),
      fun k n => (chiplet_congr f.chiplets k).trans (chiplet_modChiplet_ne u _ n), f.ownHart,
      fun h off => (f.otherHart h off).eq, fun k on => (f.core k).trans (if_pos on),
      fun k off => (f.core k).trans (if_neg off), ?_, f.signal.1, f.signal.2, ?_, ?_⟩
    · simpa only [inLocal_iff] using f.mem
    · intro first
      rw [f.mgmt, logFence_entry _ _ _ first, fenceEntry_toNat]
    · intro h x on live found stands
      obtain ⟨z, there, same, lost⟩ := f.launch h x on live found stands
      exact ⟨z, there, same ▸ lost.plain, same ▸ lost.belayed, same ▸ lost.roped⟩
  refine ⟨fun v base names present => ⟨fun key => ?_, fun key => ?_⟩, fun limit => ?_, fun limit => ?_,
    fun h v e on => ?_, fences _ ready, fences _ ready, fences _ ready, fences _ ready,
    fun k temp on present => ⟨fun hot => ?_, fun cool => ?_⟩⟩
  · rw [hostFence_eq s names, if_pos (by simp [base, key, State.present, present])]
    exact fences _ ready
  · rw [hostFence_eq s names, if_neg (by simp [key])]
  · rw [laneSramReportLimit_eq, if_pos limit]
    exact fences _ ready
  · rw [laneSramReportLimit_eq, if_neg (by simp [limit])]
  · subst on
    exact ⟨_, trapHart_laneSram_chiplet s h v e, rfl, rfl, note_limit _ _⟩
  · subst on
    rw [thermalTcrit_eq s temp (by simpa [State.present] using present)]
    exact (if_pos hot).symm ▸ fences _ (ready.setCore k _)
  · subst on
    rw [thermalTcrit_eq s temp (by simpa [State.present] using present)]
    exact if_neg (by omega)

end Sys2Proof.Proofs
end
section
/-! PROOF. Instruction words (R26 to R38, Tables 2.1 to 2.7): the formats split a word into its fields, the encoder's
words decode, and what decodes is the encoder's word. -/

namespace Sys2Proof.Proofs.Words
open Sys2Proof Sys2Proof.Laws

/-! ### A field of joined fields -/

/-- Two neighbouring fields are one field. -/
theorem extract_split {n : Nat} (w : BitVec n) (s a b : Nat) :
    w.extractLsb' s (a + b) = w.extractLsb' (s + b) a ++ w.extractLsb' s b := by
  apply BitVec.eq_of_getLsbD_eq
  intro i hi
  simp only [BitVec.getLsbD_extractLsb', BitVec.getLsbD_append, hi, decide_true, Bool.true_and]
  split
  · simp [*]
  · rw [show s + b + (i - b) = s + i by omega]; simp; omega

theorem toNat_eq_lit {n k : Nat} {x : BitVec n} (h : k < 2 ^ n) : x.toNat = k ↔ x = BitVec.ofNat n k := by
  rw [← BitVec.toNat_inj, BitVec.toNat_ofNat, Nat.mod_eq_of_lt h]

/-! ### A word is packed from its fields, format by format (Table 2.1) -/

theorem packR_eq_iff {op : BitVec 6} {d a b : Reg} {fn : BitVec 11} {w : BitVec 32} :
    packR op d a b fn = w ↔ fOp w = op ∧ fD w = d ∧ fA w = a ∧ fB w = b ∧ fFn w = fn := by
  constructor
  · rintro rfl; simp
  · rintro ⟨rfl, rfl, rfl, rfl, rfl⟩
    unfold packR fOp fD fA fB fFn
    rw [← extract_split w 21 6 5, ← extract_split w 16 11 5, ← extract_split w 11 16 5, ← extract_split w 0 21 11,
      extract_all]

theorem packI_eq_iff {op : BitVec 6} {d a : Reg} {imm : BitVec 16} {w : BitVec 32} :
    packI op d a imm = w ↔ fOp w = op ∧ fD w = d ∧ fA w = a ∧ fImm16 w = imm := by
  constructor
  · rintro rfl; simp
  · rintro ⟨rfl, rfl, rfl, rfl⟩
    unfold packI fOp fD fA fImm16
    rw [← extract_split w 21 6 5, ← extract_split w 16 11 5, ← extract_split w 0 16 16, extract_all]

theorem packJ_eq_iff {op : BitVec 6} {d : Reg} {off : BitVec 21} {w : BitVec 32} :
    packJ op d off = w ↔ fOp w = op ∧ fD w = d ∧ fOff21 w = off := by
  constructor
  · rintro rfl; simp
  · rintro ⟨rfl, rfl, rfl⟩
    unfold packJ fOp fD fOff21
    rw [← extract_split w 21 6 5, ← extract_split w 0 11 21, extract_all]

theorem packM13_eq_iff {op : BitVec 6} {d a : Reg} {sz : BitVec 3} {imm : BitVec 13} {w : BitVec 32} :
    packM13 op d a sz imm = w ↔ fOp w = op ∧ fD w = d ∧ fA w = a ∧ fSz w = sz ∧ fImm13 w = imm := by
  constructor
  · rintro rfl; simp
  · rintro ⟨rfl, rfl, rfl, rfl, rfl⟩
    unfold packM13 fOp fD fA fSz fImm13
    rw [← extract_split w 21 6 5, ← extract_split w 16 11 5, ← extract_split w 13 16 3, ← extract_split w 0 19 13,
      extract_all]

theorem packV_eq_iff {op : BitVec 6} {d a b : Reg} {k : KReg} {bk : BitVec 2} {fn : BitVec 6} {w : BitVec 32} :
    packV op d a b k bk fn = w ↔
      fOp w = op ∧ fD w = d ∧ fA w = a ∧ fB w = b ∧ fK w = k ∧ fKind w = bk ∧ fFn6 w = fn := by
  constructor
  · rintro rfl; simp
  · rintro ⟨rfl, rfl, rfl, rfl, rfl, rfl, rfl⟩
    unfold packV fOp fD fA fB fK fKind fFn6
    rw [← extract_split w 21 6 5, ← extract_split w 16 11 5, ← extract_split w 11 16 5, ← extract_split w 8 21 3,
      ← extract_split w 6 24 2, ← extract_split w 0 26 6, extract_all]

theorem packVM_eq_iff {op : BitVec 6} {v a x : Reg} {k : KReg} {mv p : BitVec 4} {w : BitVec 32} :
    packVM op v a x k mv p = w ↔ fOp w = op ∧ fD w = v ∧ fA w = a ∧ fB w = x ∧ fK w = k ∧ fMv w = mv ∧ fP4 w = p := by
  constructor
  · rintro rfl; simp
  · rintro ⟨rfl, rfl, rfl, rfl, rfl, rfl, rfl⟩
    unfold packVM fOp fD fA fB fK fMv fP4
    rw [← extract_split w 21 6 5, ← extract_split w 16 11 5, ← extract_split w 11 16 5, ← extract_split w 8 21 3,
      ← extract_split w 4 24 4, ← extract_split w 0 28 4, extract_all]

theorem packM_eq_iff {op : BitVec 6} {z : BitVec 1} {va vb : Reg} {kr kc : KReg} {fn : BitVec 9} {w : BitVec 32} :
    packM op z va vb kr kc fn = w ↔
      fOp w = op ∧ fZ w = z ∧ fMa w = va ∧ fMb w = vb ∧ fKr w = kr ∧ fKc w = kc ∧ fFn9 w = fn := by
  constructor
  · rintro rfl; simp
  · rintro ⟨rfl, rfl, rfl, rfl, rfl, rfl, rfl⟩
    unfold packM fOp fZ fMa fMb fKr fKc fFn9
    rw [← extract_split w 25 6 1, ← extract_split w 20 7 5, ← extract_split w 15 12 5, ← extract_split w 12 17 3,
      ← extract_split w 9 20 3, ← extract_split w 0 23 9, extract_all]

theorem packPfx_eq_iff {p d2 : Reg} {neg cp : BitVec 1} {w : BitVec 32} :
    packPfx p neg cp d2 = w ↔ fOp w = 1 ∧ fD w = p ∧ w.extractLsb' 20 1 = neg ∧ w.extractLsb' 19 1 = cp ∧
      w.extractLsb' 14 5 = d2 ∧ w.extractLsb' 0 14 = (0 : BitVec 14) := by
  constructor
  · rintro rfl
    refine ⟨?_, ?_, ?_, ?_, ?_, ?_⟩ <;>
      simp (disch := decide) only [packPfx, fOp, fD, extract_low, extract_high] <;> exact extract_all _ _
  · rintro ⟨op, rfl, rfl, rfl, rfl, low⟩
    unfold packPfx
    rw [← op, ← low]
    unfold fOp fD
    rw [← extract_split w 21 6 5, ← extract_split w 20 11 1, ← extract_split w 19 12 1, ← extract_split w 14 13 5,
      ← extract_split w 0 18 14, extract_all]

/-! ### Fields of part of a packed word -/

theorem extract_packR (op : BitVec 6) (d a b : Reg) (fn : BitVec 11) {s n : Nat} (h : s + n ≤ 11) :
    (packR op d a b fn).extractLsb' s n = fn.extractLsb' s n := extract_low _ _ _ _ _ _ h
theorem extract_packI (op : BitVec 6) (d a : Reg) (imm : BitVec 16) {s n : Nat} (h : s + n ≤ 16) :
    (packI op d a imm).extractLsb' s n = imm.extractLsb' s n := extract_low _ _ _ _ _ _ h
theorem extract_packI_a (op : BitVec 6) (d a : Reg) (imm : BitVec 16) {s n : Nat} (h : 16 ≤ s) (k : s - 16 + n ≤ 5) :
    (packI op d a imm).extractLsb' s n = a.extractLsb' (s - 16) n := by
  unfold packI; rw [extract_high _ _ _ _ _ _ h, extract_low _ _ _ _ _ _ k]
theorem extract_packVM (op : BitVec 6) (v a x : Reg) (k : KReg) (mv p : BitVec 4) {s n : Nat} (h : s + n ≤ 4) :
    (packVM op v a x k mv p).extractLsb' s n = p.extractLsb' s n := extract_low _ _ _ _ _ _ h
theorem extract_packM (op : BitVec 6) (z : BitVec 1) (va vb : Reg) (kr kc : KReg) (fn : BitVec 9) {s n : Nat}
    (h : s + n ≤ 9) : (packM op z va vb kr kc fn).extractLsb' s n = fn.extractLsb' s n := extract_low _ _ _ _ _ _ h

/-! ### Sub-fields: the value named by the bits of a value, and the bits of the value named by bits -/

@[simp] theorem amoWidthOf_bits (x : AmoWidth) : amoWidthOf x.bits = x := by cases x <;> rfl
@[simp] theorem scopeOf_bits (x : Scope) : scopeOf x.bits = x := by cases x <;> rfl
@[simp] theorem orderOf_bits (x : Order) : Sys2Proof.orderOf x.bits = x := by cases x <;> rfl
@[simp] theorem fenceSetOf_bits (x : FenceSet) : fenceSetOf x.bits = some x := by cases x <;> rfl
@[simp] theorem rndOf_bits (x : Rnd) : rndOf x.bits = some x := by cases x <;> rfl
@[simp] theorem rndOf_zero : rndOf 0#3 = some .rne := rfl
@[simp] theorem precOf_bits (x : Prec) : precOf x.bits = x := by cases x <;> rfl
@[simp] theorem bSrcOf_kind_field (x : BSrc) : bSrcOf x.kind x.field = some x := by cases x <;> rfl
@[simp] theorem bSrcOf_zero (f : BitVec 5) : bSrcOf 0#2 f = some (.vec f) := rfl
@[simp] theorem vsSrcOf_kind_field (x : VsSrc) : vsSrcOf x.kind x.field = some x := by cases x <;> rfl
@[simp] theorem vsSrcOf_zero (f : BitVec 5) : vsSrcOf 0#2 f = some (.vec f) := rfl
@[simp] theorem siSrcOf_kind_field (x : SiSrc) : siSrcOf x.kind x.field = some x := by cases x <;> rfl
@[simp] theorem boolBit_eq_one (x : Bool) : boolBit x = 1#1 ↔ x = true := by cases x <;> decide

@[simp] theorem bits_amoWidthOf (b : BitVec 1) : (amoWidthOf b).bits = b := by revert b; decide
@[simp] theorem bits_scopeOf (b : BitVec 2) : (scopeOf b).bits = b := by revert b; decide
@[simp] theorem bits_orderOf (b : BitVec 2) : (Sys2Proof.orderOf b).bits = b := by revert b; decide
@[simp] theorem bits_precOf (b : BitVec 1) : (precOf b).bits = b := by revert b; decide
@[simp] theorem boolBit_decide (b : BitVec 1) : boolBit (decide (b = 1#1)) = b := by revert b; decide
theorem bits_of_fenceSetOf {b : BitVec 2} {x : FenceSet} : fenceSetOf b = some x → x.bits = b := by
  revert b x; decide
theorem bits_of_rndOf {b : BitVec 3} {x : Rnd} : rndOf b = some x → x.bits = b := by revert b; cases x <;> decide
theorem of_bSrcOf {k : BitVec 2} {f : BitVec 5} {b : BSrc} (h : bSrcOf k f = some b) : k = b.kind ∧ f = b.field := by
  unfold bSrcOf at h
  repeat' split at h
  all_goals cases h
  all_goals exact ⟨‹_›, rfl⟩
theorem of_vsSrcOf {k : BitVec 2} {f : BitVec 5} {b : VsSrc} (h : vsSrcOf k f = some b) : k = b.kind ∧ f = b.field := by
  unfold vsSrcOf at h
  repeat' split at h
  all_goals cases h
  all_goals exact ⟨‹_›, rfl⟩
theorem of_siSrcOf {k : BitVec 2} {f : BitVec 5} {b : SiSrc} (h : siSrcOf k f = some b) : k = b.kind ∧ f = b.field := by
  unfold siSrcOf at h
  repeat' split at h
  all_goals cases h
  all_goals exact ⟨‹_›, rfl⟩

theorem kHi_append_kOf (f : Reg) : kHi f ++ kOf f = f := by
  unfold kHi kOf; rw [← extract_split f 0 2 3, extract_all]
theorem eq_append_kOf {f : Reg} {n : Nat} (h : (kHi f).toNat = n) : f = BitVec.ofNat 2 n ++ kOf f := by
  rw [← h, BitVec.ofNat_toNat, BitVec.setWidth_eq, kHi_append_kOf]
theorem kField_kOf {f : Reg} (h : kHi f = 0) : kField (kOf f) = f :=
  (eq_append_kOf (congrArg BitVec.toNat h)).symm

/-! ### The sub-fields of a group's words (Tables 2.3 to 2.7) -/

theorem fImm16_shi (w : BitVec 32) : fImm16 w = (w.extractLsb' 6 10 ++ w.extractLsb' 0 6 : BitVec 16) :=
  extract_split w 0 10 6
theorem fImm16_csr (w : BitVec 32) : fImm16 w = (w.extractLsb' 12 4 ++ w.extractLsb' 0 12 : BitVec 16) :=
  extract_split w 0 4 12
theorem fA_li (w : BitVec 32) : fA w = (w.extractLsb' 18 3 ++ w.extractLsb' 16 2 : BitVec 5) := extract_split w 16 3 2
theorem fFn_sys (w : BitVec 32) : fFn w = (w.extractLsb' 4 7 ++ fP4 w : BitVec 11) := extract_split w 0 7 4
theorem sys_fence (w : BitVec 32) :
    w.extractLsb' 4 7 = (w.extractLsb' 8 3 ++ w.extractLsb' 6 2 ++ w.extractLsb' 4 2 : BitVec 7) := by
  rw [← extract_split w 6 3 2, ← extract_split w 4 5 2]
theorem fFn_amo (w : BitVec 32) : fFn w =
    (w.extractLsb' 9 2 ++ w.extractLsb' 8 1 ++ w.extractLsb' 6 2 ++ w.extractLsb' 4 2 ++ fP4 w : BitVec 11) := by
  unfold fFn fP4
  rw [← extract_split w 8 2 1, ← extract_split w 6 3 2, ← extract_split w 4 5 2, ← extract_split w 0 7 4]
theorem fFn_fpu (w : BitVec 32) : fFn w =
    (w.extractLsb' 8 3 ++ w.extractLsb' 5 3 ++ w.extractLsb' 4 1 ++ fP4 w : BitVec 11) := by
  unfold fFn fP4
  rw [← extract_split w 5 3 3, ← extract_split w 4 6 1, ← extract_split w 0 7 4]
theorem fFn_weave (w : BitVec 32) : fFn w = (w.extractLsb' 7 4 ++ w.extractLsb' 4 3 ++ fP4 w : BitVec 11) := by
  unfold fFn fP4
  rw [← extract_split w 4 4 3, ← extract_split w 0 7 4]
theorem fP4_vamo (w : BitVec 32) : fP4 w = (w.extractLsb' 3 1 ++ w.extractLsb' 0 3 : BitVec 4) := extract_split w 0 1 3
theorem fFn9_mslc (w : BitVec 32) :
    fFn9 w = (w.extractLsb' 8 1 ++ w.extractLsb' 7 1 ++ w.extractLsb' 0 7 : BitVec 9) := by
  unfold fFn9; rw [← extract_split w 7 1 1, ← extract_split w 0 2 7]
theorem planes_split (b : Reg) : b.extractLsb' 4 1 ++ b.extractLsb' 0 4 = b := by
  rw [← extract_split b 0 1 4, extract_all]

/-! ### Which group a major names (Table 2.2) -/

theorem decodeMajor_alu {w : BitVec 32} (h : fOp w = 0x02) : decodeMajor w = decodeAlu w := by
  delta decodeMajor decodeOther; rw [h]; rfl
theorem decodeMajor_shi {w : BitVec 32} (h : fOp w = 0x09) : decodeMajor w = decodeShi w := by
  delta decodeMajor decodeOther; rw [h]; rfl
theorem decodeMajor_li {w : BitVec 32} (h : fOp w = 0x0a) : decodeMajor w = decodeLi .li w := by
  delta decodeMajor decodeOther; rw [h]; rfl
theorem decodeMajor_lik {w : BitVec 32} (h : fOp w = 0x0b) : decodeMajor w = decodeLi .lik w := by
  delta decodeMajor decodeOther; rw [h]; rfl
theorem decodeMajor_bmask {w : BitVec 32} (h : fOp w = 0x16) : decodeMajor w = decodeBmask w := by
  delta decodeMajor decodeOther; rw [h]; rfl
theorem decodeMajor_loop {w : BitVec 32} (h : fOp w = 0x19) : decodeMajor w = decodeLoop w := by
  delta decodeMajor decodeOther; rw [h]; rfl
theorem decodeMajor_lds {w : BitVec 32} (h : fOp w = 0x1a) : decodeMajor w = decodeLds w := by
  delta decodeMajor decodeOther; rw [h]; rfl
theorem decodeMajor_sts {w : BitVec 32} (h : fOp w = 0x1b) : decodeMajor w = decodeSts w := by
  delta decodeMajor decodeOther; rw [h]; rfl
theorem decodeMajor_fls {w : BitVec 32} (h : fOp w = 0x1e) : decodeMajor w = decodeFls w := by
  delta decodeMajor decodeOther; rw [h]; rfl
theorem decodeMajor_amo {w : BitVec 32} (h : fOp w = 0x1c) : decodeMajor w = decodeAmo w := by
  delta decodeMajor decodeOther; rw [h]; rfl
theorem decodeMajor_fpu {w : BitVec 32} (h : fOp w = 0x1d) : decodeMajor w = decodeFpu w := by
  delta decodeMajor decodeOther; rw [h]; rfl
theorem decodeMajor_sys {w : BitVec 32} (h : fOp w = 0x1f) : decodeMajor w = decodeSys w := by
  delta decodeMajor decodeOther; rw [h]; rfl
theorem decodeMajor_csr {w : BitVec 32} (h : fOp w = 0x20) : decodeMajor w = decodeCsr w := by
  delta decodeMajor decodeOther; rw [h]; rfl
theorem decodeMajor_sync {w : BitVec 32} (h : fOp w = 0x21) : decodeMajor w = decodeSync w := by
  delta decodeMajor decodeOther; rw [h]; rfl
theorem decodeMajor_vcfg {w : BitVec 32} (h : fOp w = 0x22) : decodeMajor w = decodeVcfg w := by
  delta decodeMajor decodeOther; rw [h]; rfl
theorem decodeMajor_vint {w : BitVec 32} (h : fOp w = 0x24) : decodeMajor w = decodeVint w := by
  delta decodeMajor decodeOther; rw [h]; rfl
theorem decodeMajor_vfp {w : BitVec 32} (h : fOp w = 0x25) : decodeMajor w = decodeVfp w := by
  delta decodeMajor decodeOther; rw [h]; rfl
theorem decodeMajor_vmsk {w : BitVec 32} (h : fOp w = 0x26) : decodeMajor w = decodeVmsk w := by
  delta decodeMajor decodeOther; rw [h]; rfl
theorem decodeMajor_vperm {w : BitVec 32} (h : fOp w = 0x27) : decodeMajor w = decodeVperm w := by
  delta decodeMajor decodeOther; rw [h]; rfl
theorem decodeMajor_vred {w : BitVec 32} (h : fOp w = 0x28) : decodeMajor w = decodeVred w := by
  delta decodeMajor decodeOther; rw [h]; rfl
theorem decodeMajor_vcvt {w : BitVec 32} (h : fOp w = 0x29) : decodeMajor w = decodeVcvt w := by
  delta decodeMajor decodeOther; rw [h]; rfl
theorem decodeMajor_vld {w : BitVec 32} (h : fOp w = 0x2a) : decodeMajor w = decodeVld w := by
  delta decodeMajor decodeOther; rw [h]; rfl
theorem decodeMajor_vst {w : BitVec 32} (h : fOp w = 0x2b) : decodeMajor w = decodeVst w := by
  delta decodeMajor decodeOther; rw [h]; rfl
theorem decodeMajor_vamo {w : BitVec 32} (h : fOp w = 0x2c) : decodeMajor w = decodeVamo w := by
  delta decodeMajor decodeOther; rw [h]; rfl
theorem decodeMajor_qls {w : BitVec 32} (h : fOp w = 0x2d) : decodeMajor w = decodeQls w := by
  delta decodeMajor decodeOther; rw [h]; rfl
theorem decodeMajor_mtile {w : BitVec 32} (h : fOp w = 0x30) : decodeMajor w = decodeMtile w := by
  delta decodeMajor decodeOther; rw [h]; rfl
theorem decodeMajor_mopa {w : BitVec 32} (h : fOp w = 0x31) : decodeMajor w = decodeMopa w := by
  delta decodeMajor decodeOther; rw [h]; rfl
theorem decodeMajor_mslc {w : BitVec 32} (h : fOp w = 0x32) : decodeMajor w = decodeMslc w := by
  delta decodeMajor decodeOther; rw [h]; rfl
theorem decodeMajor_xcpy {w : BitVec 32} (h : fOp w = 0x34) : decodeMajor w = decodeXcpy w := by
  delta decodeMajor; rw [h]; rfl
theorem decodeMajor_weave {w : BitVec 32} (h : fOp w = 0x35) : decodeMajor w = decodeWeave w := by
  delta decodeMajor; rw [h]; rfl
theorem decodeMajor_farm {w : BitVec 32} (h : fOp w = 0x36) : decodeMajor w = decodeFarm w := by
  delta decodeMajor; rw [h]; rfl
theorem decodeMajor_fab {w : BitVec 32} (h : fOp w = 0x37) : decodeMajor w = decodeFab w := by
  delta decodeMajor; rw [h]; rfl
theorem decodeMajor_pfx {w : BitVec 32} (h : fOp w = 0x01) : decodeMajor w = decodePfx w := by
  delta decodeMajor; rw [h]; rfl

/-! ### The encoder's words decode -/

theorem decodeMajor_encode {i : Instr} {w : BitVec 32} (wf : i.wellFormed = true) (word : encode i = some w) :
    decodeMajor w = some i := by
  cases i with
  | addi | andi | ori | xori | slti | sltiu | addpc | beq | bne | blt | bge | bltu | bgeu | jal | jalr =>
    cases word; simp [decodeMajor, decodeOther]
  | add | sub | and | or | xor | nor | sll | srl | sra | rol | ror | slt | sltu | min | max | minu | maxu | mul | mulh
    | mulhu | div | divu | rem | remu | clz | ctz | popc | bext | bins =>
    cases word; rw [decodeMajor_alu (by simp)]
    simp [decodeAlu, unused]
  | slli | srli | srai | rori =>
    cases word; rw [decodeMajor_shi (by simp)]
    simp (disch := decide) only [decodeShi, extract_packI, extract_low, extract_high, extract_all]
    simp
  | li =>
    cases word; rw [decodeMajor_li (by simp)]
    simp (disch := decide) only [decodeLi, extract_packI_a, extract_low, extract_high]
    simp
  | lik =>
    cases word; rw [decodeMajor_lik (by simp)]
    simp (disch := decide) only [decodeLi, extract_packI_a, extract_low, extract_high]
    simp
  | bmnone | bmany | bmall =>
    cases word; rw [decodeMajor_bmask (by simp)]
    simp (disch := decide) only [decodeBmask, kHi, kOf, fD_packI, extract_low, extract_high, extract_all]
    simp
  | loop =>
    cases word; rw [decodeMajor_loop (by simp)]
    simp_all [decodeLoop, unused, Instr.wellFormed.eq_def]
  | ldb | ldh | ldw | ldd | ldbu | ldhu | ldwu =>
    cases word; rw [decodeMajor_lds (by simp)]
    simp [decodeLds]
  | stb | sth | stw | std =>
    cases word; rw [decodeMajor_sts (by simp)]
    simp [decodeSts]
  | flw | fld | fsw | fsd =>
    cases word; rw [decodeMajor_fls (by simp)]
    simp [decodeFls]
  | amoadd | amoand | amoor | amoxor | amomin | amomax | amominu | amomaxu | amoswap | amocas =>
    cases word; rw [decodeMajor_amo (by simp)]
    simp (disch := decide) only [decodeAmo, fP4, extract_packR, extract_low, extract_high, extract_all,
      BitVec.reduceToNat]
    simp
  | fadd | fsub | fmul | fdiv | fsqrt | ffma | fmin | fmax | feq | flt | fle | fcvtFf | fcvtFL | fcvtFLu | fcvtLF |
    fcvtLuF | fmvxf | fmvfx | fclass =>
    cases word; rw [decodeMajor_fpu (by simp)]
    simp (disch := decide) only [decodeFpu, fP4, extract_packR, extract_low, extract_high, extract_all,
      BitVec.reduceToNat]
    simp [decodeFcvt, unused]
  | trap | tret | brk | fence | fencei | park | retire | ctxs | ctxl =>
    cases word; rw [decodeMajor_sys (by simp)]
    simp (disch := decide) only [decodeSys, fP4, extract_packR, extract_low, extract_high, extract_all,
      BitVec.reduceToNat]
    simp [unused]
  | csrr | csrw | csrs | csrc | csrrw =>
    cases word; rw [decodeMajor_csr (by simp)]
    simp (disch := decide) only [decodeCsr, extract_packI, extract_low, extract_high, extract_all]
    simp_all [unused, Instr.wellFormed.eq_def]
  | post | waitRope | waitBarrier | vwait | bara | barw | waitm =>
    cases word; rw [decodeMajor_sync (by simp)]
    simp_all [decodeSync, unused, asK, Instr.wellFormed.eq_def]
  | setvl | settype | setfmt | endstrip =>
    cases word; rw [decodeMajor_vcfg (by simp)]
    simp [decodeVcfg, unused]
  | vadd | vsub | vrsub | vmul | vmulh | vmac | vmin | vmax | vminu | vmaxu | vand | vor | vxor | vsll | vsrl | vsra |
    vrsh | vmulq | vsat | vabs | vmerge | vmv | vid =>
    cases word; rw [decodeMajor_vint (by simp)]
    simp_all [decodeVint, unused, kindIs, Instr.wellFormed.eq_def]
  | vfadd | vfsub | vfmul | vfdiv | vffma | vfmin | vfmax | vfsqrt | vfexp2 | vfrcp | vfabs | vfneg =>
    cases word; rw [decodeMajor_vfp (by simp)]
    simp [decodeVfp, unused, kindIs]
  | vcmpeq | vcmpne | vcmplt | vcmple | vcmpltu | vcmpleu | kand | kor | kxor | kandn | knot | kmov | kpopc | kfirst |
    kset =>
    cases word; rw [decodeMajor_vmsk (by simp)]
    simp [decodeVmsk, decodeVcmp, decodeKop, unused, asK, kindIs]
  | vfcmpeq d a b m | vfcmplt d a b m | vfcmple d a b m | vfcmpuo d a b m =>
    cases word; rw [decodeMajor_vmsk (by simp)]
    cases b <;> simp [decodeVmsk, decodeVcmp, bSrcOf, vsSrcOf, VsSrc.kind, VsSrc.field]
  | vcompress | vexpand | vslideup | vslidedn | vperm | vprefpop | vconflict | vbcast | vext | vins =>
    cases word; rw [decodeMajor_vperm (by simp)]
    simp_all [decodeVperm, unused, asK, kindIs, Instr.wellFormed.eq_def]
  | vredsum | vredmax | vredmin | vredmaxu | vredminu | vredand | vredor | vfredsum | vfredmax | vfredmin | vscan |
    vscanSeg | vfscan | vfscanSeg | rshsave | rshload =>
    cases word; rw [decodeMajor_vred (by simp)]
    simp [decodeVred, asK, kindIs]
  | vcvt | vquant | vdeq | vplanes | vsetq | vqmvQv | vqmvVq =>
    cases word; rw [decodeMajor_vcvt (by simp)]
    simp (disch := decide) only [decodeVcvt, fB_packV, extract_low, extract_high, extract_all]
    simp [kindIs]
  | vld | vlds | vldx | vldff | vldc | vldp =>
    cases word; rw [decodeMajor_vld (by simp)]
    simp_all [decodeVld, unused, Instr.wellFormed.eq_def]
  | vst | vsts | vstx | vstxu =>
    cases word; rw [decodeMajor_vst (by simp)]
    simp [decodeVst, unused]
  | vamoadd | vamomin | vamomax | vamoand | vamoor | vamoxor | vamoswap =>
    cases word; rw [decodeMajor_vamo (by simp)]
    simp (disch := decide) only [decodeVamo, extract_packVM, extract_low, extract_high, extract_all]
    simp
  | qld | qst | kld | kst =>
    cases word; rw [decodeMajor_qls (by simp)]
    simp [decodeQls, asK]
  | mton | mtoff | mzero | mcfg | tshape =>
    cases word; rw [decodeMajor_mtile (by simp)]
    simp [decodeMtile, unused]
  | mopa =>
    cases word; rw [decodeMajor_mopa (by simp)]
    simp [decodeMopa]
  | mrd | mwr =>
    cases word; rw [decodeMajor_mslc (by simp)]
    simp (disch := decide) only [decodeMslc, extract_packM, extract_low, extract_high, extract_all]
    simp
  | cpy | cpyq | cpyx | cpyw =>
    cases word; rw [decodeMajor_xcpy (by simp)]
    simp_all [decodeXcpy, asK, Instr.wellFormed.eq_def]
  | wvopen | wvstep | wvsplit | wvsave | wvload | wvclose =>
    cases word; rw [decodeMajor_weave (by simp)]
    simp (disch := decide) only [decodeWeave, fP4, extract_packR, extract_low, extract_high, extract_all,
      BitVec.reduceToNat]
    simp [unused, asK]
  | farm | strip | scommit | sdep | farmw =>
    cases word; rw [decodeMajor_farm (by simp)]
    simp [decodeFarm, unused]
  | rscat | rmcast | rcomb | rwait =>
    cases word; rw [decodeMajor_fab (by simp)]
    simp [decodeFab, unused]
  | pfx =>
    have fields := packPfx_eq_iff.mp (Option.some.inj word)
    rw [decodeMajor_pfx fields.1]
    simp_all [decodePfx, Instr.wellFormed, imp_iff_not_or]
  | _ => cases word

/-! ### What decodes is the encoder's word -/

/-- Every instruction that `o` answers is well-formed and has the word `w`. -/
def Gives (w : BitVec 32) (o : Option Instr) : Prop := ∀ i, o = some i → encode i = some w ∧ i.wellFormed = true

@[simp] theorem gives_none (w : BitVec 32) : Gives w none := by simp [Gives]
@[simp] theorem gives_some (w : BitVec 32) (i : Instr) :
    Gives w (some i) ↔ encode i = some w ∧ i.wellFormed = true := by
  simp [Gives]
@[simp] theorem gives_ite (w : BitVec 32) (c : Prop) [Decidable c] (o p : Option Instr) :
    Gives w (if c then o else p) ↔ (c → Gives w o) ∧ (¬c → Gives w p) := by
  split <;> simp [*]
@[simp] theorem gives_unused (w : BitVec 32) (f : Reg) (i : Instr) :
    Gives w (unused f i) ↔ (f = 0 → Gives w (some i)) := by
  simp [unused]
@[simp] theorem gives_asK (w : BitVec 32) (f : Reg) (i : KReg → Instr) :
    Gives w (asK f i) ↔ (kHi f = 0 → Gives w (some (i (kOf f)))) := by
  simp [asK]
@[simp] theorem gives_kindIs (w : BitVec 32) (k : BitVec 2) (o : Option Instr) :
    Gives w (kindIs w k o) ↔ (fKind w = k → Gives w o) := by
  simp [kindIs]

theorem gives_decodeAlu {w : BitVec 32} (op : fOp w = 0x02) : Gives w (decodeAlu w) := by
  unfold decodeAlu
  split <;> simp_all [toNat_eq_lit, encode.eq_def, packR_eq_iff, Instr.wellFormed.eq_def]

theorem gives_decodeLds {w : BitVec 32} (op : fOp w = 0x1A) : Gives w (decodeLds w) := by
  unfold decodeLds
  split <;> simp_all [toNat_eq_lit, encode.eq_def, packM13_eq_iff, Instr.wellFormed.eq_def]

theorem gives_decodeSts {w : BitVec 32} (op : fOp w = 0x1B) : Gives w (decodeSts w) := by
  unfold decodeSts
  split <;> simp_all [toNat_eq_lit, encode.eq_def, packM13_eq_iff, Instr.wellFormed.eq_def]

theorem gives_decodeFls {w : BitVec 32} (op : fOp w = 0x1E) : Gives w (decodeFls w) := by
  unfold decodeFls
  split <;> simp_all [toNat_eq_lit, encode.eq_def, packM13_eq_iff, Instr.wellFormed.eq_def]

theorem gives_decodeSync {w : BitVec 32} (op : fOp w = 0x21) : Gives w (decodeSync w) := by
  unfold decodeSync
  split <;> simp_all [toNat_eq_lit, encode.eq_def, packR_eq_iff, kField_kOf, Instr.wellFormed.eq_def]

theorem gives_decodeVcfg {w : BitVec 32} (op : fOp w = 0x22) : Gives w (decodeVcfg w) := by
  unfold decodeVcfg
  split <;> simp_all [toNat_eq_lit, encode.eq_def, packR_eq_iff, Instr.wellFormed.eq_def]

theorem gives_decodeQls {w : BitVec 32} (op : fOp w = 0x2D) : Gives w (decodeQls w) := by
  unfold decodeQls
  split <;> simp_all [toNat_eq_lit, encode.eq_def, packM13_eq_iff, kField_kOf, Instr.wellFormed.eq_def]

theorem gives_decodeFarm {w : BitVec 32} (op : fOp w = 0x36) : Gives w (decodeFarm w) := by
  unfold decodeFarm
  split <;> simp_all [toNat_eq_lit, encode.eq_def, packR_eq_iff, Instr.wellFormed.eq_def]

theorem gives_decodeFab {w : BitVec 32} (op : fOp w = 0x37) : Gives w (decodeFab w) := by
  unfold decodeFab
  split <;> simp_all [toNat_eq_lit, encode.eq_def, packR_eq_iff, Instr.wellFormed.eq_def]

theorem gives_decodeLoop {w : BitVec 32} (op : fOp w = 0x19) : Gives w (decodeLoop w) := by
  simp_all [decodeLoop, encode.eq_def, packI_eq_iff, Instr.wellFormed.eq_def]

theorem gives_decodeMopa {w : BitVec 32} (op : fOp w = 0x31) : Gives w (decodeMopa w) := by
  simp_all [decodeMopa, encode.eq_def, packM_eq_iff, Instr.wellFormed.eq_def]

theorem gives_decodeShi {w : BitVec 32} (op : fOp w = 0x09) : Gives w (decodeShi w) := by
  unfold decodeShi
  split <;> simp_all [toNat_eq_lit, encode.eq_def, packI_eq_iff, fImm16_shi,
    -BitVec.extractLsb'_toNat, Instr.wellFormed.eq_def]

theorem gives_decodeLi {w : BitVec 32} (op : fOp w = 0x0A) : Gives w (decodeLi .li w) := by
  simp_all [decodeLi, encode.eq_def, packI_eq_iff, fA_li, Instr.wellFormed.eq_def]

theorem gives_decodeLik {w : BitVec 32} (op : fOp w = 0x0B) : Gives w (decodeLi .lik w) := by
  simp_all [decodeLi, encode.eq_def, packI_eq_iff, fA_li, Instr.wellFormed.eq_def]

theorem gives_decodeBmask {w : BitVec 32} (op : fOp w = 0x16) : Gives w (decodeBmask w) := by
  unfold decodeBmask
  simp only [gives_ite, gives_none, implies_true, true_and]
  intro b
  split
  case h_4 => exact gives_none w
  all_goals
    have word := packI_eq_iff.mpr ⟨op, eq_append_kOf ‹_›, not_not.mp b, rfl⟩
    exact (gives_some _ _).mpr ⟨congrArg some word, rfl⟩

theorem gives_decodeAmo {w : BitVec 32} (op : fOp w = 0x1C) : Gives w (decodeAmo w) := by
  unfold decodeAmo
  simp only [gives_ite, gives_none, implies_true, true_and]
  intro reserved
  split <;> simp_all [toNat_eq_lit, encode.eq_def, packR_eq_iff, fFn_amo, Instr.wellFormed.eq_def]

theorem gives_decodeCsr {w : BitVec 32} (op : fOp w = 0x20) : Gives w (decodeCsr w) := by
  unfold decodeCsr
  simp only [gives_ite, gives_none, implies_true, true_and]
  intro assigned
  split <;> simp_all [toNat_eq_lit, encode.eq_def, packI_eq_iff, fImm16_csr,
    -BitVec.extractLsb'_toNat, Instr.wellFormed.eq_def]

theorem gives_decodeVst {w : BitVec 32} (op : fOp w = 0x2B) : Gives w (decodeVst w) := by
  unfold decodeVst
  simp only [gives_ite, gives_none, implies_true, true_and]
  intro planes
  split <;> simp_all [toNat_eq_lit, encode.eq_def, packVM_eq_iff, Instr.wellFormed.eq_def]

theorem gives_decodeVamo {w : BitVec 32} (op : fOp w = 0x2C) : Gives w (decodeVamo w) := by
  unfold decodeVamo
  simp only [gives_ite, gives_none, implies_true, true_and]
  intro reserved
  split <;> simp_all [toNat_eq_lit, encode.eq_def, packVM_eq_iff, fP4_vamo, Instr.wellFormed.eq_def]

theorem gives_decodeMtile {w : BitVec 32} (op : fOp w = 0x30) : Gives w (decodeMtile w) := by
  unfold decodeMtile
  simp only [gives_ite, gives_none, implies_true, true_and]
  intro masks
  split <;> simp_all [toNat_eq_lit, encode.eq_def, packM_eq_iff, Instr.wellFormed.eq_def]

/-- The conversions of an FPU word, by selector. -/
theorem gives_decodeFcvt {w : BitVec 32} (op : fOp w = 0x1D) {r : Rnd} (bits : r.bits = w.extractLsb' 5 3)
    (fn : (fP4 w).toNat = 11) (b : fB w = 0) :
    Gives w (decodeFcvt (w.extractLsb' 8 3) (fD w) (fA w) r (precOf (w.extractLsb' 4 1))) := by
  unfold decodeFcvt
  split <;> simp_all [toNat_eq_lit, encode.eq_def, packR_eq_iff, fFn_fpu,
    -BitVec.extractLsb'_toNat, Instr.wellFormed.eq_def]

theorem gives_decodeFpu {w : BitVec 32} (op : fOp w = 0x1D) : Gives w (decodeFpu w) := by
  unfold decodeFpu
  dsimp only
  cases named : rndOf (w.extractLsb' 5 3) with
  | none => exact gives_none w
  | some r =>
    dsimp only
    have bits := bits_of_rndOf named
    split
    · next fn => simpa using gives_decodeFcvt op bits fn
    · simp only [gives_ite, gives_none, implies_true, true_and]
      intro sel
      split
      case h_7 =>
        simp only [gives_ite, gives_none, implies_true, true_and]
        intro rounding
        split <;> simp_all [toNat_eq_lit, encode.eq_def, packR_eq_iff, fFn_fpu, Instr.wellFormed.eq_def]
      all_goals simp_all [toNat_eq_lit, encode.eq_def, packR_eq_iff, fFn_fpu, Instr.wellFormed.eq_def]

theorem gives_decodeSys {w : BitVec 32} (op : fOp w = 0x1F) : Gives w (decodeSys w) := by
  unfold decodeSys
  simp only [gives_ite, gives_none, implies_true, true_and]
  intro fields
  split
  · simp_all [toNat_eq_lit, encode.eq_def, packR_eq_iff, fFn_sys, Instr.wellFormed.eq_def]
  · simp only [gives_ite, gives_none, implies_true, true_and]
    intro reserved
    split
    · exact gives_none w
    · next set named =>
      have bits := bits_of_fenceSetOf named
      simp_all [toNat_eq_lit, encode.eq_def, packR_eq_iff, fFn_sys, sys_fence, Instr.wellFormed.eq_def]
  · simp only [gives_ite, gives_none, implies_true, true_and]
    intro n
    split <;> simp_all [toNat_eq_lit, encode.eq_def, packR_eq_iff, fFn_sys, Instr.wellFormed.eq_def]

theorem gives_decodeVint {w : BitVec 32} (op : fOp w = 0x24) : Gives w (decodeVint w) := by
  unfold decodeVint
  split
  · exact gives_none w
  · next b named =>
    obtain ⟨kind, field⟩ := of_bSrcOf named
    split <;> simp_all [toNat_eq_lit, encode.eq_def, packV_eq_iff, Instr.wellFormed.eq_def]

theorem gives_decodeVfp {w : BitVec 32} (op : fOp w = 0x25) : Gives w (decodeVfp w) := by
  unfold decodeVfp
  split
  · exact gives_none w
  · next b named =>
    obtain ⟨kind, field⟩ := of_vsSrcOf named
    split <;> simp_all [toNat_eq_lit, encode.eq_def, packV_eq_iff, Instr.wellFormed.eq_def]

theorem gives_decodeVcmp {w : BitVec 32} (op : fOp w = 0x26) (d : kHi (fD w) = 0) :
    Gives w (decodeVcmp w (kOf (fD w))) := by
  unfold decodeVcmp
  split
  · exact gives_none w
  · next b named =>
    obtain ⟨kind, field⟩ := of_bSrcOf named
    split
    case h_7 =>
      split
      · exact gives_none w
      · next b named =>
        obtain ⟨kind, field⟩ := of_vsSrcOf named
        split <;> simp_all [toNat_eq_lit, encode.eq_def, packV_eq_iff, kField_kOf, Instr.wellFormed.eq_def]
    all_goals simp_all [toNat_eq_lit, encode.eq_def, packV_eq_iff, kField_kOf, Instr.wellFormed.eq_def]

theorem gives_decodeKop {w : BitVec 32} (op : fOp w = 0x26) (kind : fKind w = 0) (d : kHi (fD w) = 0) :
    Gives w (decodeKop w (kOf (fD w))) := by
  unfold decodeKop
  simp only [gives_ite, gives_none, implies_true, true_and]
  intro k
  split <;> simp_all [toNat_eq_lit, encode.eq_def, packV_eq_iff, kField_kOf, Instr.wellFormed.eq_def]

theorem gives_decodeVmsk {w : BitVec 32} (op : fOp w = 0x26) : Gives w (decodeVmsk w) := by
  unfold decodeVmsk
  split
  case h_3 => simp +contextual [gives_decodeVcmp op, gives_decodeKop op]
  all_goals simp_all [toNat_eq_lit, encode.eq_def, packV_eq_iff, kField_kOf, Instr.wellFormed.eq_def]

theorem gives_decodeVperm {w : BitVec 32} (op : fOp w = 0x27) : Gives w (decodeVperm w) := by
  unfold decodeVperm
  split
  case h_3 | h_4 =>
    dsimp only
    split
    · exact gives_none w
    · next b named =>
      obtain ⟨kind, field⟩ := of_siSrcOf named
      simp_all [toNat_eq_lit, encode.eq_def, packV_eq_iff, Instr.wellFormed.eq_def]
  all_goals simp_all [toNat_eq_lit, encode.eq_def, packV_eq_iff, kField_kOf, Instr.wellFormed.eq_def]

theorem gives_decodeVred {w : BitVec 32} (op : fOp w = 0x28) : Gives w (decodeVred w) := by
  unfold decodeVred
  repeat' split
  all_goals simp_all [toNat_eq_lit, encode.eq_def, packV_eq_iff, kField_kOf, Instr.wellFormed.eq_def]

theorem gives_decodeVcvt {w : BitVec 32} (op : fOp w = 0x29) : Gives w (decodeVcvt w) := by
  unfold decodeVcvt
  split
  case h_6 =>
    simp only [gives_ite, gives_none, implies_true, true_and]
    intro k
    split <;> simp_all [toNat_eq_lit, encode.eq_def, packV_eq_iff, Instr.wellFormed.eq_def]
  all_goals simp_all [toNat_eq_lit, encode.eq_def, packV_eq_iff, planes_split, Instr.wellFormed.eq_def]

theorem gives_decodeVld {w : BitVec 32} (op : fOp w = 0x2A) : Gives w (decodeVld w) := by
  unfold decodeVld
  repeat' split
  all_goals simp_all [toNat_eq_lit, encode.eq_def, packVM_eq_iff, Instr.wellFormed.eq_def]

theorem gives_decodeXcpy {w : BitVec 32} (op : fOp w = 0x34) : Gives w (decodeXcpy w) := by
  unfold decodeXcpy
  repeat' split
  all_goals simp_all [toNat_eq_lit, encode.eq_def, packR_eq_iff, kField_kOf, Instr.wellFormed.eq_def]

theorem gives_decodeWeave {w : BitVec 32} (op : fOp w = 0x35) : Gives w (decodeWeave w) := by
  unfold decodeWeave
  repeat' split
  all_goals simp_all [toNat_eq_lit, encode.eq_def, packR_eq_iff, fFn_weave, kField_kOf, Instr.wellFormed.eq_def]

theorem gives_decodeMslc {w : BitVec 32} (op : fOp w = 0x32) : Gives w (decodeMslc w) := by
  unfold decodeMslc
  have one {b : BitVec 1} (h : ¬b = 0) : b = 1 := by revert b; decide
  repeat' split
  all_goals simp_all [encode, packM_eq_iff, fFn9_mslc, Instr.wellFormed.eq_def]

theorem gives_decodePfx {w : BitVec 32} (op : fOp w = 0x01) : Gives w (decodePfx w) := by
  unfold decodePfx
  repeat' split
  all_goals simp_all [encode, packPfx_eq_iff, imp_iff_not_or, Instr.wellFormed.eq_def]

theorem gives_decodeOther (w : BitVec 32) : Gives w (decodeOther w) := by
  unfold decodeOther
  split <;> simp_all [toNat_eq_lit, encode.eq_def, packI_eq_iff, packJ_eq_iff, Instr.wellFormed.eq_def, gives_decodeAlu,
    gives_decodeShi, gives_decodeLi, gives_decodeLik, gives_decodeBmask, gives_decodeLoop, gives_decodeLds,
    gives_decodeSts, gives_decodeAmo, gives_decodeFpu, gives_decodeFls, gives_decodeSys, gives_decodeCsr,
    gives_decodeSync, gives_decodeVcfg, gives_decodeVint, gives_decodeVfp, gives_decodeVmsk, gives_decodeVperm,
    gives_decodeVred, gives_decodeVcvt, gives_decodeVld, gives_decodeVst, gives_decodeVamo, gives_decodeQls,
    gives_decodeMtile, gives_decodeMopa, gives_decodeMslc]

theorem gives_decodeMajor (w : BitVec 32) : Gives w (decodeMajor w) := by
  unfold decodeMajor
  split
  case h_6 => exact gives_decodeOther w
  all_goals simp_all [toNat_eq_lit, gives_decodePfx, gives_decodeXcpy, gives_decodeWeave, gives_decodeFarm,
    gives_decodeFab]

/-! ### Checks 1 to 3 (Table 2.2) -/

/-- No instruction has a reserved major. -/
theorem decodeMajor_reserved {w : BitVec 32} (h : majorReserved (fOp w).toNat = true) : decodeMajor w = none := by
  unfold decodeMajor decodeOther
  repeat' split
  all_goals simp_all [majorReserved]

/-- A word decodes to an instruction exactly when the decoder answers it and the part has its unit. -/
theorem decodeWord_ok_iff {p : Part} {w : BitVec 32} {i : Instr} :
    decodeWord p w = .ok i ↔ majorAbsent p (fOp w).toNat = false ∧ decodeMajor w = some i := by
  unfold decodeWord decodeFault
  rw [fieldsOk_iff]
  cases m : decodeMajor w with
  | none =>
    constructor
    · intro h
      repeat' split at h
      all_goals simp_all
    · simp
  | some j =>
    have assigned : majorReserved (fOp w).toNat = false := by
      rw [← Bool.not_eq_true]
      intro h
      simp [decodeMajor_reserved h] at m
    cases absent : majorAbsent p (fOp w).toNat <;> simp [assigned, absent]

/-- The 8840 has every unit, so a number that is an instruction's word reads as the instruction. -/
theorem decodeTableWord_of_encode {i : Instr} {n : Nat} (wf : i.wellFormed = true)
    (word : encode i = some (BitVec.ofNat 32 n)) : decodeTableWord 32 n = some i := by
  have present (op : Nat) : majorAbsent .p8840 op = false := by simp [majorAbsent, Config.hasWeave, Config.hasFab]
  have low : BitVec.ofNat 32 (n % 2 ^ 32) = BitVec.ofNat 32 n := by simp [← BitVec.toNat_inj]
  have decoded := decodeWord_ok_iff.mpr ⟨present _, decodeMajor_encode wf word⟩
  simp only [decodeTableWord, low, decoded]

end Sys2Proof.Proofs.Words

namespace Sys2Proof.Proofs
open Sys2Proof Words

/-- Settles O1: the fields of a packed word are those it was packed from, so its group's decoder names the
instruction. -/
theorem encodedInstructionsDecode : Obligations.EncodedInstructionsDecode :=
  fun _ _ _ wf word present => decodeWord_ok_iff.mpr ⟨present, decodeMajor_encode wf word⟩

/-- Settles O2: group by group, every instruction that a decoder answers is packed from the fields it was read from. -/
theorem decodedWordsEncode : Obligations.DecodedWordsEncode :=
  fun _ w i decoded => gives_decodeMajor w i (decodeWord_ok_iff.mp decoded).2

/-- Settles O3: each word is the encoder's for its instruction. -/
theorem manualWordsDecode : Obligations.ManualWordsDecode := by
  repeat' apply And.intro
  all_goals exact decodeTableWord_of_encode rfl rfl

end Sys2Proof.Proofs
end
section
/-! PROOF. Branches and jumps (R29, R79 to R81, R345). -/

namespace Sys2Proof.Proofs.Transfer
open Sys2Proof Sys2Proof.Machine Sys2Proof.Laws

/-! ### Targets (R29) -/

theorem add_signExtend {n : Nat} (x : Word) (off : BitVec n) :
    x + off.signExtend 64 = BitVec.ofInt 64 (x.toInt + off.toInt) := by
  rw [BitVec.ofInt_add, BitVec.ofInt_toInt, BitVec.signExtend]

theorem add_four_mul_signExtend {n : Nat} (pc : Word) (off : BitVec n) :
    pc + 4 * off.signExtend 64 = BitVec.ofInt 64 (pc.toInt + 4 * off.toInt) := by
  rw [BitVec.ofInt_add, BitVec.ofInt_mul, BitVec.ofInt_toInt, BitVec.signExtend]
  rfl

/-! ### Conditions (R79, R80) -/

theorem branch_eq (s : State) (taken : Bool) (off : BitVec 16) : s.branch taken off = .next (s.setMe
    (if taken then s.me.jump (BitVec.ofInt 64 (s.me.pc.toInt + 4 * off.toInt)) true else s.me.advance)) := by
  rw [← add_four_mul_signExtend]
  cases taken <;> rfl

/-- A tested bit is a bit of the register below vl. -/
theorem testBit_belowVl (h : Hart) (k : KReg) (i : Nat) :
    (h.belowVl k).testBit i = (decide (i < h.vl.toNat) && (h.kr k).getLsbD i) := by
  rw [Hart.belowVl, Nat.testBit_mod_two_pow, BitVec.testBit_toNat]

theorem belowVl_beq_zero (h : Hart) (k : KReg) :
    (h.belowVl k == 0) = (List.range h.vl.toNat).all (fun i => !(h.kr k).getLsbD i) := by
  rw [Bool.eq_iff_iff, beq_iff_eq, List.all_eq_true]
  constructor
  · intro zero i m
    have bit := testBit_belowVl h k i
    simpa [zero, List.mem_range.mp m] using bit
  · intro clear
    refine Nat.eq_of_testBit_eq fun i => ?_
    by_cases below : i < h.vl.toNat
    · simpa [testBit_belowVl, below] using clear i (List.mem_range.mpr below)
    · simp [testBit_belowVl, below]

theorem belowVl_bne_zero (h : Hart) (k : KReg) :
    (h.belowVl k != 0) = (List.range h.vl.toNat).any (fun i => (h.kr k).getLsbD i) := by
  rw [bne, belowVl_beq_zero, List.not_all_eq_any_not]
  simp

theorem belowVl_beq_ones (h : Hart) (k : KReg) :
    (h.belowVl k == 2 ^ h.vl.toNat - 1) = (List.range h.vl.toNat).all (fun i => (h.kr k).getLsbD i) := by
  rw [Bool.eq_iff_iff, beq_iff_eq, List.all_eq_true]
  constructor
  · intro ones i m
    have bit := testBit_belowVl h k i
    simpa [ones, Nat.testBit_two_pow_sub_one, List.mem_range.mp m] using bit.symm
  · intro set
    refine Nat.eq_of_testBit_eq fun i => ?_
    rw [testBit_belowVl, Nat.testBit_two_pow_sub_one]
    by_cases below : i < h.vl.toNat
    · simpa [below] using set i (List.mem_range.mpr below)
    · simp [below]

/-! ### The tested bits of a mask register (R345) -/

theorem maskBranch_sound {s : State} (sound : s.me.marks = []) (k : KReg) (taken : Bool) (off : BitVec 16) :
    s.maskBranch k taken off = s.branch taken off := by
  unfold State.maskBranch
  rw [sound]
  rfl

theorem maskBranch_marked {s : State} {k : KReg} {m : LaneMark} (marks : s.me.marks = [m]) (unit : m.unit = 1)
    (reg : m.reg = k.toNat) (below : m.pos < s.me.vl.toNat) (taken : Bool) (off : BitVec 16) :
    s.maskBranch k taken off = s.trapped 0x62 (laneVal m) := by
  unfold State.maskBranch
  rw [marks]
  simp [laneHit, kReads, unitReads, LaneRead.meets, leastHit, unit, reg, below, trap_eq, Cause.laneSram]

/-! ### The branches of Table 3.10 and R80 -/

theorem exec_branch {s : State} {i : Instr} {taken : Bool} {off : BitVec 16} (named : branchOf s i = some (taken, off))
    (sound : ∀ k, i = .bmnone k off ∨ i = .bmany k off ∨ i = .bmall k off → s.me.marks = []) :
    exec i s = s.branch taken off := by
  cases i with
  | bmnone k o => 
    cases named
    exact (maskBranch_sound (sound k (.inl rfl)) k _ _).trans (by rw [belowVl_beq_zero])
  | bmany k o => 
    cases named
    exact (maskBranch_sound (sound k (.inr (.inl rfl))) k _ _).trans (by rw [belowVl_bne_zero])
  | bmall k o => 
    cases named
    exact (maskBranch_sound (sound k (.inr (.inr rfl))) k _ _).trans (by rw [belowVl_beq_ones])
  | beq a b o | bne a b o =>
    cases named
    simp [exec, execBeq, execBne, BitVec.toNat_inj, bne, beq_eq_decide]
  | blt a b o | bge a b o =>
    cases named
    simp [exec, execBlt, execBge, BitVec.slt, ← decide_not]
  | bltu a b o | bgeu a b o =>
    cases named
    simp [exec, execBltu, execBgeu, BitVec.ult, ← decide_not]
  | _ => cases named

end Sys2Proof.Proofs.Transfer

namespace Sys2Proof.Proofs
open Sys2Proof Sys2Proof.Machine Sys2Proof.Laws Transfer

/-- Settles O15: a branch takes its condition to the target or to the next pc, and a jump links and goes to its
target. -/
theorem transferResults : Obligations.TransferResults := by
  refine ⟨fun s i taken off named sound => ?_,
    fun s k off m marks unit reg below i mem => ?_, fun s d a => ⟨fun off => ?_, fun imm => ?_⟩⟩
  · rw [exec_branch named sound, branch_eq]
  · simp only [List.mem_cons, List.not_mem_nil, or_false] at mem
    rcases mem with rfl | rfl | rfl <;> exact maskBranch_marked marks unit reg below _ _
  · rw [← add_four_mul_signExtend]
    rfl
  · dsimp only
    rw [← add_signExtend]
    exact ⟨fun aligned => if_neg (not_not.mpr aligned), fun odd => if_pos odd⟩

end Sys2Proof.Proofs
end
section
/-! PROOF. The pair check and the supervisor's words (R38, R42, R65, Table 3.4). -/

namespace Sys2Proof.Proofs.Pairs
open Sys2Proof Sys2Proof.Machine Sys2Proof.Laws Words

/-- Among the instructions with a word whose major may follow a PFX, those without a destination are R42's list. -/
theorem destOf_isNone {i : Instr} (may : ∀ w, encode i = some w → pairMajor (fOp w).toNat = false) :
    (!(encode i).isSome || (destOf i).isNone == namesNoDestination i) = true := by
  cases i with
  | vamoadd _ _ _ _ nr | vamomin _ _ _ _ nr | vamomax _ _ _ _ nr | vamoand _ _ _ _ nr | vamoor _ _ _ _ nr
  | vamoxor _ _ _ _ nr | vamoswap _ _ _ _ nr => cases nr <;> rfl
  | beq | bne | blt | bge | bltu | bgeu | bmnone | bmany | bmall | loop | trap | tret | brk | fence | fencei | park
  | retire | ctxs | ctxl | post | waitRope | vwait | scommit | sdep =>
    have forbidden := may _ rfl
    simp [pairMajor] at forbidden
  | pfx p neg cp d2 =>
    have forbidden := may _ rfl
    rw [(packPfx_eq_iff.mp rfl).1] at forbidden
    cases forbidden
  | _ => rfl

/-- The instructions whose destination is a k register are the compares, the mask operations and KLD. -/
theorem destOf_isMask (i : Instr) : (destOf i).any (fun d => d.1 == .k) = namesMaskDestination i := by
  cases i with
  | vamoadd _ _ _ _ nr | vamomin _ _ _ _ nr | vamomax _ _ _ _ nr | vamoand _ _ _ _ nr | vamoor _ _ _ _ nr
  | vamoxor _ _ _ _ nr | vamoswap _ _ _ _ nr => cases nr <;> rfl
  | _ => rfl

theorem isPrivileged_iff (i : Instr) : isPrivileged i = true ↔ i = .tret ∨ (∃ a, i = .ctxs a ∨ i = .ctxl a) ∨
    ∃ n, namesControlRegister i = some n ∧ csrSupervisor n = true := by
  constructor
  · intro privileged
    unfold isPrivileged at privileged
    split at privileged
    · exact .inl rfl
    · exact .inr (.inl ⟨_, .inl rfl⟩)
    · exact .inr (.inl ⟨_, .inr rfl⟩)
    case h_9 => cases privileged
    all_goals exact .inr (.inr ⟨_, rfl, privileged⟩)
  · rintro (rfl | ⟨a, rfl | rfl⟩ | ⟨n, named, supervisor⟩)
    case inr.inr =>
      unfold namesControlRegister at named
      split at named <;> cases named
      all_goals exact supervisor
    all_goals rfl

theorem csrSupervisor_iff (n : BitVec 12) :
    csrSupervisor n = true ↔ n.toNat = 0x110 ∨ (0x200 ≤ n.toNat ∧ n.toNat ≤ 0x208) := by
  simp [csrSupervisor]

/-- The majors that may not follow a PFX (R42). -/
theorem pairMajor_iff (w : BitVec 32) : pairMajor (fOp w).toNat = true ↔ w.toNat / 2 ^ 26 ∈
    [0x01, 0x10, 0x11, 0x12, 0x13, 0x14, 0x15, 0x16, 0x17, 0x18, 0x19, 0x1F, 0x21, 0x36] := by
  have op : (fOp w).toNat = w.toNat / 2 ^ 26 := by
    rw [fOp, BitVec.extractLsb'_toNat, Nat.shiftRight_eq_div_pow, Nat.mod_eq_of_lt]
    have := w.isLt
    omega
  rw [op]
  simp [pairMajor]
  omega

theorem kHi_ne_zero_iff (d : Reg) : kHi d ≠ 0 ↔ d.toNat / 8 ≠ 0 := by
  revert d
  decide

/-- The part of a copying PFX in the pair check, for an instruction whose major may follow a PFX. -/
theorem copy_forbidden_iff {i : Instr} {w : BitVec 32} (word : encode i = some w)
    (may : pairMajor (fOp w).toNat = false)
    (d2 : Reg) : pairForbidden (fOp w).toNat i true d2 = true ↔
      namesNoDestination i = true ∨ (namesMaskDestination i = true ∧ d2.toNat / 8 ≠ 0) := by
  have unnamed := destOf_isNone (i := i) (by rintro v e; cases word.symm.trans e; exact may)
  simp only [word, Option.isSome_some, Bool.not_true, Bool.false_or, beq_iff_eq] at unnamed
  rw [← unnamed, ← destOf_isMask, ← kHi_ne_zero_iff, pairForbidden, may]
  rcases destOf i with _ | ⟨_ | _ | _ | _, r⟩ <;> simp

end Sys2Proof.Proofs.Pairs

namespace Sys2Proof.Proofs
open Sys2Proof Sys2Proof.Machine Sys2Proof.Laws Words Pairs

/-- Settles O9: a word that decodes is its instruction's encoding, so its major and its destination are the manual's. -/
theorem pairAndPrivilegeRules : Obligations.PairAndPrivilegeRules := by
  intro s w i decoded
  have word := (decodedWordsEncode _ w i decoded).1
  refine ⟨?_, ?_⟩
  · rw [State.pairBad, Bool.and_eq_true, ← pairMajor_iff]
    refine and_congr_right fun _ => ?_
    cases may : pairMajor (fOp w).toNat with
    | true => simp [pairForbidden, may]
    | false =>
      rw [← copy_forbidden_iff word may]
      by_cases copies : s.me.pfxst.cp = 1
      · simp [copies]
      · simp [pairForbidden, may]
  · simp only [isPrivileged_iff, csrSupervisor_iff]

end Sys2Proof.Proofs
end

section
/-! PROOF. The checks before an instruction runs (Table 2.2, R39 to R45), and the checks of a fetch (R189, R194, R197):
O8. -/

namespace Sys2Proof.Proofs.Fetching
open Sys2Proof.Machine Sys2Proof.Laws

/-! ### The checks of a word -/

theorem runWord_of_error {s : State} {w : BitVec 32} {e : DecodeError} (h : decodeWord s.part w = .error e) :
    s.runWord w = s.trapped (decodeCause e) (w.setWidth 64) := by
  simp only [State.runWord, h, trap_eq, wordVal]

theorem runWord_of_ok {s : State} {w : BitVec 32} {i : Instr} (h : decodeWord s.part w = .ok i) :
    s.runWord w = s.runInstr w i := by
  simp only [State.runWord, h]

theorem runInstr_of_pairBad {s : State} {w : BitVec 32} {i : Instr} (h : s.pairBad w i = true) :
    s.runInstr w i = s.pairTrap w := by
  simp only [State.runInstr, h, if_true]

theorem runInstr_of_privileged {s : State} {w : BitVec 32} {i : Instr} (h : s.pairBad w i = false)
    (p : isPrivileged i = true) (u : s.me.supervisor = false) :
    s.runInstr w i = s.trapped Cause.privilege (w.setWidth 64) := by
  simp [State.runInstr, h, p, u, trap_eq, wordVal]

/-- What is left of a decoded instruction's run when it may be where it is (R40). -/
theorem runInstr_of_allowed {s : State} {w : BitVec 32} {i : Instr} (h : s.pairBad w i = false)
    (p : isPrivileged i = true → s.me.supervisor = true) :
    s.runInstr w i = if s.me.pfxLive && !s.me.pfxst.c then s.done
      else andThen (exec i s) (fun t => .next (t.noteWork s i)) := by
  have hp : (isPrivileged i && !s.me.supervisor) = false := by
    cases hi : isPrivileged i
    · rfl
    · simp [p hi]
  simp only [State.runInstr, h, hp, Bool.false_eq_true, if_false]

theorem runInstr_of_skipped {s : State} {w : BitVec 32} {i : Instr} (h : s.pairBad w i = false)
    (p : isPrivileged i = true → s.me.supervisor = true) (live : s.me.pfxLive = true) (c : s.me.pfxst.c = false) :
    s.runInstr w i = .next (s.setMe s.me.advance) := by
  simp [runInstr_of_allowed h p, live, c, done_eq]

theorem runInstr_of_runs {s : State} {w : BitVec 32} {i : Instr} (h : s.pairBad w i = false)
    (p : isPrivileged i = true → s.me.supervisor = true) (c : s.me.pfxLive = true → s.me.pfxst.c = true) :
    s.runInstr w i = andThen (exec i s) (fun t => .next (t.noteWork s i)) := by
  have hc : (s.me.pfxLive && !s.me.pfxst.c) = false := by
    cases hl : s.me.pfxLive
    · rfl
    · simp [c hl]
  rw [runInstr_of_allowed h p, hc]
  rfl

/-! ### The trap row of a word -/

theorem exec_illegalOp_of_fault {s : State} {w : BitVec 32} {e : DecodeError} (h : decodeFault s.part w = some e) :
    exec (.illegalOp w) s = s.trapped (decodeCause e) (w.setWidth 64) := by
  change execIllegalOp w s = _
  simp only [execIllegalOp, h, trap_eq, wordVal]

theorem decodeFault_of_reserved {p : Part} {w : BitVec 32} (h : majorReserved (fOp w).toNat = true) :
    decodeFault p w = some .illegalOp := by
  simp [decodeFault, h]

theorem decodeFault_of_absent {p : Part} {w : BitVec 32} (h : majorReserved (fOp w).toNat = false)
    (a : majorAbsent p (fOp w).toNat = true) : decodeFault p w = some .noUnit := by
  simp [decodeFault, h, a]

theorem decodeFault_of_fields {p : Part} {w : BitVec 32} (h : majorReserved (fOp w).toNat = false)
    (a : majorAbsent p (fOp w).toNat = false) (n : decodeMajor w = none) : decodeFault p w = some .illegalField := by
  simp [decodeFault, h, a, fieldsOk_iff, n]

/-! ### The checks of a fetch -/

theorem exec_fetchFault_of_locate {s : State} {c : BitVec 7} {v : Word}
    (h : s.locate (s.ctx s.cur) .fetch .never s.me.pc = .error (.trap c v)) : exec .fetchFault s = s.trapped c v := by
  have hf : s.fetch s.cur = .stop (.trap c v) := by
    unfold State.fetch
    change s.locate (s.ctx s.cur) .fetch .never (s.hart s.cur).pc = _ at h
    simp only [h]
  change execFetchFault s = _
  simp only [execFetchFault, hf, Stop.out, trap_eq]

section
variable {s : State} {x : Ctx} {hu : HostUse} {va : Word}

theorem locate_of_raw_error {a : Acc} {e : Stop} (h : s.locateRaw x a hu va = .error e) :
    s.locate x a hu va = .error e := by
  simp only [State.locate, h]

theorem locateRaw_noncanonical {a : Acc} (h : 2 ^ 48 ≤ va.toNat) :
    s.locateRaw x a hu va = .error (.trap Cause.addrNoncanon va) := by
  simp only [State.locateRaw, h, if_true]

theorem locateRaw_fetch_local (h : va.toNat < 2 ^ 48) (l : isLocal va.toNat = true) :
    s.locateRaw x .fetch hu va = .error (.trap Cause.pageExec va) := by
  simp only [State.locateRaw, Nat.not_le.mpr h, l, if_true, if_false]

theorem locateRaw_of_translate_error {a : Acc} {e : Stop} (h : va.toNat < 2 ^ 48) (l : isLocal va.toNat = false)
    (t : s.translate x a va.toNat = .error e) : s.locateRaw x a hu va = .error e := by
  simp only [State.locateRaw, Nat.not_le.mpr h, l, t, if_false, Bool.false_eq_true]

end

/-! ### A translation by a walk -/

section
variable {s : State} {x : Ctx} {a : Acc} {va : Nat}
  (pins : x.pins = []) (cold : (s.core (coreOf x.hart)).tcache = [])
include pins cold

theorem translate_of_walk_invalid
    (walk : s.walk (s.walkStop x.hart va) (x.ptbase.toNat / 2 ^ 15) va = .invalid) :
    s.translate x a va = .error (.trap a.cause (BitVec.ofNat 64 va)) := by
  simp only [State.translate, pins, cold, List.find?_nil, walk]

theorem translate_of_leaf_refused {pte : Word} {at' : Nat} {big : Bool} {c : BitVec 7}
    (walk : s.walk (s.walkStop x.hart va) (x.ptbase.toNat / 2 ^ 15) va = .leaf pte at' big)
    (bad : leafCheck s.part pte a x.super (leafAddr pte big va) = some c) :
    s.translate x a va = .error (.trap c (BitVec.ofNat 64 va)) := by
  simp only [State.translate, pins, cold, List.find?_nil, walk, bad]

end

/-! ### The checks of a leaf (R197) -/

theorem leafAddr_eq (pte : Word) (big : Bool) (va : Nat) :
    leafAddr pte big va = pte.toNat / 2 ^ 15 % 2 ^ 37 * 2 ^ 15 + va % (if big then 2 ^ 27 else 2 ^ 15) := by
  cases big <;> rfl

theorem leafCheck_of_user {p : Part} {pte : Word} {a : Acc} {pa : Nat} (m : mappable p (pa / 2 ^ 15 * 2 ^ 15) = true)
    (u : pte.getLsbD 4 = false) : leafCheck p pte a false pa = some Cause.pageUser := by
  unfold leafCheck
  rw [m, u]
  rfl

/-- A leaf whose page may be used in the mode, but not fetched from, refuses a fetch: PAGE_EXEC is also what a frame
that cannot be mapped raises, so the order of the checks does not show. -/
theorem leafCheck_fetch_of_exec {p : Part} {pte : Word} {super : Bool} {pa : Nat}
    (u : super = true ∨ pte.getLsbD 4 = true) (bad : pte.getLsbD 3 = false ∨ regionOf p pa ≠ .global) :
    leafCheck p pte .fetch super pa = some Cause.pageExec := by
  have hu : (!super && !pte.getLsbD 4) = false := by
    rcases u with h | h <;> simp [h]
  have hb : pte.getLsbD 3 = true → (regionOf p pa != .global) = true := fun h =>
    bne_iff_ne.mpr (bad.resolve_left (by simp [h]))
  unfold leafCheck
  cases mappable p (pa / 2 ^ 15 * 2 ^ 15)
  · rfl
  · cases h3 : pte.getLsbD 3
    · rw [hu]
      rfl
    · rw [hu, hb h3]
      rfl

/-! ### A fetch that fails -/

section
variable {s : State}

theorem fetchFault_noncanonical (h : 2 ^ 48 ≤ s.me.pc.toNat) :
    exec .fetchFault s = s.trapped Cause.addrNoncanon s.me.pc :=
  exec_fetchFault_of_locate (locate_of_raw_error (locateRaw_noncanonical h))

theorem fetchFault_local (h : s.me.pc.toNat < 2 ^ 48) (l : isLocal s.me.pc.toNat = true) :
    exec .fetchFault s = s.trapped Cause.pageExec s.me.pc :=
  exec_fetchFault_of_locate (locate_of_raw_error (locateRaw_fetch_local h l))

theorem fetchFault_of_translate (h : s.me.pc.toNat < 2 ^ 48) (l : isLocal s.me.pc.toNat = false) {c : BitVec 7}
    (t : s.translate (s.ctx s.cur) .fetch s.me.pc.toNat = .error (.trap c (BitVec.ofNat 64 s.me.pc.toNat))) :
    exec .fetchFault s = s.trapped c s.me.pc := by
  rw [BitVec.ofNat_toNat, BitVec.setWidth_eq] at t
  exact exec_fetchFault_of_locate (locate_of_raw_error (locateRaw_of_translate_error h l t))

theorem fetchFault_of_walk_invalid (h : s.me.pc.toNat < 2 ^ 48) (l : isLocal s.me.pc.toNat = false)
    (pins : s.me.pins = []) (cold : s.myCore.tcache = [])
    (walk : s.walk (s.walkStop s.cur s.me.pc.toNat) (s.me.ptbase.toNat / 2 ^ 15) s.me.pc.toNat = .invalid) :
    exec .fetchFault s = s.trapped Cause.pageExec s.me.pc :=
  fetchFault_of_translate h l (translate_of_walk_invalid (a := .fetch) pins cold walk)

theorem fetchFault_of_leaf_refused (h : s.me.pc.toNat < 2 ^ 48) (l : isLocal s.me.pc.toNat = false)
    (pins : s.me.pins = []) (cold : s.myCore.tcache = []) {pte : Word} {at' : Nat} {big : Bool} {c : BitVec 7}
    (walk : s.walk (s.walkStop s.cur s.me.pc.toNat) (s.me.ptbase.toNat / 2 ^ 15) s.me.pc.toNat = .leaf pte at' big)
    (bad : leafCheck s.part pte .fetch s.me.supervisor (leafAddr pte big s.me.pc.toNat) = some c) :
    exec .fetchFault s = s.trapped c s.me.pc :=
  fetchFault_of_translate h l (translate_of_leaf_refused (x := s.ctx s.cur) pins cold walk bad)

end
end Sys2Proof.Proofs.Fetching

namespace Sys2Proof.Proofs
open Sys2Proof.Machine Fetching

/-- Settles O8: one lemma per check of a word, of its trap row and of a fetch, in the order in which the model makes
them. -/
theorem decodeAndFetchChecks : Obligations.DecodeAndFetchChecks := by
  refine ⟨fun s w => ⟨fun e h => runWord_of_error h, fun i h => ?_⟩, fun s w => ⟨?_, ?_, ?_⟩,
    fun s => ⟨fetchFault_noncanonical, fetchFault_local, fun canon nonlocal pins cold => ?_⟩⟩
  · rw [runWord_of_ok h]
    exact ⟨runInstr_of_pairBad, runInstr_of_privileged, runInstr_of_skipped, runInstr_of_runs⟩
  · exact fun r => exec_illegalOp_of_fault (decodeFault_of_reserved r)
  · exact fun r a => exec_illegalOp_of_fault (decodeFault_of_absent r a)
  · exact fun r a n => exec_illegalOp_of_fault (decodeFault_of_fields r a n)
  · refine ⟨fetchFault_of_walk_invalid canon nonlocal pins cold, fun pte at' big walk => ?_⟩
    have refused {c} := fetchFault_of_leaf_refused (c := c) canon nonlocal pins cold walk
    rw [leafAddr_eq] at refused
    refine ⟨fun user u m => refused ?_, fun u bad => refused (leafCheck_fetch_of_exec u bad)⟩
    rw [user]
    exact leafCheck_of_user m u

end Sys2Proof.Proofs
end

section
/-! PROOF. A step runs the instruction that its clock fetches (R31, R39, R56, R57): what a clock does when nothing is
due, what a fetch leaves, the word that `withFetchWord` places, and what the accounts after an instruction change: O7. -/

namespace Sys2Proof.Proofs.Stepping
open Sys2Proof.Machine Sys2Proof.Laws

theorem andThen_assoc (o : Out) (f g : State → Out) :
    andThen (andThen o f) g = andThen o (fun t => andThen (f t) g) := by
  cases o <;> rfl

/-! ### A clock in which nothing is due -/

theorem boundaries_of_nothing_due {s : State} {hs : List HartId} (calm : ∀ h ∈ hs, s.dueAt h = none) :
    s.boundaries hs = .next s := by
  induction hs with
  | nil => rfl
  | cons h rest ih =>
    have head : s.boundary h = .next s := by
      simp [State.boundary, calm h List.mem_cons_self]
    rw [State.boundaries, head]
    exact ih (fun g hg => calm g (List.mem_cons_of_mem h hg))

theorem dueAt_of_mem_hartsAt {s : State} {c : CoreId} (calm : ∀ n : Fin 4, s.dueAt (hartOf c n) = none) :
    ∀ h ∈ hartsAt c, s.dueAt h = none := by
  intro h hh
  obtain ⟨n, -, rfl⟩ := List.mem_map.mp hh
  exact calm n

/-- Nothing is due at the boundary of a hart that nothing has been asked of. -/
theorem dueAt_eq_none {s : State} {h : HartId} (stop : (s.hart h).stopReq = false) (reports : (s.hart h).reports = [])
    (preempt : (s.hart h).preemptReq = false) (sig : (s.hart h).hostSig = false) (sat : (s.hart h).satEvp = false)
    (alarm : (s.hart h).alarm = 0) : s.dueAt h = none := by
  simp [State.dueAt, State.reportDue, State.preemptDue, State.signalDue, State.saturationDue, State.alarmDue,
    State.alarmPending, stop, reports, preempt, sig, sat, alarm]

/-- A clock at whose start nothing is due, and in which hart h is the first that can issue, is h's issue. -/
theorem clock_eq_issue {s s0 : State} {c : CoreId} {ready : BitVec 4} {units : Nat} {h : HartId}
    (passed : s0 = s.passClock c) (on : s0.inService (chipletOf c) = true)
    (calm : ∀ n : Fin 4, s0.dueAt (hartOf c n) = none)
    (first : s0.firstReady (s0.readyHarts c ready []) = some h) :
    s.clock c ready units = andThen (((s0.countWaits c (s0.readyHarts c ready []) (some h)).turnOf h units).issue)
      (fun t => .next (t.settled h)) := by
  have none_due := dueAt_of_mem_hartsAt calm
  have due : (hartsAt c).filter (fun g => (s0.dueAt g).isSome) = [] :=
    List.filter_eq_nil_iff.mpr (fun g hg => by simp [none_due g hg])
  have on' : s.inService (chipletOf c) = true := by
    rw [passed] at on
    exact on
  simp only [State.clock, on', Bool.not_true, Bool.false_eq_true, if_false, ← passed, due,
    boundaries_of_nothing_due none_due, andThen, State.issueFirst, first]

/-! ### What a fetch leaves -/

theorem markPage_part (s : State) (m : PageMark) : (s.markPage m).part = s.part := by
  unfold State.markPage State.markAway State.markLeaf
  dsimp only
  repeat' split
  all_goals first | rfl | exact home_part s _

theorem usePage_part (s : State) (c : CoreId) (m : PageMark) : (s.usePage c m).part = s.part := markPage_part s m

theorem usePages_part (s : State) (c : CoreId) (ps : List Place) : (s.usePages c ps).part = s.part :=
  foldl_field (fun s => s.part) _ (fun s t => usePage_part s c t) _ s

/-- A field that using pages and filling the instruction cache keep is as it was after a fetch. -/
theorem fetch_word_field {β : Type} (g : State → β) {s t : State} {h : HartId} {w : BitVec 32}
    (pages : ∀ c ps, g (s.usePages c ps) = g s) (cache : ∀ (u : State) c x, g (u.setCore c x) = g u)
    (f : s.fetch h = .word w t) : g t = g s := by
  unfold State.fetch at f
  dsimp only at f
  split at f
  · cases f
  · split at f
    · cases f
      exact pages _ _
    · split at f
      · cases f
      · split at f
        · cases f
          exact pages _ _
        · cases f
          exact (cache _ _ _).trans (pages _ _)

section
variable {s t : State} {h : HartId} {w : BitVec 32} (f : s.fetch h = .word w t)
include f

theorem fetch_word_harts : t.harts = s.harts := fetch_word_field _ (usePages_harts s) (fun _ _ _ => rfl) f
theorem fetch_word_cur : t.cur = s.cur := fetch_word_field _ (usePages_cur s) (fun _ _ _ => rfl) f
theorem fetch_word_part : t.part = s.part := fetch_word_field _ (usePages_part s) (fun _ _ _ => rfl) f

theorem fetch_word_me : t.me = s.me := by
  rw [me_eq, me_eq, fetch_word_cur f]
  exact hart_congr (fetch_word_harts f) _

end

/-! ### The clocks a hart has waited -/

/-- t is s but for the clocks that its harts have waited. -/
def OnlyStarve (s t : State) : Prop :=
  t = { s with harts := t.harts } ∧ ∀ g, ∃ n, t.hart g = { s.hart g with starve := n }

theorem OnlyStarve.refl (s : State) : OnlyStarve s s := ⟨rfl, fun g => ⟨(s.hart g).starve, rfl⟩⟩

theorem OnlyStarve.modHart {s t : State} (h : OnlyStarve s t) (g : HartId) (f : Hart → Nat) :
    OnlyStarve s (t.modHart g (fun x => { x with starve := f x })) := by
  obtain ⟨frame, waits⟩ := h
  refine ⟨?_, fun k => ?_⟩
  · conv_lhs => rw [frame]
    rfl
  · obtain ⟨n, hn⟩ := waits k
    rw [modHart_eq, hart_setHart]
    split
    · next e =>
      subst e
      exact ⟨f (t.hart k), by rw [hn]⟩
    · exact ⟨n, hn⟩

theorem onlyStarve_countWaits (s : State) (c : CoreId) (rs : List HartId) (who : Option HartId) :
    OnlyStarve s (s.countWaits c rs who) := by
  have fold : ∀ (hs : List HartId) (t : State), OnlyStarve s t → OnlyStarve s (hs.foldl (fun t h =>
      t.modHart h (fun x => { x with starve := if rs.contains h && some h != who then x.starve + 1 else 0 })) t) := by
    intro hs
    induction hs with
    | nil => exact fun t ht => ht
    | cons h rest ih => exact fun t ht => ih _ (ht.modHart h _)
  exact fold (hartsAt c) s (OnlyStarve.refl s)

theorem noteWindow_of_closed {s : State} {h : HartId} (closed : (s.hart h).lw = false) : s.noteWindow h = s := by
  simp only [State.noteWindow, closed, Bool.false_eq_true, if_false]

theorem turnOf_part (s : State) (h : HartId) (units : Nat) : (s.turnOf h units).part = s.part := by
  unfold State.turnOf State.noteWindow
  dsimp only
  split <;> rfl

/-! ### The step -/

theorem issue_of_fetch {s t : State} {w : BitVec 32} (f : s.fetch s.cur = .word w t) : s.issue = t.runWord w := by
  rw [State.issue, f]

/-- The step of a module whose next turn is a core's clock: the instruction that the fetch gives, then the accounts. -/
theorem step_eq_exec {s t : State} {c : CoreId} {ready : BitVec 4} {units : Nat} {rest : List Turn} {h : HartId}
    {w : BitVec 32} {i : Instr} (turn : s.agenda = .clock c ready units :: rest) {s0 : State}
    (passed : s0 = { s with agenda := rest }.passClock c) (on : s0.inService (chipletOf c) = true)
    (calm : ∀ n : Fin 4, s0.dueAt (hartOf c n) = none)
    (first : s0.firstReady (s0.readyHarts c ready []) = some h)
    (fetched : ((s0.countWaits c (s0.readyHarts c ready []) (some h)).turnOf h units).fetch h = .word w t)
    (decoded : decodeWord s.part w = .ok i) (pair : t.pairBad w i = false)
    (mode : isPrivileged i = true → t.me.supervisor = true) (live : t.me.pfxLive = true → t.me.pfxst.c = true) :
    step s = andThen (exec i t) (fun u => .next ((u.noteWork t i).settled h)) := by
  have part : t.part = s.part := by
    rw [fetch_word_part fetched, turnOf_part, (onlyStarve_countWaits _ _ _ _).1, passed]
    rfl
  have clock : step s = { s with agenda := rest }.clock c ready units := by
    rw [step, turn]
    rfl
  have issued : ((s0.countWaits c (s0.readyHarts c ready []) (some h)).turnOf h units).issue = t.runInstr w i := by
    rw [← Fetching.runWord_of_ok (part ▸ decoded)]
    exact issue_of_fetch fetched
  rw [clock, clock_eq_issue passed on calm first, issued, Fetching.runInstr_of_runs pair mode live, andThen_assoc]
  rfl

/-! ### A fetch from memory -/

theorem readError_eq_none {s : State} {h : HartId} {ps : List Place} (free : s.belayed h = false)
    (sound : ∀ p ∈ ps, s.spoiled [] p.pa = none) : s.readError h ps = none := by
  unfold State.readError
  refine List.findSome?_eq_none_iff.mpr (fun p hp => ?_)
  simp [State.stagedBad, free, sound p hp]

/-- An access whose page the core's translation cache holds, with every right that it needs, to global memory. -/
theorem locate_of_cached {s : State} {x : Ctx} {a : Acc} {hu : HostUse} {va : Word} {t : TEntry}
    (canon : va.toNat < 2 ^ 48) (nonlocal : isLocal va.toNat = false) (pins : x.pins = [])
    (hit : (s.core (coreOf x.hart)).tcache.find? (fun t => t.hits x.asid va.toNat && t.usable a) = some t)
    (leaf : leafCheck s.part t.pte a x.super (leafAddr t.pte t.big va.toNat) = none)
    (region : s.region (leafAddr t.pte t.big va.toNat) = .global) :
    s.locate x a hu va = .ok (leafPlace t.pte t.big va.toNat none) := by
  have place : s.translate x a va.toNat = .ok (leafPlace t.pte t.big va.toNat none) := by
    simp only [State.translate, pins, List.find?_nil, hit, leaf]
  have raw : s.locateRaw x a hu va = .ok (leafPlace t.pte t.big va.toNat none) := by
    simp only [State.locateRaw, Nat.not_le.mpr canon, nonlocal, place, leafPlace, region, if_false, Bool.false_eq_true]
  simp only [State.locate, raw, State.fencedFor, leafPlace, region, Bool.false_eq_true, if_false]

/-- A fetch that finds its page in the translation cache and nothing in the instruction cache reads the word at its
home. -/
theorem fetch_of_memory {s : State} {h : HartId} {p : Place}
    (loc : s.locate (s.ctx h) .fetch .never (s.hart h).pc = .ok p) (mark : p.mark = none) (free : s.belayed h = false)
    (cold : (s.core (coreOf h)).icache = []) (queue : (s.core (coreOf h)).queue = []) (locks : s.locks = [])
    (sound : ∀ a, p.pa ≤ a → a < p.pa + 4 → s.spoiled [] a = none) {w : BitVec 32}
    (word : BitVec.ofNat 32 (leNat ((List.range 4).map (fun i => memGet s.mem (p.pa + i)))) = w) :
    s.fetch h = .word w
      (s.modCore (coreOf h) (fun k => { k with icache := ((p.pa, w) :: k.icache).take 16384 })) := by
  have staged : s.stagedWrites h = [] := by simp [State.stagedWrites, free]
  have pages : s.usePages (coreOf h) [p] = s := usePages_cached s _ _ (by simpa using mark)
  have bytes : ∀ a, s.readByte h a = memGet s.mem a := fun a => by
    rw [State.readByte, staged, applyWrites_nil, State.coreByte, queue, List.foldl_nil]
  have unlocked : s.lockCheck h [p] = none := by simp [State.lockCheck, State.lockWait, locks]
  have good : s.readError h ((List.range 4).map (fun i => { p with pa := p.pa + i })) = none := by
    refine readError_eq_none free (fun q hq => ?_)
    simp only [List.mem_map, List.mem_range] at hq
    obtain ⟨i, hi, rfl⟩ := hq
    exact sound _ (Nat.le_add_right _ _) (Nat.add_lt_add_left hi _)
  have unstaged : ((List.range 4).map (fun i => p.pa + i)).any (fun a => maskOf a (s.stagedWrites h) != 0) = false := by
    rw [staged]
    rfl
  simp only [State.fetch, loc, unstaged, cold, unlocked, good, pages, bytes, Bool.false_eq_true, if_false,
    List.find?_nil, Option.orElse, List.map_map, Function.comp_def, word]

/-! ### The word that `withFetchWord` places -/

/-- The module of `withFetchWord` after its turn is taken and the core's clock has passed, with its memory left free. -/
def placed (m : Memory) : State :=
  { State.reset.withFetchWord 32 0 with mem := m, agenda := [] }.passClock 0

/-- The memory of `withFetchWord`. -/
def wordMemory (w : BitVec 32) : Memory := memPuts [] (writesAt 0 (leBytes 4 (w.toNat % 2 ^ 32)))

theorem placed_wordMemory (w : BitVec 32) :
    placed (wordMemory w) = { State.reset.withFetchWord 32 w.toNat with agenda := [] }.passClock 0 := rfl

theorem wordMemory_word (w : BitVec 32) :
    BitVec.ofNat 32 (leNat ((List.range 4).map (fun i => memGet (wordMemory w) (0 + i)))) = w := by
  have bytes : (List.range 4).map (fun i => memGet (wordMemory w) (0 + i)) = leBytes 4 (w.toNat % 2 ^ 32) := by
    simp [wordMemory, memGet_writesAt (m := []) rfl, leBytes, List.range_succ]
  rw [bytes, leNat_leBytes]
  apply BitVec.eq_of_toNat_eq
  have small := w.isLt
  simp only [BitVec.toNat_ofNat]
  omega

theorem region_low {s : State} (part : s.part = .p8840) {a : Nat} (low : a < 2 ^ 15) : s.region a = .global := by
  have here : a / 2 ^ 44 = 0 := Nat.div_eq_of_lt (by omega)
  have memory : a < Config.memBytes .p8840 := low.trans (by decide)
  simp only [State.region, part, regionOf, here, memory, ne_eq, not_true_eq_false, if_false, if_true]

/-- The translation that `withFetchWord` places. -/
def placedLeaf : TEntry := { asid := 0, vpn := 0, big := false, pte := 0x59, pteAddr := 0 }

section
variable (m : Memory)

theorem placed_inService : (placed m).inService (chipletOf 0) = true := rfl
theorem placed_readyHarts : (placed m).readyHarts 0 1 [] = [0] := rfl
theorem placed_firstReady : (placed m).firstReady ((placed m).readyHarts 0 1 []) = some 0 := rfl

theorem placed_hart_zero : (placed m).hart 0 = { Hart.initial with status := .running } := rfl

theorem placed_dueAt (n : Fin 4) : (placed m).dueAt (hartOf 0 n) = none := by
  match n with
  | 0 | 1 | 2 | 3 => exact dueAt_eq_none rfl rfl rfl rfl rfl rfl

/-- The state in which hart 0 issues. -/
def placedTurn : State := ((placed m).countWaits 0 ((placed m).readyHarts 0 1 []) (some 0)).turnOf 0 0

/-- What the issue of hart 0 starts from: the module as placed, but for what hart 0's turn sets. -/
theorem placedTurn_eq : ∃ n hs g, placedTurn m = { placed m with harts := hs, cur := 0, slice := 0, group := g } ∧
    hs.get 0 = { Hart.initial with status := .running, held := false, starve := n } := by
  obtain ⟨frame, waits⟩ := onlyStarve_countWaits (placed m) 0 ((placed m).readyHarts 0 1 []) (some 0)
  obtain ⟨n, hn⟩ := waits 0
  rw [placed_hart_zero] at hn
  generalize hu : (placed m).countWaits 0 ((placed m).readyHarts 0 1 []) (some 0) = u at frame hn
  have me : (u.modHart 0 (fun x => { x with held := false })).hart 0 =
      { Hart.initial with status := .running, held := false, starve := n } := by
    rw [modHart_eq, hart_setHart_same, hn]
  refine ⟨n, (u.modHart 0 (fun x => { x with held := false })).harts, (placed m).group + 1, ?_, me⟩
  have closed : ((u.modHart 0 (fun x => { x with held := false })).hart 0).lw = false := by
    rw [me]
    exact (rfl : Hart.initial.lw = false)
  have window : (u.modHart 0 (fun x => { x with held := false })).noteWindow 0 =
      u.modHart 0 (fun x => { x with held := false }) := noteWindow_of_closed closed
  rw [placedTurn, hu, State.turnOf, window]
  conv_lhs => rw [frame]
  rfl

end

/-- The fetch of hart 0's turn gives the word placed, with hart 0 at the pc it was placed at. -/
theorem placedTurn_fetch (w : BitVec 32) : ∃ t, (placedTurn (wordMemory w)).fetch 0 = .word w t ∧
    (placedTurn (wordMemory w)).cur = 0 ∧ ∃ n, (placedTurn (wordMemory w)).me =
      { Hart.initial with status := .running, held := false, starve := n } := by
  obtain ⟨n, hs, g, e, me⟩ := placedTurn_eq (wordMemory w)
  rw [e]
  generalize hu : ({ placed (wordMemory w) with harts := hs, cur := 0, slice := 0, group := g } : State) = u
  have hart : u.hart 0 = { Hart.initial with status := .running, held := false, starve := n } := by
    rw [← hu]
    exact me
  have ctx : u.ctx 0 = State.reset.ctx 0 := by
    rw [State.ctx, hart]
    rfl
  have cache : (u.core (coreOf 0)).tcache = [placedLeaf] := by
    rw [← hu]
    rfl
  have part : u.part = .p8840 := by
    rw [← hu]
    rfl
  have loc : u.locate (u.ctx 0) .fetch .never (u.hart 0).pc = .ok (leafPlace placedLeaf.pte placedLeaf.big 0 none) := by
    rw [ctx, hart]
    refine locate_of_cached (s := u) (x := State.reset.ctx 0) (va := 0) (t := placedLeaf) (by decide) rfl rfl ?_ ?_ ?_
    · exact (congrArg _ cache).trans rfl
    · rw [part]
      decide
    · exact region_low part (by decide)
  have sound : ∀ a, 0 ≤ a → a < 0 + 4 → u.spoiled [] a = none := by
    intro a _ lt
    have region : u.region a = .global := region_low part (by omega)
    have bad : u.badLineOf a = none := by
      rw [← hu]
      rfl
    simp only [State.spoiled, bad, State.markAt, region]
  have word : BitVec.ofNat 32 (leNat ((List.range 4).map (fun i => memGet u.mem (0 + i)))) = w := by
    rw [← hu]
    exact wordMemory_word w
  have fetched := fetch_of_memory loc rfl (by rw [← hu]; rfl) (by rw [← hu]; rfl) (by rw [← hu]; rfl)
    (by rw [← hu]; rfl) sound word
  have cur : u.cur = 0 := by rw [← hu]
  exact ⟨_, fetched, cur, n, by rw [me_eq, cur, hart]⟩

/-- The word that `withFetchWord` places is the word the next step decodes and runs (log 17). -/
theorem step_withFetchWord {w : BitVec 32} {i : Instr} (decoded : decodeWord .p8840 w = .ok i)
    (user : isPrivileged i = false) :
    ∃ t, step (State.reset.withFetchWord 32 w.toNat) =
        andThen (exec i t) (fun u => .next ((u.noteWork t i).settled 0)) ∧
      t.cur = 0 ∧ t.me.pc = 0 ∧ t.me.status = .running ∧ t.me.xr = Hart.initial.xr := by
  obtain ⟨t, fetched, cur, n, me⟩ := placedTurn_fetch w
  rw [← fetch_word_me fetched] at me
  refine ⟨t, ?_, (fetch_word_cur fetched).trans cur, by rw [me]; rfl, by rw [me], by rw [me]; rfl⟩
  exact step_eq_exec (rest := []) rfl (placed_wordMemory w) (placed_inService _) (placed_dueAt _)
    (placed_firstReady _) fetched decoded (by simp [State.pairBad, me, Hart.initial]) (by simp [user])
    (by simp [me, Hart.initial])

/-! ### The accounts after an instruction -/

theorem noteWork_frame (s t : State) (i : Instr) : t.noteWork s i = { t with cores := (t.noteWork s i).cores } := by
  unfold State.noteWork
  dsimp only
  split <;> rfl

theorem noteWork_core (s t : State) (i : Instr) (c : CoreId) :
    (t.noteWork s i).core c = { t.core c with work := ((t.noteWork s i).core c).work } := by
  unfold State.noteWork
  dsimp only
  split
  · rfl
  · rw [modCore_eq, core_setCore]
    split
    · next e => rw [e]
    · rfl

section
variable (s : State) (h : HartId)

theorem leaveLocks_frame : ∃ ls rs, s.leaveLocks h = { s with locks := ls, reservations := rs } := by
  unfold State.leaveLocks
  split
  · exact ⟨s.locks, s.reservations, rfl⟩
  · exact ⟨_, _, rfl⟩

theorem leaveLocks_hart (g : HartId) : (s.leaveLocks h).hart g = s.hart g := by
  obtain ⟨ls, rs, e⟩ := leaveLocks_frame s h
  rw [e]
  rfl

theorem not_mem_waiting_leaveLocks : ∀ l ∈ (s.leaveLocks h).locks, h ∉ l.waiting := by
  unfold State.leaveLocks
  split
  · next none => simp [none.1]
  · intro l hl
    obtain ⟨k, -, rfl⟩ := List.mem_map.mp (List.mem_filter.mp hl).1
    simp

variable {s h}

theorem settled_of_held (held : (s.hart h).held = true) : s.settled h = s := by
  simp [State.settled, held]

theorem settled_of_away (held : (s.hart h).held = false) (away : (s.hart h).remote ≠ .idle) :
    s.settled h = s.leaveLocks h := by
  simp [State.settled, held, away]

theorem settled_of_ended (held : (s.hart h).held = false) (home : (s.hart h).remote = .idle) :
    s.settled h = (s.leaveLocks h).setHart h { s.hart h with headAt := (s.core (coreOf h)).cycle.toNat } := by
  simp [State.settled, held, home, modHart_eq, leaveLocks_hart]

end
/-- What a hart's settling changes: nothing while it holds on; else its place at the lines' homes and, when its
instruction has ended, the clock from which its next one is at its head. -/
theorem settled_spec (s : State) (h : HartId) :
    let y := (s.settled h).hart h
    s.settled h = { s with harts := (s.settled h).harts, locks := (s.settled h).locks,
                           reservations := (s.settled h).reservations } ∧
    (∀ g, g ≠ h → (s.settled h).hart g = s.hart g) ∧ y = { s.hart h with headAt := y.headAt } ∧
    ((s.hart h).held = true → s.settled h = s) ∧
    ((s.hart h).held = false → ∀ l ∈ (s.settled h).locks, h ∉ l.waiting) ∧
    ((s.hart h).held = false → (s.hart h).remote = .idle → y.headAt = (s.core (coreOf h)).cycle.toNat) := by
  intro y
  cases held : (s.hart h).held
  case true =>
    have same : s.settled h = s := settled_of_held held
    simp [y, same]
  case false =>
    obtain ⟨ls, rs, frame⟩ := leaveLocks_frame s h
    by_cases home : (s.hart h).remote = .idle
    · have ended := settled_of_ended held home
      have hart : y = { s.hart h with headAt := (s.core (coreOf h)).cycle.toNat } := by
        simp [y, ended]
      refine ⟨?_, fun g n => ?_, by rw [hart], by simp, fun _ => ?_, fun _ _ => by rw [hart]⟩
      · rw [ended, frame]
        rfl
      · rw [ended, hart_setHart_ne _ _ n, leaveLocks_hart]
      · rw [ended]
        exact not_mem_waiting_leaveLocks s h
    · have waits := settled_of_away held home
      refine ⟨?_, fun g _ => ?_, ?_, by simp, fun _ => ?_, fun _ idle => absurd idle home⟩
      · rw [waits, frame]
      · rw [waits, leaveLocks_hart]
      · simp only [y, waits, leaveLocks_hart]
      · rw [waits]
        exact not_mem_waiting_leaveLocks s h

end Sys2Proof.Proofs.Stepping

namespace Sys2Proof.Proofs
open Sys2Proof.Machine Stepping

/-- Settles O7: the clock is the issue of its first ready hart, whose fetch leaves the harts as they are; the
placed word is the case of a word in memory. -/
theorem stepRunsDecodedInstruction : Obligations.StepRunsDecodedInstruction := by
  refine ⟨?_, fun w i decoded user => step_withFetchWord decoded user,
    fun s t i => ⟨noteWork_frame s t i, noteWork_core s t i⟩, settled_spec⟩
  intro s t c ready units rest h w i turn s0 on calm first s1 fetched decoded pair mode live
  exact ⟨step_eq_exec turn rfl on calm first fetched decoded pair mode live, fetch_word_me fetched,
    fetch_word_cur fetched⟩

end Sys2Proof.Proofs
end
section
/-! PROOF. Traps, TRAP, BRK and TRET, interrupts and error reports (R66, R92 to R95, R99, R100, R298, R343, R344). -/

namespace Sys2Proof.Proofs.Traps
open Sys2Proof Sys2Proof.Machine Sys2Proof.Laws

/-! ### status at a trap and at TRET (R66, R94) -/

theorem getLsbD_srEnter_low (sr : BitVec 16) : (srEnter sr).getLsbD 0 = true ∧ (srEnter sr).getLsbD 1 = sr.getLsbD 0 ∧
    (srEnter sr).getLsbD 2 = false ∧ (srEnter sr).getLsbD 3 = sr.getLsbD 2 ∧ (srEnter sr).getLsbD 4 = true := by
  unfold srEnter
  cases sr.getLsbD 0 <;> cases sr.getLsbD 2 <;> simp

/-- The bits of status from bit 5 up stay at a trap. -/
theorem getLsbD_srEnter_high (sr : BitVec 16) {i : Nat} (high : 5 ≤ i) : (srEnter sr).getLsbD i = sr.getLsbD i := by
  by_cases w : i < 16
  · unfold srEnter
    cases sr.getLsbD 0 <;> cases sr.getLsbD 2 <;> interval_cases i <;> simp
  · rw [BitVec.getLsbD_of_ge _ _ (by omega), BitVec.getLsbD_of_ge _ _ (by omega)]

theorem getLsbD_srLeave_low (sr : BitVec 16) : (srLeave sr).getLsbD 0 = sr.getLsbD 1 ∧
    (srLeave sr).getLsbD 2 = sr.getLsbD 3 ∧ (srLeave sr).getLsbD 4 = false := by
  unfold srLeave
  cases sr.getLsbD 1 <;> cases sr.getLsbD 3 <;> simp

/-- The bits of status but MODE, IE and INH stay at TRET. -/
theorem getLsbD_srLeave_other (sr : BitVec 16) {i : Nat} (mode : i ≠ 0) (ie : i ≠ 2) (inh : i ≠ 4) :
    (srLeave sr).getLsbD i = sr.getLsbD i := by
  by_cases w : i < 16
  · unfold srLeave
    cases sr.getLsbD 1 <;> cases sr.getLsbD 3 <;> interval_cases i <;> simp_all
  · rw [BitVec.getLsbD_of_ge _ _ (by omega), BitVec.getLsbD_of_ge _ _ (by omega)]

/-! ### Taking a trap (R343) and the double trap (R99) -/

section
variable (s : State) (h : HartId) (c : BitVec 7) (v e : Word)

theorem trapHart_enter_hart (inh : (s.hart h).inh = false) : (s.trapHart h c v e).hart h =
    { (s.hart h).enterTrap c v e with headAt := (s.core (coreOf h)).cycle.toNat } := by
  rw [trapHart_enter s h c v e inh, hart_setHart_same]

theorem trapHart_enter_cores (inh : (s.hart h).inh = false) : (s.trapHart h c v e).cores = s.cores := by
  rw [trapHart_enter s h c v e inh, setHart_cores, leaveHomes_cores, noteReport_cores]

theorem trapHart_enter_camp (inh : (s.hart h).inh = false) : (s.trapHart h c v e).camp = s.camp := by
  rw [trapHart_enter s h c v e inh, setHart_camp, leaveHomes_camp, noteReport_camp]

/-- The halted hart keeps its registers: it is no longer live, so the failure of its launch does not touch it. -/
theorem halt_hart : (s.halt h).hart h = { s.hart h with
    status := .halted, pfxLive := false, remote := .idle, pins := [], kept := none, held := false, stopReq := false } := by
  unfold State.halt
  rw [failLaunch_hart, hart_modLaunch, modHart_eq, hart_setHart_same, if_neg (by simp [Hart.live]), leaveHomes_hart,
    release_hart]

/-- The launch of a halted hart, when it stood, fails with DOUBLE_TRAP (R99, R404). -/
theorem halt_launch {l : Launch} (of : s.launch (s.hart h).launch = some l) (stood : l.failed = none) :
    ∃ m, (s.halt h).launch (s.hart h).launch = some m ∧ m.failed = some 0x05 := by
  have same : ((s.release h).leaveHomes h).launch (s.hart h).launch = some l := by
    rw [launch_congr (leaveHomes_camp _ _), launch_congr (release_camp _ _), of]
  unfold State.halt
  rw [launch_failLaunch, launch_modLaunch (same := fun x => by split <;> rfl), modHart_eq, launch_setHart, same]
  simp only [Option.map_some, if_true]
  refine ⟨_, rfl, fallen_failed _ (.inl ?_)⟩
  split <;> exact stood

end

end Sys2Proof.Proofs.Traps

namespace Sys2Proof.Proofs
open Sys2Proof Sys2Proof.Machine Sys2Proof.Laws Traps

/-- Settles O10: with INH = 0 the state is the one that trap entry gives, and with INH = 1 the halted one. -/
theorem trapEntryAndDoubleTrap : Obligations.TrapEntryAndDoubleTrap := by
  refine ⟨fun s h c v e inh => ?_, fun s h c v e inh => ?_⟩
  · obtain ⟨mode, pmode, ie, pie, inhibit⟩ := getLsbD_srEnter_low (s.hart h).sr
    rw [trapHart_enter_hart s h c v e inh]
    exact ⟨rfl, mode, pmode, ie, pie, inhibit, fun i high => getLsbD_srEnter_high _ high,
      fun g other => trapHart_other s h g c v e inh other, fun a => by rw [trapHart_mem],
      trapHart_enter_cores s h c v e inh, trapHart_enter_camp s h c v e inh⟩
  · have same := noteReport_hart s h h c
    rw [trapHart_halt s h c v e inh]
    dsimp only
    rw [halt_hart, same]
    refine ⟨rfl, rfl, rfl, rfl, rfl, rfl, fun l of stood => ?_, fun a => by rw [halt_mem, noteReport_mem]⟩
    have halted := halt_launch (s.noteReport h c) h (l := l)
    rw [same, launch_congr (noteReport_camp s h c)] at halted
    exact halted of stood

/-- Settles O11: TRAP traps in the state in which it has completed, BRK at its own address, and TRET writes the bits of
status that R94 names. -/
theorem trapInstructions : Obligations.TrapInstructions := by
  refine ⟨fun s n => ⟨?_, rfl⟩, fun s => ⟨fun aligned => ?_, fun odd => if_pos odd⟩⟩
  · show Host.Outcome.next ((s.setMe s.me.advance).trapHart s.cur 0x08 (n.setWidth 64) (s.setMe s.me.advance).me.pc) = _
    rw [me_setMe]
  · obtain ⟨mode, ie, inh⟩ := getLsbD_srLeave_low s.me.sr
    refine ⟨s.setMe s.me.leaveTrap, if_neg (not_not.mpr aligned), ?_, ?_⟩
    · rw [State.onlyMe, me_setMe]
    · rw [me_setMe]
      exact ⟨rfl, mode, ie, inh, fun i => getLsbD_srLeave_other s.me.sr⟩

end Sys2Proof.Proofs

namespace Sys2Proof.Proofs.Traps
open Sys2Proof Sys2Proof.Machine Sys2Proof.Laws

/-! ### Interrupts and reports (R100, R298, R344) -/

/-- A hart that runs and stands at a boundary, is parked, or waits in anything but a WAITM may be interrupted. -/
theorem interruptible_of {x : Hart} (at_boundary : (x.status = .running ∧ x.remote = .idle ∧ x.held = false) ∨
      x.status = .parked ∨ ∃ w, x.status = .blocked w ∧ ∀ d k lim, w ≠ .waitm d k lim) : x.interruptible = true := by
  unfold Hart.interruptible
  rcases at_boundary with ⟨runs, idle, free⟩ | parked | ⟨w, waits, other⟩
  · simp [runs, idle, free]
  · rw [parked]
  · rw [waits]
    cases w with
    | waitm d k lim => exact absurd rfl (other d k lim)
    | _ => rfl

/-- With INH = 1 or IE = 0 no interrupt of R100 is taken. -/
theorem takeable_masked {s : State} {h : HartId} (masked : (s.hart h).inh = true ∨ (s.hart h).ie = false) (enable : Nat) :
    s.takeable h enable = false := by
  unfold State.takeable
  rcases masked with inh | ie
  · simp [inh]
  · simp [ie]

theorem exec_hostSignal_due {s : State} {h : HartId} (due : s.signalDue h = true) : exec (.hostSignal h) s =
    .next ((s.modHart h (fun x => { x with hostSig := false })).trapHart h 0x71 0 (s.hart h).pc) := by
  refine (if_pos due).trans ?_
  rw [modHart_eq, hart_setHart_same]
  rfl

theorem exec_hostSignal_idle {s : State} {h : HartId} (due : s.signalDue h = false) :
    exec (.hostSignal h) s = .next s := if_neg (by simp [due])

theorem exec_saturationEvent_idle {s : State} {h : HartId} (due : s.saturationDue h = false) :
    exec (.saturationEvent h) s = .next s := if_neg (by simp [due])

theorem exec_localAlarm_idle {s : State} {h : HartId} (due : s.alarmDue h = false) :
    exec (.localAlarm h) s = .next s := if_neg (by simp [due])

/-- A running or parked hart with INH = 0 and a report takes it at its boundary; with INH = 1 none is due. -/
theorem reportDue_eq {s : State} {h : HartId} {r : Report} {rest : List Report} (reports : (s.hart h).reports = r :: rest)
    (idle : (s.hart h).remote = .idle) (free : (s.hart h).held = false)
    (at_boundary : (s.hart h).status = .running ∨ (s.hart h).status = .parked) :
    s.reportDue h = !(s.hart h).inh := by
  unfold State.reportDue
  rcases at_boundary with at_boundary | at_boundary <;> simp [at_boundary, reports, idle, free]

theorem reportDue_inhibited {s : State} {h : HartId} (inh : (s.hart h).inh = true) : s.reportDue h = false := by
  unfold State.reportDue
  simp [inh]

theorem exec_asyncErrorReport_due {s : State} {h : HartId} {r : Report} {rest : List Report}
    (reports : (s.hart h).reports = r :: rest) (due : s.reportDue h = true) : exec (.asyncErrorReport h) s =
    .next ((s.modHart h (fun x => { x with reports := rest })).trapHart h r.cause r.tval (s.hart h).pc) := by
  show execAsyncErrorReport h s = _
  unfold execAsyncErrorReport
  rw [reports]
  simp only [due, modHart_eq, hart_setHart_same]
  rfl

theorem exec_asyncErrorReport_idle {s : State} {h : HartId} (due : s.reportDue h = false) :
    exec (.asyncErrorReport h) s = .next s := by
  show execAsyncErrorReport h s = _
  unfold execAsyncErrorReport
  rw [due]
  split <;> rfl

end Sys2Proof.Proofs.Traps

namespace Sys2Proof.Proofs
open Sys2Proof Sys2Proof.Machine Sys2Proof.Laws Traps

/-- Settles O12: an interrupt is taken exactly when it is due, and with INH = 1 or IE = 0 none is. -/
theorem interruptsAndReportsEnterTraps : Obligations.InterruptsAndReportsEnterTraps := by
  refine ⟨fun s h => ⟨fun at_boundary inh ie stop report preempt => ?_, fun masked => ?_⟩,
    fun s h r rest reports => ⟨fun inh idle free at_boundary => ?_, fun inh => ?_⟩⟩
  · have takeable (enable : Nat) : s.takeable h enable = (s.hart h).sr.getLsbD enable := by
      simp [State.takeable, interruptible_of at_boundary, inh, ie, stop, report, preempt]
    refine ⟨fun pending enabled => ?_, fun quiet pending enabled => ?_, fun quiet unsaturated set passed enabled => ?_⟩
    · exact exec_hostSignal_due (by simp [State.signalDue, pending, takeable, enabled])
    · exact if_pos (by simp [State.saturationDue, State.signalDue, quiet, pending, takeable, enabled])
    · have pending : s.alarmPending h = true := by simpa [State.alarmPending, passed] using set
      exact if_pos (by simp [State.alarmDue, State.saturationDue, State.signalDue, quiet, unsaturated, pending, takeable,
        enabled])
  · have takeable := takeable_masked masked
    exact ⟨exec_hostSignal_idle (by simp [State.signalDue, takeable]),
      exec_saturationEvent_idle (by simp [State.saturationDue, takeable]),
      exec_localAlarm_idle (by simp [State.alarmDue, takeable])⟩
  · exact exec_asyncErrorReport_due reports (by rw [reportDue_eq reports idle free at_boundary, inh]; rfl)
  · exact exec_asyncErrorReport_idle (reportDue_inhibited inh)

end Sys2Proof.Proofs
end
section
/-! PROOF. The loop stack, LOOP and PFX (R38, R39, R42, R44, R82 to R84). -/

namespace Sys2Proof.Proofs.Loops
open Sys2Proof Sys2Proof.Machine Sys2Proof.Laws

/-! ### The pending PFX at completion (R39, R44) -/

@[simp] theorem endPfx_pfxLive (h : Hart) : h.endPfx.pfxLive = false := by
  unfold Hart.endPfx
  split
  · rfl
  · next idle => exact eq_false_of_ne_true idle

theorem endPfx_pfxst_live {h : Hart} (live : h.pfxLive = true) : h.endPfx.pfxst = { h.pfxst with pend := false } := by
  rw [Hart.endPfx, if_pos live]

theorem endPfx_pfxst_idle {h : Hart} (idle : h.pfxLive = false) : h.endPfx.pfxst = h.pfxst := by
  rw [Hart.endPfx, if_neg (by simp [idle])]

/-! ### The loop return, entry by entry from the top (R83) -/

theorem endsBody_iff (h : Hart) (ia : Word) (t : Fin 2) :
    h.endsBody ia t = true ↔ ia.toNat + 4 = (h.lbeg.get t).toNat + 4 * (h.llen.get t).toNat := beq_iff_eq

theorem loopReturn_empty {h : Hart} (empty : h.ld = 0) (ia : Word) : h.loopReturn ia = h := by
  unfold Hart.loopReturn
  rw [empty]
  rfl

theorem loopReturn_one {h : Hart} (one : h.ld = 1) (ia : Word) : h.loopReturn ia = (h.loopTest ia 0).1 := by
  rw [Hart.loopReturn, show h.ld.toNat = 1 from congrArg BitVec.toNat one]
  rfl

theorem loopReturn_two {h : Hart} (two : h.ld = 2) (ia : Word) : h.loopReturn ia =
    if (h.loopTest ia 1).2 then (h.loopTest ia 1).1 else ((h.loopTest ia 1).1.loopTest ia 0).1 := by
  rw [Hart.loopReturn, show h.ld.toNat = 2 from congrArg BitVec.toNat two]
  rfl

theorem loopTest_inside {h : Hart} {ia : Word} {t : Fin 2} (inside : h.endsBody ia t = false) :
    h.loopTest ia t = (h, true) := by
  rw [Hart.loopTest, if_pos (by simp [inside])]

theorem loopTest_again {h : Hart} {ia : Word} {t : Fin 2} (last : h.endsBody ia t = true) (count : h.lrem.get t ≠ 0) :
    h.loopTest ia t = ({ h with lrem := h.lrem.set t.val (h.lrem.get t - 1) t.isLt, pc := h.lbeg.get t }, true) := by
  rw [Hart.loopTest, if_neg (by simp [last]), if_pos count]

theorem loopTest_over {h : Hart} {ia : Word} {t : Fin 2} (last : h.endsBody ia t = true) (count : h.lrem.get t = 0) :
    h.loopTest ia t = ({ h with ld := h.ld - 1 }, false) := by
  rw [Hart.loopTest, if_neg (by simp [last]), if_neg (not_not.mpr count)]

section
variable {h : Hart} {ia : Word} {t : Fin 2} (top : h.ld = BitVec.ofNat 2 (t.val + 1))
include top

/-- A test of the top entry that ends the return. -/
theorem loopReturn_of_test {x : Hart} (test : h.loopTest ia t = (x, true)) : h.loopReturn ia = x := by
  match t with
  | 0 => rw [loopReturn_one top, test]
  | 1 => rw [loopReturn_two top, test, if_pos rfl]

theorem loopReturn_inside (inside : h.endsBody ia t = false) : h.loopReturn ia = h :=
  loopReturn_of_test top (loopTest_inside inside)

theorem loopReturn_again (last : h.endsBody ia t = true) (count : h.lrem.get t ≠ 0) : h.loopReturn ia =
    { h with lrem := h.lrem.set t.val (h.lrem.get t - 1) t.isLt, pc := h.lbeg.get t } :=
  loopReturn_of_test top (loopTest_again last count)

/-- With no count left in the top entry the return goes on with the entry below. -/
theorem loopReturn_over (last : h.endsBody ia t = true) (count : h.lrem.get t = 0) :
    h.loopReturn ia = { h with ld := h.ld - 1 }.loopReturn ia := by
  have test := loopTest_over last count
  match t with
  | 0 =>
    have empty : h.ld - 1 = 0 := by rw [top]; rfl
    rw [loopReturn_one top, test, loopReturn_empty empty]
  | 1 =>
    have one : h.ld - 1 = 1 := by rw [top]; rfl
    rw [loopReturn_two top, test, if_neg (by simp), loopReturn_one one]

end

/-! ### Completion -/

/-- The hart at pc + 4 with its PFX spent, before the loop return. -/
def goneOn (h : Hart) : Hart := { h.endPfx with pc := h.pc + 4, kept := none }

theorem advance_eq_loopReturn (h : Hart) : h.advance = (goneOn h).loopReturn h.pc := rfl

@[simp] theorem goneOn_ld (h : Hart) : (goneOn h).ld = h.ld := endPfx_ld h
@[simp] theorem goneOn_lrem (h : Hart) : (goneOn h).lrem = h.lrem := endPfx_lrem h
@[simp] theorem goneOn_lbeg (h : Hart) : (goneOn h).lbeg = h.lbeg := endPfx_lbeg h
@[simp] theorem goneOn_endsBody (h : Hart) (ia : Word) (t : Fin 2) : (goneOn h).endsBody ia t = h.endsBody ia t := by
  simp [Hart.endsBody, goneOn]

@[simp] theorem advance_pfxLive (h : Hart) : h.advance.pfxLive = false := by
  rw [advance_eq_loopReturn, loopReturn_eq]
  exact endPfx_pfxLive h

@[simp] theorem advance_pfxst (h : Hart) : h.advance.pfxst = h.endPfx.pfxst := by
  rw [advance_eq_loopReturn, loopReturn_eq]
  rfl

theorem advance_of_empty {h : Hart} (empty : h.ld = 0) : h.advance = goneOn h :=
  loopReturn_empty ((goneOn_ld h).trans empty) h.pc

/-- The hart at pc + 4 with its top loop entry popped. -/
def dropped (h : Hart) : Hart := { goneOn h with ld := (goneOn h).ld - 1 }

@[simp] theorem dropped_lrem (h : Hart) : (dropped h).lrem = h.lrem := endPfx_lrem h
@[simp] theorem dropped_lbeg (h : Hart) : (dropped h).lbeg = h.lbeg := endPfx_lbeg h
@[simp] theorem dropped_endsBody (h : Hart) (ia : Word) (t : Fin 2) : (dropped h).endsBody ia t = h.endsBody ia t :=
  goneOn_endsBody h ia t

theorem dropped_ld_of_one {h : Hart} (one : h.ld = 1) : (dropped h).ld = 0 := by
  rw [dropped, goneOn_ld, one]
  rfl

theorem dropped_ld_of_two {h : Hart} (two : h.ld = 2) : (dropped h).ld = 1 := by
  rw [dropped, goneOn_ld, two]
  rfl

section
variable {h : Hart} {t : Fin 2} (top : h.ld = BitVec.ofNat 2 (t.val + 1))
include top

theorem advance_of_inside (inside : h.endsBody h.pc t = false) : h.advance = goneOn h :=
  loopReturn_inside ((goneOn_ld h).trans top) ((goneOn_endsBody h h.pc t).trans inside)

theorem advance_of_again (last : h.endsBody h.pc t = true) (count : h.lrem.get t ≠ 0) : h.advance =
    { goneOn h with lrem := (goneOn h).lrem.set t.val ((goneOn h).lrem.get t - 1) t.isLt, pc := (goneOn h).lbeg.get t } :=
  loopReturn_again (h := goneOn h) ((goneOn_ld h).trans top) ((goneOn_endsBody h h.pc t).trans last) (by rwa [goneOn_lrem])

theorem advance_of_over (last : h.endsBody h.pc t = true) (count : h.lrem.get t = 0) :
    h.advance = (dropped h).loopReturn h.pc :=
  loopReturn_over (h := goneOn h) ((goneOn_ld h).trans top) ((goneOn_endsBody h h.pc t).trans last) (by rwa [goneOn_lrem])

end

/-! ### Taken transfers (R84) -/

theorem leaves_iff (h : Hart) (ia t : Word) (e : Fin 2) : h.leaves ia t e = true ↔
    (h.lbeg.get e).toNat ≤ ia.toNat ∧ ia.toNat < (h.lbeg.get e).toNat + 4 * (h.llen.get e).toNat ∧
      ¬ ((h.lbeg.get e).toNat ≤ t.toNat ∧ t.toNat < (h.lbeg.get e).toNat + 4 * (h.llen.get e).toNat) := by
  rw [Hart.leaves, Bool.and_eq_true, Bool.not_eq_true', decide_eq_true_eq, decide_eq_false_iff_not, and_assoc]

theorem popLoops_one {h : Hart} (one : h.ld = 1) (ia t : Word) :
    h.popLoops ia t = if h.leaves ia t 0 then { h with ld := 0 } else h := by
  rw [Hart.popLoops, show h.ld.toNat = 1 from congrArg BitVec.toNat one]
  rfl

theorem popLoops_two {h : Hart} (two : h.ld = 2) (ia t : Word) : h.popLoops ia t =
    if h.leaves ia t 1 then (if h.leaves ia t 0 then { h with ld := 0 } else { h with ld := 1 }) else h := by
  rw [Hart.popLoops, show h.ld.toNat = 2 from congrArg BitVec.toNat two]
  rfl

/-- The hart with its PFX spent and nothing sampled, as a transfer finds it. -/
def spent (h : Hart) : Hart := { h.endPfx with kept := none }

@[simp] theorem spent_ld (h : Hart) : (spent h).ld = h.ld := endPfx_ld h
@[simp] theorem spent_leaves (h : Hart) (ia t : Word) (e : Fin 2) : (spent h).leaves ia t e = h.leaves ia t e := by
  simp only [Hart.leaves, spent, endPfx_lbeg, endPfx_llen]

/-- A taken transfer to another word than the next. -/
theorem jump_of_ne {h : Hart} {t : Word} (away : t ≠ h.pc + 4) (pops : Bool) : h.jump t pops =
    { spent h with pc := t, ld := if pops then ((spent h).popLoops h.pc t).ld else (spent h).ld } := by
  unfold Hart.jump
  rw [if_neg away]
  cases pops
  · rfl
  · rw [if_pos rfl, if_pos rfl, popLoops_eq]
    rfl

/-! ### PFX at the end of a body (R42) -/

theorem atLoopEnd_empty {h : Hart} (empty : h.ld = 0) : h.atLoopEnd = false := by
  rw [Hart.atLoopEnd, show h.ld.toNat = 0 from congrArg BitVec.toNat empty]
  rfl

theorem atLoopEnd_top {h : Hart} {t : Fin 2} (top : h.ld = BitVec.ofNat 2 (t.val + 1)) :
    h.atLoopEnd = h.endsBody h.pc t := by
  match t with
  | 0 =>
    rw [Hart.atLoopEnd, show h.ld.toNat = 1 from congrArg BitVec.toNat top]
    rfl
  | 1 =>
    rw [Hart.atLoopEnd, show h.ld.toNat = 2 from congrArg BitVec.toNat top]
    rfl

/-- The condition of a PFX is that x[p] is nonzero, or with NEG that it is zero (R38). -/
theorem condition_eq (x : Word) (neg : BitVec 1) :
    ((x != 0) != (neg == 1)) = if neg = 1 then x == 0 else x != 0 := by
  by_cases inverted : neg = 1
  · rw [if_pos inverted, inverted, bne, bne]
    simp
  · rw [if_neg inverted, beq_false_of_ne inverted, Bool.bne_false]

/-! ### LOOP (R82) -/

theorem depth_of_ne_two {ld : BitVec 2} (depth : ld.toNat ≤ 2) (room : ld ≠ 2) : ¬ 2 ≤ ld.toNat :=
  fun full => room (BitVec.eq_of_toNat_eq (Nat.le_antisymm depth full))

end Sys2Proof.Proofs.Loops

namespace Sys2Proof.Proofs
open Sys2Proof Sys2Proof.Machine Sys2Proof.Laws Loops

/-- Settles O14: completion follows the loop return from the top entry down, and a transfer the pops of R84. -/
theorem loopStackLaws : Obligations.LoopStackLaws := by
  refine ⟨fun h _ => ?_, fun h t pops _ away => ?_⟩
  · dsimp only
    simp only [← endsBody_iff, Bool.not_eq_true]
    refine ⟨advance_pfxLive h, fun live => ?_, fun idle => ?_, fun empty => ?_, fun one inside => ?_,
      fun one last count => ?_, fun one last count => ?_, fun two inside => ?_, fun two last count => ?_,
      fun two last count inside => ?_, fun two last count last0 count0 => ?_, fun two last count last0 count0 => ?_,
      sameButPc_advance h⟩
    · rw [advance_pfxst, endPfx_pfxst_live live]
    · rw [advance_pfxst, endPfx_pfxst_idle idle]
    · rw [advance_of_empty empty]
      exact ⟨rfl, (goneOn_ld h).trans empty, goneOn_lrem h⟩
    · rw [advance_of_inside (t := 0) one inside]
      exact ⟨rfl, (goneOn_ld h).trans one, goneOn_lrem h⟩
    · rw [advance_of_again (t := 0) one last count, goneOn_lbeg, goneOn_lrem]
      exact ⟨rfl, (goneOn_ld h).trans one, vget_set_same _ _ _, vget_set_ne _ _ (by decide)⟩
    · rw [advance_of_over (t := 0) one last count, loopReturn_empty (dropped_ld_of_one one)]
      exact ⟨rfl, dropped_ld_of_one one, dropped_lrem h⟩
    · rw [advance_of_inside (t := 1) two inside]
      exact ⟨rfl, (goneOn_ld h).trans two, goneOn_lrem h⟩
    · rw [advance_of_again (t := 1) two last count, goneOn_lbeg, goneOn_lrem]
      exact ⟨rfl, (goneOn_ld h).trans two, vget_set_same _ _ _, vget_set_ne _ _ (by decide)⟩
    · rw [advance_of_over (t := 1) two last count,
        loopReturn_inside (t := 0) (dropped_ld_of_two two) ((dropped_endsBody h _ _).trans inside)]
      exact ⟨rfl, dropped_ld_of_two two, dropped_lrem h⟩
    · rw [advance_of_over (t := 1) two last count,
        loopReturn_again (t := 0) (dropped_ld_of_two two) ((dropped_endsBody h _ _).trans last0) (by rwa [dropped_lrem]),
        dropped_lbeg, dropped_lrem]
      exact ⟨rfl, dropped_ld_of_two two, vget_set_same _ _ _⟩
    · have empty : (dropped h).ld - 1 = 0 := by rw [dropped_ld_of_two two]; rfl
      rw [advance_of_over (t := 1) two last count,
        loopReturn_over (t := 0) (dropped_ld_of_two two) ((dropped_endsBody h _ _).trans last0) (by rwa [dropped_lrem]),
        loopReturn_empty empty]
      exact ⟨rfl, empty, dropped_lrem h⟩
  · dsimp only
    simp only [← leaves_iff, Bool.not_eq_true]
    have jumped := jump_of_ne away pops
    refine ⟨by rw [jumped], by rw [jumped]; exact endPfx_pfxLive h, by rw [jumped]; exact endPfx_lrem h, sameButPc_jump h t pops,
      fun live => by rw [jumped]; exact endPfx_pfxst_live live, fun idle => by rw [jumped]; exact endPfx_pfxst_idle idle,
      fun stays => by rw [jumped, stays]; exact spent_ld h, ?_⟩
    have popped (pop : pops = true) : (h.jump t pops).ld = ((spent h).popLoops h.pc t).ld := by rw [jumped, pop]; rfl
    refine ⟨fun pop one leaves => ?_, fun pop one stays => ?_, fun pop two stays => ?_, fun pop two leaves stays => ?_,
      fun pop two leaves leaves0 => ?_⟩
    · simp [popped pop, popLoops_one ((spent_ld h).trans one), leaves]
    · simp [popped pop, popLoops_one ((spent_ld h).trans one), stays, one]
    · simp [popped pop, popLoops_two ((spent_ld h).trans two), stays, two]
    · simp [popped pop, popLoops_two ((spent_ld h).trans two), leaves, stays]
    · simp [popped pop, popLoops_two ((spent_ld h).trans two), leaves, leaves0]

/-- Settles O16: LOOP by its depth and its count, PFX by whether it stands at the end of a body. -/
theorem loopAndPrefixResults : Obligations.LoopAndPrefixResults := by
  refine ⟨fun s a len depth => ?_, fun s p d2 neg cp depth => ?_⟩
  · dsimp only
    refine ⟨fun two => if_pos (by rw [two]; decide), fun room zero => ?_, fun room nonzero => ?_⟩
    · have shallow := depth_of_ne_two depth room
      refine ⟨_, (if_neg shallow).trans (if_pos zero), ?_, ?_⟩
      · rw [State.onlyMe, me_setMe]
      · rw [me_setMe]
        exact ⟨rfl, endPfx_ld _, by rw [Hart.sameButPc, endPfx_eq]⟩
    · have shallow := depth_of_ne_two depth room
      refine ⟨_, (if_neg shallow).trans (if_neg nonzero), rfl, rfl, fun empty => ?_, fun one => ?_, rfl⟩
      · simp only [empty]
        exact ⟨vget_set_same _ _ _, vget_set_same _ _ _, vget_set_same _ _ _, vget_set_ne _ _ (by decide),
          vget_set_ne _ _ (by decide), vget_set_ne _ _ (by decide)⟩
      · simp only [one]
        exact ⟨vget_set_same _ _ _, vget_set_same _ _ _, vget_set_same _ _ _, vget_set_ne _ _ (by decide),
          vget_set_ne _ _ (by decide), vget_set_ne _ _ (by decide)⟩
  · dsimp only
    simp only [← endsBody_iff, Bool.not_eq_true]
    refine ⟨fun free => ?_, fun last => ⟨_, if_pos ?_, rfl⟩⟩
    · have free : s.me.atLoopEnd = false := by
        rcases free with empty | ⟨one, inside⟩ | ⟨two, inside⟩
        · exact atLoopEnd_empty empty
        · exact (atLoopEnd_top (t := 0) one).trans inside
        · exact (atLoopEnd_top (t := 1) two).trans inside
      refine (if_neg (by rw [free]; simp)).trans ?_
      rw [condition_eq]
    · rcases last with ⟨one, last⟩ | ⟨two, last⟩
      · exact (atLoopEnd_top (t := 0) one).trans last
      · exact (atLoopEnd_top (t := 1) two).trans last

end Sys2Proof.Proofs
end
section
/-! PROOF. Scalar loads and stores (R86, R87, R198, R226, R242). -/

namespace Sys2Proof.Proofs.Scalar
open Sys2Proof Sys2Proof.Machine Sys2Proof.Laws

/-! ### The pages that an access uses (R198) -/

/-- Writes at their home leave every byte that none of them names. -/
theorem memGet_home_of_not_mem {s : State} (canonical : s.mem.wf = true) {ws : List ByteWrite} {a : Nat}
    (elsewhere : ∀ w ∈ ws, w.pa ≠ a) : memGet (s.home ws).mem a = memGet s.mem a := by
  unfold State.home
  split
  · rw [memGet_memPuts canonical, applyWrites_of_not_mem _ _ _ elsewhere]
  · rw [memGet_memPuts canonical, applyWrites_of_not_mem _ _ _ fun w m => elsewhere w (List.mem_of_mem_filter m)]

theorem home_queue (s : State) (ws : List ByteWrite) (c : CoreId) : ((s.home ws).core c).queue = (s.core c).queue := by
  unfold State.home
  split
  · rfl
  · simp only [State.core, Vector.get_ofFn]

/-- Marking a page is a write of its leaf, a message, or nothing. -/
theorem markPage_cases (s : State) (m : PageMark) :
    (∃ bytes, bytes.length = 8 ∧ s.markPage m = s.home (writesAt m.entry.pteAddr bytes)) ∨
      (s.markPage m).mem = s.mem ∧ (s.markPage m).cores = s.cores := by
  unfold State.markPage State.markAway State.markLeaf
  dsimp only
  split
  · exact .inr ⟨rfl, rfl⟩
  · refine .inr ?_
    repeat' split
    all_goals exact ⟨rfl, rfl⟩
  · refine .inr ?_
    repeat' split
    all_goals exact ⟨rfl, rfl⟩
  · split
    · exact .inl ⟨_, leBytes_length 8 _, rfl⟩
    · exact .inr ⟨rfl, rfl⟩

theorem memGet_usePage {s : State} (canonical : s.mem.wf = true) (c : CoreId) {m : PageMark} {a : Nat}
    (outside : ¬ (m.entry.pteAddr ≤ a ∧ a < m.entry.pteAddr + 8)) :
    memGet (s.usePage c m).mem a = memGet s.mem a := by
  show memGet (s.markPage m).mem a = _
  rcases markPage_cases s m with ⟨bytes, length, marked⟩ | ⟨same, -⟩
  · rw [marked, memGet_home_of_not_mem canonical]
    rintro w written rfl
    obtain ⟨low, high, -⟩ := mem_writesAt written
    exact outside ⟨low, length ▸ high⟩
  · rw [same]

theorem usePage_queue (s : State) (c : CoreId) (m : PageMark) (b : CoreId) :
    ((s.usePage c m).core b).queue = (s.core b).queue := by
  have marked : ((s.markPage m).core b).queue = (s.core b).queue := by
    rcases markPage_cases s m with ⟨bytes, -, marked⟩ | ⟨-, same⟩
    · rw [marked, home_queue]
    · rw [core_congr same]
  unfold State.usePage State.fillCache
  rw [modCore_eq, core_setCore]
  split
  · next e => rw [← marked, e]
  · exact marked

theorem usePages_queue (s : State) (c : CoreId) (ps : List Place) : s.sameQueues (s.usePages c ps) := fun b =>
  foldl_field (fun s => (s.core b).queue) _ (fun s m => usePage_queue s c m b) _ s

/-- Using pages changes only bytes of their leaves. -/
theorem memGet_usePages {s : State} (canonical : s.mem.wf = true) (c : CoreId) {ps : List Place} {a : Nat}
    (outside : ¬ leafByte ps a) : memGet (s.usePages c ps).mem a = memGet s.mem a := by
  have each : ∀ m ∈ (ps.filterMap (fun p => p.mark)).eraseDups, ¬ (m.entry.pteAddr ≤ a ∧ a < m.entry.pteAddr + 8) := by
    rintro m member leaf
    obtain ⟨p, place, mark⟩ := List.mem_filterMap.mp (List.mem_eraseDups.mp member)
    exact outside ⟨p, place, m, mark, leaf⟩
  unfold State.usePages
  generalize (ps.filterMap (fun p => p.mark)).eraseDups = marks at each
  induction marks generalizing s with
  | nil => rfl
  | cons m rest ih =>
    rw [List.foldl_cons, ih (usePage_wf s canonical c m) fun m member => each m (List.mem_cons_of_mem _ member),
      memGet_usePage canonical c (each m List.mem_cons_self)]

/-! ### What a load makes of its bytes (R86) -/

theorem sextBytes_eq_signedBytes {n : Nat} (pos : 0 < n) (v : Nat) : sextBytes n v = signedBytes n v := by
  have half : 2 ^ (8 * n) = 2 * 2 ^ (8 * n - 1) := by
    rw [← Nat.pow_succ']
    congr 1
    omega
  have sign : 2 * (v % 2 ^ (8 * n)) < 2 ^ (8 * n) ↔ v % 2 ^ (8 * n) < 2 ^ (8 * n - 1) := by omega
  unfold sextBytes signedBytes
  rw [BitVec.signExtend, BitVec.toInt_eq_toNat_cond, BitVec.toNat_ofNat, if_congr sign rfl rfl]
  push_cast
  rfl

theorem sextBytes_eight (v : Nat) : sextBytes 8 v = BitVec.ofNat 64 v := BitVec.signExtend_eq _

theorem boxed_of_lt {v : Nat} (word : v < 256 ^ 4) : boxed v = BitVec.ofNat 64 ((2 ^ 32 - 1) * 2 ^ 32 + v) := by
  unfold boxed
  rw [Nat.mod_eq_of_lt (show v < 2 ^ 32 from word)]
  norm_num

theorem locateAll_length {s : State} {x : Ctx} {a : Acc} {hu : HostUse} {va : Word} {n : Nat} {ps : List Place}
    (located : s.locateAll x a hu va n = .ok ps) : ps.length = n := by
  induction n generalizing va ps with
  | zero =>
    cases located
    rfl
  | succ n ih =>
    unfold State.locateAll at located
    split at located
    · cases located
    · split at located
      · cases located
      · next rest =>
        cases located
        rw [List.length_cons, ih rest]

/-! ### Loads and stores are the accesses of their specifications -/

theorem loadX_signed (s : State) {n : Nat} (pos : 0 < n) (d a : Reg) (imm : BitVec 13) (w : BitVec 32) :
    s.loadX n true d a imm w = s.load n (s.ea a imm) w (fun t v => t.writeX d (signedBytes n v)) := by
  simp only [State.loadX, if_pos, sextBytes_eq_signedBytes pos]

theorem loadX_eight (s : State) (d a : Reg) (imm : BitVec 13) (w : BitVec 32) :
    s.loadX 8 true d a imm w = s.load 8 (s.ea a imm) w (fun t v => t.writeX d (BitVec.ofNat 64 v)) := by
  simp only [State.loadX, if_pos, sextBytes_eight]

theorem loadX_unsigned (s : State) (n : Nat) (d a : Reg) (imm : BitVec 13) (w : BitVec 32) :
    s.loadX n false d a imm w = s.load n (s.ea a imm) w (fun t v => t.writeX d (BitVec.ofNat 64 v)) := rfl

/-- A scalar load is a load of its bytes at its address, whose number then goes where `put` says. -/
theorem exec_load {s : State} {i : Instr} {l : LoadSpec} (spec : loadSpec s i = some l) : ∃ k,
    exec i s = s.load l.bytes l.ea l.word k ∧ ∀ t v, v < 256 ^ l.bytes → k t v = t.finish (l.put v) := by
  cases i with
  | ldb d a imm | ldh d a imm | ldw d a imm =>
    cases spec
    exact ⟨_, loadX_signed s (by decide) d a imm _, fun _ _ _ => rfl⟩
  | ldd d a imm =>
    cases spec
    exact ⟨_, loadX_eight s d a imm _, fun _ _ _ => rfl⟩
  | ldbu d a imm | ldhu d a imm | ldwu d a imm =>
    cases spec
    exact ⟨_, loadX_unsigned s _ d a imm _, fun _ _ _ => rfl⟩
  | flw d a imm =>
    cases spec
    exact ⟨fun t v => t.finish (fun h => h.setF d (boxed v)), rfl,
      fun t v word => congrArg (fun b => t.finish (fun h => h.setF d b)) (boxed_of_lt word)⟩
  | fld d a imm =>
    cases spec
    exact ⟨fun t v => t.finish (fun h => h.setF d (BitVec.ofNat 64 v)), rfl, fun _ _ _ => rfl⟩
  | _ => cases spec

theorem exec_store {s : State} {i : Instr} {n : Nat} {ea : Word} {w : BitVec 32} {v : Word}
    (spec : storeSpec s i = some (n, ea, w, v)) : exec i s = s.store n ea v.toNat w := by
  cases i with
  | stb | sth | stw | std | fsw | fsd =>
    cases spec
    rfl
  | _ => cases spec

/-! ### The first two checks of R87 -/

section
variable {s : State} {n : Nat} {ea : Word}

theorem load_noncanonical (high : 2 ^ 48 ≤ ea.toNat ∨ 2 ^ 48 ≤ (ea + BitVec.ofNat 64 (n - 1)).toNat) (w : BitVec 32)
    (k : State → Nat → Out) : s.load n ea w k = s.trapped 0x24 ea := if_pos high

theorem load_misaligned (low : ¬ (2 ^ 48 ≤ ea.toNat ∨ 2 ^ 48 ≤ (ea + BitVec.ofNat 64 (n - 1)).toNat))
    (odd : ea.toNat % n ≠ 0) (w : BitVec 32) (k : State → Nat → Out) : s.load n ea w k = s.trapped 0x25 ea :=
  (if_neg low).trans (if_pos odd)

theorem store_noncanonical (idle : s.me.remote = .idle)
    (high : 2 ^ 48 ≤ ea.toNat ∨ 2 ^ 48 ≤ (ea + BitVec.ofNat 64 (n - 1)).toNat) (v : Nat) (w : BitVec 32) :
    s.store n ea v w = s.trapped 0x24 ea := by
  unfold State.store
  rw [idle]
  exact if_pos high

theorem store_misaligned (idle : s.me.remote = .idle)
    (low : ¬ (2 ^ 48 ≤ ea.toNat ∨ 2 ^ 48 ≤ (ea + BitVec.ofNat 64 (n - 1)).toNat)) (odd : ea.toNat % n ≠ 0) (v : Nat)
    (w : BitVec 32) : s.store n ea v w = s.trapped 0x25 ea := by
  unfold State.store
  rw [idle]
  exact (if_neg low).trans (if_pos odd)

end

/-! ### Loads of another module's memory (R226, R242) -/

theorem endRemote_eq (s : State) : s.endRemote = s.setMe { s.me with remote := .idle, pins := [] } := rfl

theorem AccessAway.canonical {s : State} {a : Acc} {n : Nat} {ea : Word} {w : BitVec 32} {ps : List Place} {pa : Nat}
    (away : s.AccessAway a n ea w ps pa) :
    ¬ (2 ^ 48 ≤ ea.toNat ∨ 2 ^ 48 ≤ (ea + BitVec.ofNat 64 (n - 1)).toNat) := by
  have := away.low
  have := away.high
  omega

/-- The executing hart of a state in which a request has gone out. -/
theorem me_asked (s : State) (ms : List PageMap) (pa : Nat) (sent : List FabricMsg) :
    (((s.keepPins ms).modMe (fun h => { h with remote := .sent pa, sentAt := s.baseClock })).post sent).me =
      { s.me with remote := .sent pa, sentAt := s.baseClock, pins := (s.me.pins ++ ms).eraseDups } :=
  (me_setMe _ _).trans (congrArg (fun h : Hart => { h with remote := .sent pa, sentAt := s.baseClock }) (me_setMe _ _))

section
variable {s : State} {n : Nat} {ea : Word} {w : BitVec 32} {ps : List Place} {pa : Nat}
  (away : s.AccessAway .read n ea w ps pa) (sound : s.readError s.cur ps = none) (k : State → Nat → Out)
include away sound

/-- A load whose checks pass waits when its gate says so. -/
theorem load_waits {t : State}
    (gate : s.remoteGate .read ps (.load ((ps.map (fun p => p.pa)).headD 0) n) = .error (.wait t)) :
    s.load n ea w k = .next t := by
  unfold State.load
  rw [if_neg (AccessAway.canonical away), if_neg (not_not.mpr away.aligned), away.places]
  simp only [away.belay, away.locks, sound, gate, Stop.out]

/-- A load whose checks pass takes the answer that its gate hands on. -/
theorem load_passed {reply : List Byte}
    (gate : s.remoteGate .read ps (.load ((ps.map (fun p => p.pa)).headD 0) n) = .ok (some reply)) :
    s.load n ea w k = k s.endRemote (leNat (reply.take n)) := by
  unfold State.load
  rw [if_neg (AccessAway.canonical away), if_neg (not_not.mpr away.aligned), away.places]
  simp only [away.belay, away.locks, sound, gate]

/-- With its pages already marked, a load asks the other module and waits. -/
theorem load_asks (idle : s.me.remote = .idle) (marked : ∀ p ∈ ps, p.mark = none) : s.load n ea w k =
    .next (((s.keepPins (s.pinsOf (s.ctx s.cur) .read ps)).modMe
      (fun h => { h with remote := .sent pa, sentAt := s.baseClock })).post
        [.load ((ps.map (fun p => p.pa)).headD 0) n]) :=
  load_waits away sound k (by simp only [State.remoteGate, away.away, idle, usePages_cached _ _ _ marked])

theorem load_answered {reply : List Byte} (answered : s.me.remote = .answered reply) :
    s.load n ea w k = k s.endRemote (leNat (reply.take n)) :=
  load_passed away sound k (by simp only [State.remoteGate, away.away, answered])

end

end Sys2Proof.Proofs.Scalar

namespace Sys2Proof.Proofs
open Sys2Proof Sys2Proof.Machine Sys2Proof.Laws Scalar

/-- Settles O19: the two checks come first in every load and every store that waits at no other module. -/
theorem scalarAccessTraps : Obligations.ScalarAccessTraps := by
  rintro s i n ea (⟨l, spec, rfl, rfl⟩ | ⟨w, v, spec⟩) idle
  · obtain ⟨k, runs, -⟩ := exec_load spec
    rw [runs]
    exact ⟨fun high => load_noncanonical high _ k, fun low top odd => load_misaligned (by omega) odd _ k⟩
  · rw [exec_store spec]
    exact ⟨fun high => store_noncanonical idle high _ w, fun low top odd => store_misaligned idle (by omega) odd _ w⟩

/-- Settles O17: a load that may perform hands on the bytes it reads in the state in which its pages are used, and one of
another module's memory asks, waits, and takes the answer. -/
theorem loadResults : Obligations.LoadResults := by
  intro s i l ps spec sound
  obtain ⟨k, runs, puts⟩ := exec_load spec
  rw [runs]
  refine ⟨fun ready => ?_, fun pa away => ⟨fun idle marked => ?_, fun reply answered => ?_⟩⟩
  · have read : leNat (ps.map (fun p => (s.usePages (coreOf s.cur) ps).fetchByte s.cur p.pa)) < 256 ^ l.bytes := by
      have bound := leNat_lt (ps.map (fun p => (s.usePages (coreOf s.cur) ps).fetchByte s.cur p.pa))
      rwa [List.length_map, locateAll_length ready.places] at bound
    have used : (s.usePages (coreOf s.cur) ps).step1.me = s.me := by
      show (s.usePages (coreOf s.cur) ps).hart (s.usePages (coreOf s.cur) ps).cur = _
      rw [usePages_cur, hart_congr (usePages_harts s _ ps), me_eq]
    dsimp only
    rw [load_ready k ready sound, puts _ _ read, finish_eq, used]
    refine ⟨_, rfl, me_setMe _ _, fun h other => ?_, usePages_queue s _ ps,
      fun a outside => memGet_usePages ready.canonical _ outside⟩
    rw [setMe_eq, hart_setHart_ne _ _ (by simpa using other), hart_step1, hart_congr (usePages_harts s _ ps)]
  · rw [load_asks away sound k idle marked]
    refine ⟨_, rfl, fun h other => ?_, fun c => rfl, fun a => rfl, ?_, rfl⟩
    · exact (hart_setHart_ne _ _ other).trans (hart_setHart_ne s _ other)
    · rw [me_asked]
  · have bound : leNat (reply.take l.bytes) < 256 ^ l.bytes :=
      (leNat_lt _).trans_le (Nat.pow_le_pow_right (by decide) (List.length_take_le _ _))
    rw [load_answered away sound k answered, puts _ _ bound, finish_eq, endRemote_eq, me_setMe, setMe_setMe]

end Sys2Proof.Proofs
end
section
/-! PROOF. The integer instructions (R73 to R78, Tables 3.10 and 3.11): each result on words is the manual's in whole
numbers. -/

namespace Sys2Proof.Proofs.Integer
open Sys2Proof Sys2Proof.Machine Sys2Proof.Laws Transfer

/-! ### Sums, products and bitwise operations -/

theorem add_eq (x y : Word) : x + y = BitVec.ofInt 64 (x.toInt + y.toInt) := by
  rw [BitVec.ofInt_add, BitVec.ofInt_toInt, BitVec.ofInt_toInt]

theorem sub_eq (x y : Word) : x - y = BitVec.ofInt 64 (x.toInt - y.toInt) := by
  rw [Int.sub_eq_add_neg, BitVec.ofInt_add, BitVec.ofInt_neg, BitVec.ofInt_toInt, BitVec.ofInt_toInt, BitVec.sub_eq_add_neg]

theorem mul_eq (x y : Word) : x * y = BitVec.ofInt 64 (x.toInt * y.toInt) := by
  rw [BitVec.ofInt_mul, BitVec.ofInt_toInt, BitVec.ofInt_toInt]

theorem and_setWidth_eq {w : Nat} (x : Word) (y : BitVec w) : x &&& y.setWidth 64 = BitVec.ofNat 64 (x.toNat &&& y.toNat) := by
  rw [BitVec.ofNat_and, BitVec.ofNat_toNat, BitVec.ofNat_toNat, BitVec.setWidth_eq]

theorem and_eq (x y : Word) : x &&& y = BitVec.ofNat 64 (x.toNat &&& y.toNat) := by
  rw [← and_setWidth_eq, BitVec.setWidth_eq]

theorem or_setWidth_eq {w : Nat} (x : Word) (y : BitVec w) : x ||| y.setWidth 64 = BitVec.ofNat 64 (x.toNat ||| y.toNat) := by
  rw [BitVec.ofNat_or, BitVec.ofNat_toNat, BitVec.ofNat_toNat, BitVec.setWidth_eq]

theorem or_eq (x y : Word) : x ||| y = BitVec.ofNat 64 (x.toNat ||| y.toNat) := by
  rw [← or_setWidth_eq, BitVec.setWidth_eq]

theorem xor_setWidth_eq {w : Nat} (x : Word) (y : BitVec w) : x ^^^ y.setWidth 64 = BitVec.ofNat 64 (x.toNat ^^^ y.toNat) := by
  rw [BitVec.ofNat_xor, BitVec.ofNat_toNat, BitVec.ofNat_toNat, BitVec.setWidth_eq]

theorem xor_eq (x y : Word) : x ^^^ y = BitVec.ofNat 64 (x.toNat ^^^ y.toNat) := by
  rw [← xor_setWidth_eq, BitVec.setWidth_eq]

theorem nor_eq (x y : Word) : ~~~(x ||| y) = BitVec.ofNat 64 (2 ^ 64 - 1 - (x.toNat ||| y.toNat)) := by
  rw [← BitVec.toNat_or, ← BitVec.toNat_not, BitVec.ofNat_toNat, BitVec.setWidth_eq]

theorem add_upper_eq (pc : Word) (off : BitVec 21) :
    pc + 4096 * off.signExtend 64 = BitVec.ofInt 64 (pc.toInt + 4096 * off.toInt) := by
  rw [BitVec.ofInt_add, BitVec.ofInt_mul, BitVec.ofInt_toInt, BitVec.signExtend]
  rfl

/-! ### Shifts and rotations -/

theorem shiftLeft_setWidth_eq {w : Nat} (x : BitVec w) (n : Nat) : x.setWidth 64 <<< n = BitVec.ofNat 64 (x.toNat * 2 ^ n) := by
  apply BitVec.eq_of_toNat_eq
  rw [BitVec.toNat_shiftLeft, BitVec.toNat_setWidth, BitVec.toNat_ofNat, Nat.shiftLeft_eq, Nat.mod_mul_mod]

theorem shiftLeft_eq (x : Word) (n : Nat) : x <<< n = BitVec.ofNat 64 (x.toNat * 2 ^ n) := by
  rw [← shiftLeft_setWidth_eq, BitVec.setWidth_eq]

theorem ushiftRight_eq (x : Word) (n : Nat) : x >>> n = BitVec.ofNat 64 (x.toNat / 2 ^ n) := by
  rw [← Nat.shiftRight_eq_div_pow, ← BitVec.toNat_ushiftRight, BitVec.ofNat_toNat, BitVec.setWidth_eq]

theorem sshiftRight_eq (x : Word) (n : Nat) : x.sshiftRight n = BitVec.ofInt 64 (x.toInt / 2 ^ n) := by
  rw [BitVec.sshiftRight, Int.shiftRight_eq_div_pow]
  norm_cast

/-- The two parts of a rotation meet in no bit: their bits side by side are their sum. -/
theorem rotated_toNat (x : Word) {m n : Nat} (word : m + n = 64) :
    x.toNat <<< m % 2 ^ 64 ||| x.toNat >>> n = (x.toNat * 2 ^ m + x.toNat / 2 ^ n) % 2 ^ 64 := by
  have width : 2 ^ 64 = 2 ^ m * 2 ^ n := by rw [← Nat.pow_add, word]
  have low : x.toNat / 2 ^ n < 2 ^ m := Nat.div_lt_of_lt_mul (by rw [Nat.mul_comm, ← width]; exact x.isLt)
  have high : x.toNat * 2 ^ m % 2 ^ 64 = 2 ^ m * (x.toNat % 2 ^ n) := by
    rw [width, Nat.mul_comm, Nat.mul_mod_mul_left]
  have small : 2 ^ m * (x.toNat % 2 ^ n) + x.toNat / 2 ^ n < 2 ^ 64 := by
    have rest : x.toNat % 2 ^ n + 1 ≤ 2 ^ n := Nat.mod_lt _ (by positivity)
    calc _ < 2 ^ m * (x.toNat % 2 ^ n) + 2 ^ m := by omega
      _ = 2 ^ m * (x.toNat % 2 ^ n + 1) := by ring
      _ ≤ 2 ^ 64 := width ▸ Nat.mul_le_mul_left _ rest
  rw [Nat.shiftLeft_eq, Nat.shiftRight_eq_div_pow, high, ← Nat.two_pow_add_eq_or_of_lt low, Nat.add_mod, high,
    Nat.mod_eq_of_lt (b := 2 ^ 64) (a := x.toNat / 2 ^ n) (by omega), Nat.mod_eq_of_lt small]

theorem rotateLeft_eq (x : Word) {n : Nat} (lt : n < 64) :
    x.rotateLeft n = BitVec.ofNat 64 (x.toNat * 2 ^ n + x.toNat / 2 ^ (64 - n)) := by
  apply BitVec.eq_of_toNat_eq
  rw [BitVec.toNat_rotateLeft, Nat.mod_eq_of_lt lt, rotated_toNat x (by omega), BitVec.toNat_ofNat]

theorem rotateRight_eq (x : Word) {n : Nat} (lt : n < 64) :
    x.rotateRight n = BitVec.ofNat 64 (x.toNat / 2 ^ n + x.toNat * 2 ^ (64 - n)) := by
  apply BitVec.eq_of_toNat_eq
  rw [BitVec.toNat_rotateRight, Nat.mod_eq_of_lt lt, Nat.or_comm, rotated_toNat x (by omega), BitVec.toNat_ofNat, Nat.add_comm]

/-! ### Comparisons -/

theorem slt_eq (x y : Word) : boolWord (x.slt y) = if x.toInt < y.toInt then 1 else 0 := by
  simp only [boolWord, BitVec.slt_eq_decide, decide_eq_true_eq]

theorem ult_eq (x y : Word) : boolWord (x.ult y) = if x.toNat < y.toNat then 1 else 0 := by
  simp only [boolWord, BitVec.ult_eq_decide, decide_eq_true_eq]

theorem slt_imm_eq (x : Word) (imm : BitVec 16) :
    boolWord (x.slt (imm.signExtend 64)) = if x.toInt < imm.toInt then 1 else 0 := by
  rw [slt_eq, BitVec.toInt_signExtend_of_le (by decide)]

theorem min_eq (x y : Word) : (if x.slt y then x else y) = BitVec.ofInt 64 (min x.toInt y.toInt) := by
  rw [BitVec.slt_eq_decide, min_def]
  by_cases lt : x.toInt < y.toInt
  · simp [lt, lt.le]
  · rcases (not_lt.mp lt).eq_or_lt with same | gt
    · simp [BitVec.eq_of_toInt_eq same]
    · simp [lt, not_le.mpr gt]

theorem max_eq (x y : Word) : (if x.slt y then y else x) = BitVec.ofInt 64 (max x.toInt y.toInt) := by
  rw [BitVec.slt_eq_decide, max_def]
  by_cases lt : x.toInt < y.toInt
  · simp [lt, lt.le]
  · rcases (not_lt.mp lt).eq_or_lt with same | gt
    · simp [BitVec.eq_of_toInt_eq same]
    · simp [lt, not_le.mpr gt]

theorem minu_eq (x y : Word) : (if x.ult y then x else y) = BitVec.ofNat 64 (min x.toNat y.toNat) := by
  rw [BitVec.ult_eq_decide]
  by_cases lt : x.toNat < y.toNat
  · simp [lt, Nat.min_eq_left lt.le]
  · simp [lt, Nat.min_eq_right (not_lt.mp lt)]

theorem maxu_eq (x y : Word) : (if x.ult y then y else x) = BitVec.ofNat 64 (max x.toNat y.toNat) := by
  rw [BitVec.ult_eq_decide]
  by_cases lt : x.toNat < y.toNat
  · simp [lt, Nat.max_eq_right lt.le]
  · simp [lt, Nat.max_eq_left (not_lt.mp lt)]

/-! ### Quotients and remainders (Table 3.11) -/

theorem eq_zero_iff_toInt (y : Word) : y = 0 ↔ y.toInt = 0 :=
  ⟨fun zero => zero ▸ rfl, fun zero => BitVec.eq_of_toInt_eq zero⟩

theorem eq_zero_iff_toNat (y : Word) : y = 0 ↔ y.toNat = 0 :=
  ⟨fun zero => zero ▸ rfl, fun zero => BitVec.eq_of_toNat_eq zero⟩

theorem divS_eq (x y : Word) : divS x y =
    if y.toInt = 0 then BitVec.ofInt 64 (-1) else BitVec.ofInt 64 (x.toInt.tdiv y.toInt) := by
  simp only [divS, eq_zero_iff_toInt]
  rfl

theorem divU_eq (x y : Word) : divU x y =
    if y.toNat = 0 then BitVec.ofInt 64 (-1) else BitVec.ofNat 64 (x.toNat / y.toNat) := by
  simp only [divU, eq_zero_iff_toNat]
  rfl

theorem remS_eq (x y : Word) : remS x y =
    if y.toInt = 0 then x else BitVec.ofInt 64 (x.toInt.tmod y.toInt) := by
  simp only [remS, eq_zero_iff_toInt]

theorem remU_eq (x y : Word) : remU x y =
    if y.toNat = 0 then x else BitVec.ofNat 64 (x.toNat % y.toNat) := by
  simp only [remU, eq_zero_iff_toNat]

/-! ### Counts of bits -/

theorem leadingZeros_eq {x n : Nat} (lt : x < 2 ^ n) : leadingZeros x n = if x = 0 then n else n - 1 - Nat.log2 x := by
  induction n with
  | zero => simp [leadingZeros, show x = 0 by omega]
  | succ n ih =>
    unfold leadingZeros
    by_cases top : x < 2 ^ n
    · rw [Nat.testBit_lt_two_pow top, if_neg (by simp), ih top]
      by_cases zero : x = 0
      · simp [zero]
      · have := (Nat.log2_lt zero).mpr top
        rw [if_neg zero, if_neg zero]
        omega
    · have bit : x.testBit n = true := Nat.testBit_of_two_pow_le_and_two_pow_add_one_gt (not_lt.mp top) lt
      have nonzero : x ≠ 0 := fun zero => by simp [zero] at bit
      rw [if_pos bit, if_neg nonzero, (Nat.log2_eq_iff nonzero).mpr ⟨not_lt.mp top, lt⟩]
      omega

theorem trailingZeros_eq (x n i : Nat) :
    trailingZeros x n i + i = ((List.range' i n).find? (fun j => x.testBit j)).getD (i + n) := by
  induction n generalizing i with
  | zero => simp [trailingZeros]
  | succ n ih =>
    unfold trailingZeros
    rw [List.range'_succ, List.find?_cons]
    cases x.testBit i
    · have rest := ih (i + 1)
      rw [show i + 1 + n = i + (n + 1) by omega] at rest
      rw [if_neg (by simp), ← rest]
      omega
    · simp

theorem trailingZeros_eq_range (x n : Nat) :
    trailingZeros x n 0 = ((List.range n).find? (fun j => x.testBit j)).getD n := by
  have shifted := trailingZeros_eq x n 0
  rwa [Nat.add_zero, Nat.zero_add, ← List.range_eq_range'] at shifted

theorem countOnes_eq (x n : Nat) : countOnes x n = ((List.range n).filter (fun i => x.testBit i)).length := by
  induction n with
  | zero => rfl
  | succ n ih =>
    rw [countOnes, ih, List.range_succ, List.filter_append, List.length_append]
    cases bit : x.testBit n <;> simp [bit]

/-! ### Fields of bits -/

/-- A number in whose bits from `pos` up `len` bits of another stand. -/
theorem testBit_insert (old v pos len i : Nat) :
    (old % 2 ^ pos + v % 2 ^ len * 2 ^ pos + old / 2 ^ (pos + len) * 2 ^ (pos + len)).testBit i =
      if pos ≤ i ∧ i < pos + len then v.testBit (i - pos) else old.testBit i := by
  have shape : old % 2 ^ pos + v % 2 ^ len * 2 ^ pos + old / 2 ^ (pos + len) * 2 ^ (pos + len) =
      2 ^ pos * (2 ^ len * (old / 2 ^ (pos + len)) + v % 2 ^ len) + old % 2 ^ pos := by
    rw [Nat.pow_add]
    ring
  rw [shape, Nat.testBit_two_pow_mul_add _ (Nat.mod_lt _ (by positivity)),
    Nat.testBit_two_pow_mul_add _ (Nat.mod_lt _ (by positivity)), Nat.testBit_mod_two_pow, Nat.testBit_mod_two_pow,
    Nat.testBit_div_two_pow]
  by_cases below : i < pos
  · simp [below, not_le.mpr below]
  · by_cases inside : i < pos + len
    · have : i - pos < len := by omega
      simp [below, inside, this, not_lt.mp below]
    · have outside : ¬ i - pos < len := by omega
      have back : i - pos - len + (pos + len) = i := by omega
      simp [below, inside, outside, back]

/-- A word with a field kept out of another, and the field put in, is the number with the field in it. -/
theorem insert_eq {old put m : Word} {v pos len : Nat}
    (mask : ∀ i < 64, m.getLsbD i = decide (pos ≤ i ∧ i < pos + len))
    (field : ∀ i < 64, put.getLsbD i = (decide (pos ≤ i ∧ i < pos + len) && v.testBit (i - pos))) :
    (old &&& ~~~m) ||| put = BitVec.ofNat 64
      (old.toNat % 2 ^ pos + v % 2 ^ len * 2 ^ pos + old.toNat / 2 ^ (pos + len) * 2 ^ (pos + len)) := by
  refine BitVec.eq_of_getLsbD_eq fun i lt => ?_
  rw [BitVec.getLsbD_or, BitVec.getLsbD_and, BitVec.getLsbD_not, mask i lt, field i lt, BitVec.getLsbD_ofNat, testBit_insert,
    BitVec.testBit_toNat]
  by_cases inside : pos ≤ i ∧ i < pos + len
  · simp [inside, lt]
  · simp [inside, lt]

theorem getLsbD_binsMask (pos len i : Nat) (lt : i < 64) :
    (BitVec.ofNat 64 ((2 ^ len - 1) * 2 ^ pos)).getLsbD i = decide (pos ≤ i ∧ i < pos + len) := by
  rw [BitVec.getLsbD_ofNat, Nat.testBit_mul_two_pow, Nat.testBit_two_pow_sub_one]
  by_cases above : pos ≤ i
  · simp [lt, above, Nat.sub_lt_iff_lt_add' above]
  · simp [above]

theorem binsWord_eq (old x y : Word) : binsWord old x y = BitVec.ofNat 64 (old.toNat % 2 ^ fieldPos y +
    x.toNat % 2 ^ fieldLen y * 2 ^ fieldPos y +
    old.toNat / 2 ^ (fieldPos y + fieldLen y) * 2 ^ (fieldPos y + fieldLen y)) := by
  refine insert_eq (getLsbD_binsMask _ _) fun i lt => ?_
  rw [BitVec.getLsbD_and, getLsbD_binsMask _ _ i lt, BitVec.getLsbD_shiftLeft, BitVec.testBit_toNat]
  by_cases above : fieldPos y ≤ i
  · simp [lt, above, not_lt.mpr above, Bool.and_comm]
  · simp [above]

theorem lik_eq (old : Word) (sh : BitVec 2) (imm : BitVec 16) :
    (old &&& ~~~((0xFFFF : Word) <<< (16 * sh.toNat))) ||| (imm.setWidth 64 <<< (16 * sh.toNat)) =
      BitVec.ofNat 64 (old.toNat % 2 ^ (16 * sh.toNat) + imm.toNat * 2 ^ (16 * sh.toNat) +
        old.toNat / 2 ^ (16 * sh.toNat + 16) * 2 ^ (16 * sh.toNat + 16)) := by
  rw [← Nat.mod_eq_of_lt imm.isLt]
  refine insert_eq (fun i lt => ?_) fun i lt => ?_
  · have ones : (0xFFFF : Word) = BitVec.ofNat 64 (2 ^ 16 - 1) := rfl
    rw [BitVec.getLsbD_shiftLeft, ones, BitVec.getLsbD_ofNat, Nat.testBit_two_pow_sub_one]
    by_cases above : 16 * sh.toNat ≤ i
    · have within : i < 16 * sh.toNat + 16 → i < 16 * sh.toNat + 64 := by omega
      simpa [lt, above, not_lt.mpr above, Nat.sub_lt_iff_lt_add' above] using within
    · simp [above]
  · rw [BitVec.getLsbD_shiftLeft, BitVec.getLsbD_setWidth, BitVec.testBit_toNat]
    by_cases inside : 16 * sh.toNat ≤ i ∧ i < 16 * sh.toNat + 16
    · simp [lt, inside, not_lt.mpr inside.1, show i - 16 * sh.toNat < 64 by omega]
    · by_cases above : 16 * sh.toNat ≤ i
      · simp [inside, BitVec.getLsbD_of_ge imm (i - 16 * sh.toNat) (by omega)]
      · simp [above]

/-! ### The instructions of Tables 3.10 and 3.11 -/

theorem exec_integer {s : State} {i : Instr} {d : Reg} {v : Word} (named : aluValue s i = some (d, v)) :
    exec i s = s.writeX d v := by
  have amount (y : Word) : y.toNat % 64 < 64 := Nat.mod_lt _ (by decide)
  cases i with
  | add d a b => cases named; exact congrArg (s.writeX d) (add_eq _ _)
  | sub d a b => cases named; exact congrArg (s.writeX d) (sub_eq _ _)
  | mul d a b => cases named; exact congrArg (s.writeX d) (mul_eq _ _)
  | mulh d a b | mulhu d a b | bext d a b => cases named; rfl
  | and d a b => cases named; exact congrArg (s.writeX d) (and_eq _ _)
  | or d a b => cases named; exact congrArg (s.writeX d) (or_eq _ _)
  | xor d a b => cases named; exact congrArg (s.writeX d) (xor_eq _ _)
  | nor d a b => cases named; exact congrArg (s.writeX d) (nor_eq _ _)
  | sll d a b => cases named; exact congrArg (s.writeX d) (shiftLeft_eq _ _)
  | srl d a b => cases named; exact congrArg (s.writeX d) (ushiftRight_eq _ _)
  | sra d a b => cases named; exact congrArg (s.writeX d) (sshiftRight_eq _ _)
  | rol d a b => cases named; exact congrArg (s.writeX d) (rotateLeft_eq _ (amount _))
  | ror d a b => cases named; exact congrArg (s.writeX d) (rotateRight_eq _ (amount _))
  | slt d a b => cases named; exact congrArg (s.writeX d) (slt_eq _ _)
  | sltu d a b => cases named; exact congrArg (s.writeX d) (ult_eq _ _)
  | min d a b => cases named; exact congrArg (s.writeX d) (min_eq _ _)
  | max d a b => cases named; exact congrArg (s.writeX d) (max_eq _ _)
  | minu d a b => cases named; exact congrArg (s.writeX d) (minu_eq _ _)
  | maxu d a b => cases named; exact congrArg (s.writeX d) (maxu_eq _ _)
  | div d a b => cases named; exact congrArg (s.writeX d) (divS_eq _ _)
  | divu d a b => cases named; exact congrArg (s.writeX d) (divU_eq _ _)
  | rem d a b => cases named; exact congrArg (s.writeX d) (remS_eq _ _)
  | remu d a b => cases named; exact congrArg (s.writeX d) (remU_eq _ _)
  | clz d a =>
    cases named
    exact congrArg (fun n => s.writeX d (BitVec.ofNat 64 n)) (leadingZeros_eq (s.me.xr a).isLt)
  | ctz d a =>
    cases named
    exact congrArg (fun n => s.writeX d (BitVec.ofNat 64 n)) (trailingZeros_eq_range _ _)
  | popc d a =>
    cases named
    exact congrArg (fun n => s.writeX d (BitVec.ofNat 64 n)) (countOnes_eq _ _)
  | bins d a b => cases named; exact congrArg (s.writeX d) (binsWord_eq _ _ _)
  | addi d a imm => cases named; exact congrArg (s.writeX d) (add_signExtend _ _)
  | andi d a imm => cases named; exact congrArg (s.writeX d) (and_setWidth_eq _ _)
  | ori d a imm => cases named; exact congrArg (s.writeX d) (or_setWidth_eq _ _)
  | xori d a imm => cases named; exact congrArg (s.writeX d) (xor_setWidth_eq _ _)
  | slti d a imm => cases named; exact congrArg (s.writeX d) (slt_imm_eq _ _)
  | sltiu d a imm => cases named; exact congrArg (s.writeX d) (ult_eq _ _)
  | slli d a n => cases named; exact congrArg (s.writeX d) (shiftLeft_eq _ _)
  | srli d a n => cases named; exact congrArg (s.writeX d) (ushiftRight_eq _ _)
  | srai d a n => cases named; exact congrArg (s.writeX d) (sshiftRight_eq _ _)
  | rori d a n => cases named; exact congrArg (s.writeX d) (rotateRight_eq _ n.isLt)
  | li d sh imm => cases named; exact congrArg (s.writeX d) (shiftLeft_setWidth_eq _ _)
  | lik d sh imm => cases named; exact congrArg (s.writeX d) (lik_eq _ _ _)
  | addpc d off => cases named; exact congrArg (s.writeX d) (add_upper_eq _ _)
  | _ => cases named

/-! ### The registers that a result changes (R41, R61) -/

theorem setX_eq (h : Hart) (d : Reg) (v : Word) : h.setX d v = { h with x := (h.setX d v).x } := by
  have put (g : Hart) (r : Reg) : g.putX r v = { g with x := (g.putX r v).x } := by
    unfold Hart.putX
    split <;> rfl
  unfold Hart.setX
  split
  · rw [put, put h d]
  · exact put h d

theorem setX_discarded {h : Hart} (alone : h.copyReg = none) (v : Word) : h.setX 0 v = h := by
  unfold Hart.setX
  rw [alone]
  rfl

end Sys2Proof.Proofs.Integer

namespace Sys2Proof.Proofs
open Sys2Proof Sys2Proof.Machine Sys2Proof.Laws Integer

/-- Settles O13: each integer instruction writes the result of its table and completes, which touches its hart alone. -/
theorem integerResults : Obligations.IntegerResults := by
  refine ⟨fun s i d v named => exec_integer named,
    fun h d r v => ⟨rfl, fun named => ?_, fun d2 copy named => ?_, fun other uncopied => ?_, ?_⟩, fun s t i d v named next => ?_⟩
  · rw [xr_setX, if_pos ⟨named, .inl rfl⟩]
  · rw [xr_setX, if_pos ⟨named, .inr copy⟩]
  · rw [xr_setX, if_neg fun ⟨_, written⟩ => written.elim other uncopied]
  · rintro rfl alone
    exact setX_discarded alone v
  · rw [exec_integer named] at next
    obtain ⟨only, me, memory, queues, others, -⟩ := finish_frame s t _ next
    refine ⟨fun r other uncopied => ?_, ?_, only, memory, queues, others⟩
    · have same : t.me.xr r = (s.me.setX d v).xr r := by rw [me, Hart.xr, advance_x, Hart.xr]
      rw [same, xr_setX, if_neg fun ⟨_, written⟩ => written.elim other uncopied]
    · rw [me, advance_x, ← setX_eq]
      exact sameButPc_advance _

end Sys2Proof.Proofs
end
section
/-! PROOF. Floating values as exact numbers (R89, R162): the sign and magnitude of a value, the mantissa and exponent that a
pattern of a format holds, and the rounding of a number that a format represents. -/

namespace Sys2Proof.Proofs.Exact
open Sys2Proof Sys2Proof.Machine

/-! ### Dyadic numbers -/

theorem dyadic_mul_two_pow (m k : Nat) (e : Int) : dyadic (m * 2 ^ k) e = dyadic m (e + k) := by
  rw [dyadic, dyadic, zpow_add₀ two_ne_zero, zpow_natCast]
  push_cast
  ring

theorem dyadic_nonneg (m : Nat) (e : Int) : 0 ≤ dyadic m e := mul_nonneg m.cast_nonneg (zpow_nonneg zero_le_two e)

@[simp] theorem dyadic_eq_zero {m : Nat} {e : Int} : dyadic m e = 0 ↔ m = 0 := by
  simp [dyadic, zpow_ne_zero]

theorem dyadic_mul (m n : Nat) (e f : Int) : dyadic m e * dyadic n f = dyadic (m * n) (e + f) := by
  rw [dyadic, dyadic, dyadic, zpow_add₀ two_ne_zero]
  push_cast
  ring

theorem dyadic_le_iff {m n : Nat} {e : Int} : dyadic m e ≤ dyadic n e ↔ m ≤ n := by
  rw [dyadic, dyadic, mul_le_mul_iff_of_pos_right (zpow_pos two_pos e), Nat.cast_le]

/-! ### The number of a value -/

theorem exact_num (neg : Bool) (m : Nat) (e : Int) :
    (Val.num neg m e).exact = if neg then -dyadic m e else dyadic m e := rfl

theorem abs_exact_num (neg : Bool) (m : Nat) (e : Int) : |(Val.num neg m e).exact| = dyadic m e := by
  cases neg
  · exact abs_of_nonneg (dyadic_nonneg m e)
  · exact (abs_neg _).trans (abs_of_nonneg (dyadic_nonneg m e))

@[simp] theorem exact_num_eq_zero {neg : Bool} {m : Nat} {e : Int} : (Val.num neg m e).exact = 0 ↔ m = 0 := by
  rw [← abs_eq_zero, abs_exact_num, dyadic_eq_zero]

/-- The sign of a number that is not 0 is the sign of its value. -/
theorem neg_iff_exact_lt_zero {neg : Bool} {m : Nat} {e : Int} (nonzero : (Val.num neg m e).exact ≠ 0) :
    neg = true ↔ (Val.num neg m e).exact < 0 := by
  have pos : 0 < dyadic m e := lt_of_le_of_ne (dyadic_nonneg m e) fun zero => nonzero (by
    rw [exact_num, ← zero]
    cases neg <;> simp)
  cases neg
  · simpa [exact_num] using pos.le
  · simpa [exact_num] using pos

@[simp] theorem exact_negate (v : Val) : v.negate.exact = -v.exact := by
  cases v with
  | nan s => simp [Val.negate, Val.exact]
  | inf n => simp [Val.negate, Val.exact]
  | num n m e => cases n <;> simp [Val.negate, exact_num]

/-! ### The fields of a pattern -/

/-- The formats of the FPU and of VFP: a sign, an exponent and a fraction, with infinities and NaNs at the top exponent. -/
structure Ieee (f : Fmt) : Prop where
  special : f.special = .ieee
  width : f.width = f.exp + f.frac + 1
  exp : 0 < f.exp

theorem ieee_of_mem {f : Fmt} (listed : f ∈ [Fmt.bf16, Fmt.fp16, Fmt.fp32, Fmt.fp64]) : Ieee f := by
  simp only [List.mem_cons, List.not_mem_nil, or_false] at listed
  rcases listed with rfl | rfl | rfl | rfl
  all_goals exact ⟨rfl, rfl, by decide⟩

theorem ieee_prec (p : Prec) : Ieee (precFmt p) := ieee_of_mem (by cases p <;> decide)

/-- The exponent field of a pattern. -/
def expField (f : Fmt) (u : Nat) : Nat := u / 2 ^ f.frac % 2 ^ f.exp
/-- The fraction field of a pattern. -/
def fracField (f : Fmt) (u : Nat) : Nat := u % 2 ^ f.frac
/-- The sign of a pattern. -/
def signField (f : Fmt) (u : Nat) : Bool := u / 2 ^ (f.width - 1) % 2 == 1

/-- The value of a pattern by its fields. -/
theorem decode_eq {f : Fmt} (ieee : Ieee f) (u : Nat) : f.decode u =
    if expField f u = 2 ^ f.exp - 1 then
      if fracField f u = 0 then .inf (signField f u) else .nan (fracField f u < 2 ^ (f.frac - 1))
    else if expField f u = 0 then .num (signField f u) (fracField f u) (f.emin - f.frac)
    else .num (signField f u) (2 ^ f.frac + fracField f u) (expField f u - f.bias - f.frac) := by
  unfold Fmt.decode
  rw [ieee.special]
  rfl

theorem fracField_lt (f : Fmt) (u : Nat) : fracField f u < 2 ^ f.frac := Nat.mod_lt _ (by positivity)
theorem expField_lt (f : Fmt) (u : Nat) : expField f u < 2 ^ f.exp := Nat.mod_lt _ (by positivity)

/-- A pattern is its sign and its magnitude, and the magnitude is the exponent field over the fraction field. -/
theorem eq_signed_fields {f : Fmt} (ieee : Ieee f) {u : Nat} (lt : u < 2 ^ f.width) :
    u = f.signed (signField f u) (expField f u * 2 ^ f.frac + fracField f u) := by
  have width : 2 ^ f.width = 2 ^ (f.exp + f.frac) * 2 := by rw [ieee.width, Nat.pow_succ]
  have magnitude : u % 2 ^ (f.exp + f.frac) = expField f u * 2 ^ f.frac + fracField f u := by
    rw [Nat.add_comm f.exp, Nat.pow_add, Nat.mod_mul, expField, fracField]
    ring
  have top : u / 2 ^ (f.exp + f.frac) < 2 := Nat.div_lt_of_lt_mul (width ▸ lt)
  have split := Nat.div_add_mod u (2 ^ (f.exp + f.frac))
  have sign : signField f u = (u / 2 ^ (f.exp + f.frac) % 2 == 1) := by rw [signField, ieee.width, Nat.add_sub_cancel]
  rw [← magnitude, Fmt.signed, ieee.width, Nat.add_sub_cancel, sign]
  interval_cases high : u / 2 ^ (f.exp + f.frac)
  · simpa using split.symm
  · simpa using split.symm

/-- The fields of a pattern built from them. -/
theorem fields_signed {f : Fmt} (ieee : Ieee f) (neg : Bool) {e m : Nat} (elt : e < 2 ^ f.exp) (mlt : m < 2 ^ f.frac) :
    signField f (f.signed neg (e * 2 ^ f.frac + m)) = neg ∧ expField f (f.signed neg (e * 2 ^ f.frac + m)) = e ∧
      fracField f (f.signed neg (e * 2 ^ f.frac + m)) = m := by
  have pos : 0 < 2 ^ f.frac := by positivity
  have pack : f.signed neg (e * 2 ^ f.frac + m) = ((if neg then 2 ^ f.exp else 0) + e) * 2 ^ f.frac + m := by
    rw [Fmt.signed, ieee.width, Nat.add_sub_cancel, Nat.pow_add]
    cases neg
    · simp
    · simp only [if_true]
      ring
  have high : f.signed neg (e * 2 ^ f.frac + m) / 2 ^ f.frac = (if neg then 2 ^ f.exp else 0) + e := by
    rw [pack, Nat.add_comm, Nat.add_mul_div_right _ _ pos, Nat.div_eq_of_lt mlt, Nat.zero_add]
  refine ⟨?_, ?_, ?_⟩
  · rw [signField, ieee.width, Nat.add_sub_cancel, Nat.add_comm f.exp, Nat.pow_add, ← Nat.div_div_eq_div_mul, high]
    cases neg
    · simp [Nat.div_eq_of_lt elt]
    · simp [Nat.add_div_left _ (Nat.two_pow_pos f.exp), Nat.div_eq_of_lt elt]
  · rw [expField, high]
    cases neg
    · simpa using Nat.mod_eq_of_lt elt
    · simpa using Nat.mod_eq_of_lt elt
  · rw [fracField, pack, Nat.mul_add_mod_self_right, Nat.mod_eq_of_lt mlt]

/-! ### Numbers that a format represents -/

/-- The mantissa and exponent of a number as a pattern of the format holds them: normal, or at the least exponent. -/
structure Fits (f : Fmt) (m : Nat) (e : Int) : Prop where
  bits : m < 2 ^ (f.frac + 1)
  least : f.emin - f.frac ≤ e
  normal : 2 ^ f.frac ≤ m ∨ e = f.emin - f.frac

/-- The magnitude pattern of a mantissa and an exponent. -/
def pack (f : Fmt) (m : Nat) (e : Int) : Nat := (e - (f.emin - f.frac)).toNat * 2 ^ f.frac + m

/-- A mantissa of 0 fits at the least exponent only. -/
theorem Fits.exp_of_zero {f : Fmt} {e : Int} (fits : Fits f 0 e) : e = f.emin - f.frac :=
  fits.normal.resolve_left (by simp)

theorem pack_zero {f : Fmt} {e : Int} (fits : Fits f 0 e) : pack f 0 e = 0 := by
  simp [pack, fits.exp_of_zero]

/-- The finite value of a pattern fits its format, and packs into the magnitude of the pattern. -/
theorem fits_decode {f : Fmt} (ieee : Ieee f) {u : Nat} {neg : Bool} {m : Nat} {e : Int}
    (finite : f.decode u = .num neg m e) :
    neg = signField f u ∧ Fits f m e ∧ pack f m e = expField f u * 2 ^ f.frac + fracField f u ∧ pack f m e ≤ f.maxPat ∧
      (2 ^ f.frac ≤ m ↔ expField f u ≠ 0) := by
  have lt := fracField_lt f u
  have top := expField_lt f u
  have half : 2 ^ (f.frac + 1) = 2 ^ f.frac * 2 := Nat.pow_succ 2 f.frac
  have emin : f.emin = 1 - f.bias := rfl
  have max : f.maxPat = (2 ^ f.exp - 1) * 2 ^ f.frac - 1 := by rw [Fmt.maxPat, ieee.special]
  rw [decode_eq ieee] at finite
  split at finite
  · split at finite <;> cases finite
  · next inner =>
    have below : expField f u * 2 ^ f.frac + fracField f u ≤ f.maxPat := by
      have step : (expField f u + 1) * 2 ^ f.frac ≤ (2 ^ f.exp - 1) * 2 ^ f.frac := Nat.mul_le_mul_right _ (by omega)
      rw [Nat.add_mul, Nat.one_mul] at step
      omega
    split at finite
    · next zero =>
      cases finite
      have packed : pack f (fracField f u) (f.emin - f.frac) = expField f u * 2 ^ f.frac + fracField f u := by
        simp [pack, zero]
      exact ⟨rfl, ⟨by omega, le_rfl, .inr rfl⟩, packed, packed ▸ below, by omega⟩
    · next nonzero =>
      cases finite
      have packed : pack f (2 ^ f.frac + fracField f u) (expField f u - f.bias - f.frac) =
          expField f u * 2 ^ f.frac + fracField f u := by
        obtain ⟨t, field⟩ := Nat.exists_eq_succ_of_ne_zero nonzero
        have shift : ((t + 1 : Nat) - f.bias - f.frac - (f.emin - f.frac) : Int).toNat = t := by
          rw [emin]
          push_cast
          omega
        rw [pack, field, Nat.succ_eq_add_one, shift]
        ring
      exact ⟨rfl, ⟨by omega, by omega, .inl (by omega)⟩, packed, packed ▸ below, by omega⟩

/-- The value of the pattern that a mantissa and an exponent pack into. -/
theorem decode_signed_pack {f : Fmt} (ieee : Ieee f) (neg : Bool) {m : Nat} {e : Int} (fits : Fits f m e)
    (below : pack f m e ≤ f.maxPat) : f.decode (f.signed neg (pack f m e)) = .num neg m e := by
  have pos : 0 < 2 ^ f.frac := by positivity
  have half : 2 ^ (f.frac + 1) = 2 ^ f.frac * 2 := Nat.pow_succ 2 f.frac
  have emin : f.emin = 1 - f.bias := rfl
  have max : f.maxPat = (2 ^ f.exp - 1) * 2 ^ f.frac - 1 := by rw [Fmt.maxPat, ieee.special]
  have some : 2 ≤ 2 ^ f.exp := by
    calc 2 = 2 ^ 1 := rfl
      _ ≤ 2 ^ f.exp := Nat.pow_le_pow_right (by decide) ieee.exp
  have inner {t x : Nat} (packed : pack f m e = t * 2 ^ f.frac + x) : t < 2 ^ f.exp - 1 := by
    by_contra past
    have step : (2 ^ f.exp - 1) * 2 ^ f.frac ≤ t * 2 ^ f.frac := Nat.mul_le_mul_right _ (by omega)
    have top : 1 * 2 ^ f.frac ≤ (2 ^ f.exp - 1) * 2 ^ f.frac := Nat.mul_le_mul_right _ (by omega)
    omega
  obtain ⟨bits, least, normal⟩ := fits
  by_cases small : m < 2 ^ f.frac
  · have exponent : e = f.emin - f.frac := normal.resolve_left (by omega)
    have packed : pack f m e = 0 * 2 ^ f.frac + m := by simp [pack, exponent]
    obtain ⟨sign, field, fraction⟩ := fields_signed ieee neg (e := 0) (by positivity) small
    rw [packed, decode_eq ieee, sign, field, fraction, if_neg (by omega), if_pos rfl, exponent]
  · obtain ⟨x, rfl⟩ := Nat.exists_eq_add_of_le (not_lt.mp small)
    have xlt : x < 2 ^ f.frac := by omega
    have packed : pack f (2 ^ f.frac + x) e = ((e - (f.emin - f.frac)).toNat + 1) * 2 ^ f.frac + x := by
      rw [pack]
      ring
    have lt := inner packed
    obtain ⟨sign, field, fraction⟩ := fields_signed ieee neg (e := (e - (f.emin - f.frac)).toNat + 1) (by omega) xlt
    have exponent : (((e - (f.emin - f.frac)).toNat + 1 : Nat) : Int) - f.bias - f.frac = e := by omega
    rw [packed, decode_eq ieee, sign, field, fraction, if_neg (by omega), if_neg (by omega), exponent]

/-- Two numbers that fit a format and have one magnitude are one mantissa and one exponent. -/
theorem Fits.eq_of_dyadic_eq {f : Fmt} {m n : Nat} {e g : Int} (left : Fits f m e) (right : Fits f n g)
    (same : dyadic m e = dyadic n g) : m = n ∧ e = g := by
  wlog le : e ≤ g generalizing m n e g
  · obtain ⟨a, b⟩ := this right left same.symm (by omega)
    exact ⟨a.symm, b.symm⟩
  obtain ⟨k, rfl⟩ := Int.le.dest le
  have scaled : m = n * 2 ^ k := by
    rw [← dyadic_mul_two_pow] at same
    exact le_antisymm (dyadic_le_iff.mp same.le) (dyadic_le_iff.mp same.ge)
  have bits := left.bits
  have least := left.least
  cases k with
  | zero => exact ⟨by simpa using scaled, by simp⟩
  | succ k =>
    rcases right.normal with normal | low
    · have double : 2 ^ f.frac * 2 ≤ n * 2 ^ (k + 1) :=
        Nat.mul_le_mul normal (by rw [Nat.pow_succ]; exact Nat.le_mul_of_pos_left 2 (by positivity))
      rw [← Nat.pow_succ] at double
      omega
    · omega

/-! ### Rounding a number that a format represents (R89) -/

theorem roundInt_of_nonneg (r : Rnd) (neg : Bool) (m : Nat) (k : Nat) (sticky : Bool) :
    roundInt r neg m k sticky = (m * 2 ^ k, sticky) := by
  rw [roundInt, if_pos (by omega), Int.toNat_natCast]

/-- A number that fits the format, however its mantissa is written, rounds to its own pattern with no exception. -/
theorem roundMag_fits {f : Fmt} (r : Rnd) (neg : Bool) {m k : Nat} {e : Int} (nonzero : m ≠ 0)
    (fits : Fits f (m * 2 ^ k) (e - k)) (below : pack f (m * 2 ^ k) (e - k) ≤ f.maxPat) :
    f.roundMag r neg m e false = { pat := f.signed neg (pack f (m * 2 ^ k) (e - k)), exc := .none, counted := false } := by
  have low : 2 ^ (Nat.log2 m + k) < 2 ^ (f.frac + 1) := by
    rw [Nat.pow_add]
    exact (Nat.mul_le_mul_right _ (Nat.log2_self_le nonzero)).trans_lt fits.bits
  have high : m * 2 ^ k < 2 ^ (Nat.log2 m + 1 + k) := by
    rw [Nat.pow_add]
    exact Nat.mul_lt_mul_of_pos_right Nat.lt_log2_self (by positivity)
  have log : Nat.log2 m + k ≤ f.frac := by
    have := (Nat.pow_lt_pow_iff_right (by decide)).mp low
    omega
  have exponent : max (expOf m e - f.frac) (f.emin - f.frac) = e - k := by
    have least := fits.least
    rcases fits.normal with normal | subnormal
    · have := (Nat.pow_lt_pow_iff_right (by decide)).mp (normal.trans_lt high)
      rw [expOf]
      omega
    · rw [expOf]
      omega
  unfold Fmt.roundMag
  simp only [exponent, sub_sub_cancel, roundInt_of_nonneg]
  exact if_neg (not_lt.mpr below)

/-- The value of a pattern rounds to the pattern. -/
theorem roundVal_decode {f : Fmt} (ieee : Ieee f) (r : Rnd) {u : Nat} (lt : u < 2 ^ f.width)
    (number : (f.decode u).isNan = false) : f.roundVal r (f.decode u) = { pat := u, exc := .none, counted := false } := by
  have fields := eq_signed_fields ieee lt
  cases value : f.decode u with
  | nan sig => simp [value, Val.isNan] at number
  | inf neg =>
    have inf : f.infPat = some ((2 ^ f.exp - 1) * 2 ^ f.frac) := by rw [Fmt.infPat, ieee.special]
    rw [decode_eq ieee] at value
    split at value
    · next top =>
      split at value
      · next zero =>
        cases value
        rw [top, zero] at fields
        simp only [Fmt.roundVal, inf]
        exact congrArg (fun p => Rounded.mk p Exc.none false) fields.symm
      · cases value
    · split at value <;> cases value
  | num neg m e =>
    obtain ⟨rfl, fits, packed, below, -⟩ := fits_decode ieee value
    rw [← packed] at fields
    by_cases zero : m = 0
    · subst zero
      rw [pack_zero fits] at fields
      exact congrArg (fun p => Rounded.mk p Exc.none false) fields.symm
    · have exact := roundMag_fits (k := 0) r (signField f u) (m := m) (e := e) zero (by simpa using fits) (by simpa using below)
      obtain ⟨n, rfl⟩ := Nat.exists_eq_succ_of_ne_zero zero
      refine exact.trans ?_
      simp only [Nat.pow_zero, Nat.mul_one, Nat.cast_zero, sub_zero, ← fields]

end Sys2Proof.Proofs.Exact
end
section
/-! PROOF. Floating arithmetic (R89, R163, Table 3.12): each operation computes its exact result, or its bits and a tail, and
rounds once. -/

namespace Sys2Proof.Proofs.Arithmetic
open Sys2Proof Sys2Proof.Machine Exact

/-! ### Exceptions -/

@[simp] theorem or_none (e : Exc) : e.or .none = e := by
  cases e
  simp [Exc.or, Exc.none]

/-! ### Exact sums and products -/

theorem exact_int (x lo : Int) : (Val.num (x < 0) x.natAbs lo).exact = x * 2 ^ lo := by
  have magnitude : ((x.natAbs : Nat) : ℚ) = |(x : ℚ)| := by rw [Nat.cast_natAbs, Int.cast_abs]
  rw [exact_num, dyadic, magnitude]
  by_cases negative : x < 0
  · have : (x : ℚ) < 0 := by exact_mod_cast negative
    simp [negative, abs_of_neg this]
  · have : (0 : ℚ) ≤ x := by exact_mod_cast not_lt.mp negative
    simp [negative, abs_of_nonneg this]

/-- A mantissa aligned to a lower exponent stands for the same number. -/
theorem alignTo_exact (neg : Bool) (m : Nat) {e lo : Int} (le : lo ≤ e) :
    (alignTo neg m e lo : ℚ) * 2 ^ lo = (Val.num neg m e).exact := by
  obtain ⟨k, rfl⟩ := Int.le.dest le
  rw [exact_num, ← dyadic_mul_two_pow, dyadic, alignTo, add_sub_cancel_left, Int.toNat_natCast]
  cases neg
  · simp
  · simp

/-- The sum of two numbers: a zero with the sign of R89 when it is 0, and otherwise the sum itself. -/
theorem addVal_num (r : Rnd) {x y : Val} {n k : Bool} {m l : Nat} {e f : Int} (left : x = .num n m e)
    (right : y = .num k l f) :
    (x.exact + y.exact = 0 → addVal r x y = (.zero (if x.neg = y.neg then x.neg else r == .rdn), .none)) ∧
    (x.exact + y.exact ≠ 0 → ∃ neg p q, addVal r x y = (.num neg p q, .none) ∧
      (Val.num neg p q).exact = x.exact + y.exact) := by
  subst left right
  have sum : ((alignTo n m e (min e f) + alignTo k l f (min e f) : Int) : ℚ) * 2 ^ min e f =
      (Val.num n m e).exact + (Val.num k l f).exact := by
    rw [Int.cast_add, add_mul, alignTo_exact n m (min_le_left e f), alignTo_exact k l (min_le_right e f)]
  have power : (2 : ℚ) ^ min e f ≠ 0 := zpow_ne_zero _ two_ne_zero
  have zero : alignTo n m e (min e f) + alignTo k l f (min e f) = 0 ↔
      (Val.num n m e).exact + (Val.num k l f).exact = 0 := by
    rw [← sum, mul_eq_zero, or_iff_left power, Int.cast_eq_zero]
  refine ⟨fun cancels => ?_, fun stands => ⟨_, _, _, ?_, (exact_int _ _).trans sum⟩⟩
  · exact if_pos (zero.mpr cancels)
  · exact if_neg (fun cancels => stands (zero.mp cancels))

theorem exact_product (n k : Bool) (m l : Nat) (e f : Int) :
    (Val.num (n != k) (m * l) (e + f)).exact = (Val.num n m e).exact * (Val.num k l f).exact := by
  rw [exact_num, exact_num, exact_num, ← dyadic_mul]
  cases n <;> cases k <;> simp

/-! ### Results rounded once -/

/-- A result is a number rounded once. -/
def RoundedOnce (f : Fmt) (r : Rnd) (o : Nat × Exc) (q : ℝ) : Prop :=
  ∃ (neg : Bool) (m : Nat) (e : Int) (tail : Bool), (neg = true ↔ q < 0) ∧ f.given m e tail |q| ∧
    o = ((f.roundVal r (.num neg m e) tail).pat, (f.roundVal r (.num neg m e) tail).exc)

theorem roundedOnce_num {f : Fmt} {r : Rnd} {neg : Bool} {m : Nat} {e : Int} {q : ℚ} (value : (Val.num neg m e).exact = q)
    (nonzero : q ≠ 0) : RoundedOnce f r ((f.roundVal r (.num neg m e)).pat, (f.roundVal r (.num neg m e)).exc) q := by
  subst value
  refine ⟨neg, m, e, false, ?_, ?_, rfl⟩
  · rw [neg_iff_exact_lt_zero nonzero, Rat.cast_lt_zero]
  · rw [Fmt.given, if_neg (by simp), ← Rat.cast_abs, abs_exact_num]
    exact ⟨rfl, fun zero => nonzero (exact_num_eq_zero.mpr zero)⟩

/-- A magnitude whose whole part holds bits enough is given by that part, with a tail unless it is whole. -/
theorem given_floor {f : Fmt} {x y : ℝ} {m : Nat} {e : Int} {tail : Bool} (scaled : x = y * 2 ^ e) (low : (m : ℝ) ≤ y)
    (high : y < m + 1) (whole : tail = false ↔ (m : ℝ) = y) (bits : 2 ^ (f.frac + 2) ≤ m) : f.given m e tail x := by
  have power : (0 : ℝ) < 2 ^ e := zpow_pos two_pos e
  have cast (n : Nat) : ((dyadic n e : ℚ) : ℝ) = n * 2 ^ e := by push_cast [dyadic]; rfl
  unfold Fmt.given
  rw [cast, cast, scaled]
  cases tail with
  | false =>
    rw [if_neg (by simp), whole.mp rfl]
    exact ⟨rfl, fun zero => by simp [zero] at bits⟩
  | true =>
    have above : (m : ℝ) < y := lt_of_le_of_ne low fun same => nomatch whole.mpr same
    rw [if_pos rfl]
    refine ⟨mul_lt_mul_of_pos_right above power, mul_lt_mul_of_pos_right ?_ power, bits⟩
    exact_mod_cast high

/-! ### Quotients -/

/-- The bits of a quotient that `divVal` computes. -/
theorem divVal_num (bits : Nat) (n k : Bool) {m l : Nat} (e f : Int) (left : m ≠ 0) (right : l ≠ 0) :
    divVal bits (.num n m e) (.num k l f) =
      (⟨.num (n != k) (m * 2 ^ (bits + Nat.log2 l + 1) / l) (e - f - (bits + Nat.log2 l + 1 : Nat)),
        m * 2 ^ (bits + Nat.log2 l + 1) % l != 0⟩, .none) := by
  simp only [divVal, if_neg left, if_neg right]

theorem given_quotient (f : Fmt) {m l : Nat} (e g : Int) (left : m ≠ 0) (right : l ≠ 0) {sh : Nat}
    (enough : sh = f.frac + 4 + Nat.log2 l + 1) :
    f.given (m * 2 ^ sh / l) (e - g - sh) (m * 2 ^ sh % l != 0) ((dyadic m e / dyadic l g : ℚ) : ℝ) := by
  have divisor : (l : ℝ) ≠ 0 := Nat.cast_ne_zero.mpr right
  have floor : ((m * 2 ^ sh / l : Nat) : ℝ) = ⌊((m * 2 ^ sh : Nat) : ℝ) / l⌋₊ := by rw [Nat.floor_div_eq_div]
  refine given_floor (y := ((m * 2 ^ sh : Nat) : ℝ) / l) ?_ ?_ ?_ ?_ ?_
  · have two : (2 : ℝ) ≠ 0 := two_ne_zero
    push_cast [dyadic]
    rw [zpow_sub₀ two, zpow_sub₀ two, zpow_natCast]
    field_simp
  · rw [floor]
    exact Nat.floor_le (by positivity)
  · rw [floor]
    exact Nat.lt_floor_add_one _
  · rw [bne_eq_false_iff_eq, ← Nat.dvd_iff_mod_eq_zero, Nat.dvd_iff_div_mul_eq, eq_div_iff divisor]
    exact_mod_cast Iff.rfl
  · rw [Nat.le_div_iff_mul_le (Nat.pos_of_ne_zero right)]
    calc 2 ^ (f.frac + 2) * l ≤ 2 ^ (f.frac + 4) * 2 ^ (Nat.log2 l + 1) :=
          Nat.mul_le_mul (Nat.pow_le_pow_right (by decide) (by omega)) Nat.lt_log2_self.le
      _ = 2 ^ sh := by rw [enough, ← Nat.pow_add, Nat.add_assoc (f.frac + 4)]
      _ ≤ m * 2 ^ sh := Nat.le_mul_of_pos_left _ (Nat.pos_of_ne_zero left)

/-! ### Square roots -/

/-- The search keeps a number whose square is at most n, and n below the square of that number and the bits to come. -/
theorem isqrtGo_bounds {n k r : Nat} (low : r * r ≤ n) (high : n < (r + 2 ^ k) * (r + 2 ^ k)) :
    isqrtGo n k r * isqrtGo n k r ≤ n ∧ n < (isqrtGo n k r + 1) * (isqrtGo n k r + 1) := by
  induction k generalizing r with
  | zero => exact ⟨low, high⟩
  | succ k ih =>
    have double : r + 2 ^ (k + 1) = r + 2 ^ k + 2 ^ k := by rw [Nat.pow_succ]; omega
    rw [double] at high
    unfold isqrtGo
    by_cases taken : (r + 2 ^ k) * (r + 2 ^ k) ≤ n
    · simp only [if_pos taken]
      exact ih taken high
    · simp only [if_neg taken]
      exact ih low (not_le.mp taken)

theorem isqrt_eq_sqrt (n : Nat) : isqrt n = Nat.sqrt n := by
  refine Nat.eq_sqrt.mpr (isqrtGo_bounds (by simp) ?_)
  rw [Nat.zero_add, ← Nat.pow_add]
  exact Nat.lt_log2_self.trans_le (Nat.pow_le_pow_right (by decide) (by omega))

theorem given_sqrt (f : Fmt) {m : Nat} (e : Int) (nonzero : m ≠ 0) {k : Nat} (even : (e - k) % 2 = 0)
    (enough : 2 * (f.frac + 4) ≤ k) : f.given (isqrt (m * 2 ^ k)) ((e - k) / 2)
      (isqrt (m * 2 ^ k) * isqrt (m * 2 ^ k) != m * 2 ^ k) (Real.sqrt ((dyadic m e : ℚ) : ℝ)) := by
  rw [isqrt_eq_sqrt]
  refine given_floor (y := Real.sqrt (m * 2 ^ k : Nat)) ?_ Real.nat_sqrt_le_real_sqrt Real.real_sqrt_lt_nat_sqrt_succ ?_ ?_
  · have halves : e = k + ((e - k) / 2 + (e - k) / 2) := by omega
    have shape : ((dyadic m e : ℚ) : ℝ) = (m * 2 ^ k : Nat) * (2 ^ ((e - k) / 2) * 2 ^ ((e - k) / 2)) := by
      push_cast [dyadic]
      rw [← zpow_add₀ two_ne_zero, mul_assoc, ← zpow_natCast, ← zpow_add₀ two_ne_zero, ← halves]
    rw [shape, Real.sqrt_mul (Nat.cast_nonneg _), Real.sqrt_mul_self (zpow_nonneg zero_le_two _)]
  · rw [bne_eq_false_iff_eq, eq_comm (a := ((m * 2 ^ k).sqrt : ℝ)),
      Real.sqrt_eq_iff_mul_self_eq (Nat.cast_nonneg _) (Nat.cast_nonneg _)]
    exact_mod_cast eq_comm
  · rw [Nat.le_sqrt, ← Nat.pow_add]
    calc 2 ^ (f.frac + 2 + (f.frac + 2)) ≤ 2 ^ k := Nat.pow_le_pow_right (by decide) (by omega)
      _ ≤ m * 2 ^ k := Nat.le_mul_of_pos_left _ (Nat.pos_of_ne_zero nonzero)

/-! ### The operations -/

/-- A value rounded once, with exceptions of its own. -/
def rounded (f : Fmt) (r : Rnd) (v : Val) (tail : Bool) (e : Exc) : Nat × Exc :=
  ((f.roundVal r v tail).pat, e.or (f.roundVal r v tail).exc)

@[simp] theorem rounded_nan (f : Fmt) (r : Rnd) (s tail : Bool) (e : Exc) : rounded f r (.nan s) tail e = (f.nanPat, e) :=
  congrArg (Prod.mk f.nanPat) (or_none e)

@[simp] theorem rounded_zero (f : Fmt) (r : Rnd) (neg tail : Bool) (e : Exc) :
    rounded f r (.zero neg) tail e = (f.signed neg 0, e) := congrArg (Prod.mk (f.signed neg 0)) (or_none e)

section
variable (f : Fmt) (r : Rnd) (a b d : Nat)

theorem fpOp_add : fpOp f r .add a b d = rounded f r (addVal r (f.decode a) (f.decode b)).1 false
    (addVal r (f.decode a) (f.decode b)).2 := rfl
theorem fpOp_sub : fpOp f r .sub a b d = rounded f r (addVal r (f.decode a) (f.decode b).negate).1 false
    (addVal r (f.decode a) (f.decode b).negate).2 := rfl
theorem fpOp_mul : fpOp f r .mul a b d = rounded f r (mulVal (f.decode a) (f.decode b)).1 false
    (mulVal (f.decode a) (f.decode b)).2 := rfl
theorem fpOp_div : fpOp f r .div a b d =
    rounded f r (divVal (f.frac + 4) (f.decode a) (f.decode b)).1.val (divVal (f.frac + 4) (f.decode a) (f.decode b)).1.sticky
      (divVal (f.frac + 4) (f.decode a) (f.decode b)).2 := rfl
theorem fpOp_sqrt : fpOp f r .sqrt a b d =
    rounded f r (sqrtVal (f.frac + 4) (f.decode a)).1.val (sqrtVal (f.frac + 4) (f.decode a)).1.sticky
      (sqrtVal (f.frac + 4) (f.decode a)).2 := rfl
theorem fpOp_ffma : fpOp f r .ffma a b d =
    rounded f r (addVal r (mulVal (f.decode a) (f.decode b)).1 (f.decode d)).1 false
      ((mulVal (f.decode a) (f.decode b)).2.or (addVal r (mulVal (f.decode a) (f.decode b)).1 (f.decode d)).2) := rfl

end

/-! ### Operations on numbers -/

/-- The sign of an exact sum of 0 (R89). -/
def sumSign (r : Rnd) (m n : Bool) : Bool := if m = n then m else r == .rdn

theorem sum_rounded (f : Fmt) (r : Rnd) {x y : Val} {n k : Bool} {m l : Nat} {e g : Int} (left : x = .num n m e)
    (right : y = .num k l g) :
    (x.exact + y.exact = 0 → rounded f r (addVal r x y).1 false (addVal r x y).2 = (f.signed (sumSign r x.neg y.neg) 0, .none)) ∧
    (x.exact + y.exact ≠ 0 → RoundedOnce f r (rounded f r (addVal r x y).1 false (addVal r x y).2)
      ((x.exact + y.exact : ℚ) : ℝ)) := by
  obtain ⟨zero, stands⟩ := addVal_num r left right
  refine ⟨fun cancels => ?_, fun nonzero => ?_⟩
  · rw [zero cancels]
    exact rounded_zero f r _ false .none
  · obtain ⟨neg, p, q, sum, value⟩ := stands nonzero
    rw [sum]
    exact roundedOnce_num value nonzero

section
variable (f : Fmt) (r : Rnd) {a b : Nat} (d : Nat) {n k : Bool} {m l : Nat} {e g : Int}
  (left : f.decode a = .num n m e)
include left

theorem sqrt_rounded (b : Nat) :
    ((f.decode a).exact < 0 → fpOp f r .sqrt a b d = (f.nanPat, .invalid)) ∧
    ((f.decode a).exact = 0 → fpOp f r .sqrt a b d = (f.signed (f.decode a).neg 0, .none)) ∧
    (0 < (f.decode a).exact → RoundedOnce f r (fpOp f r .sqrt a b d) (Real.sqrt ((f.decode a).exact : ℚ))) := by
  rw [fpOp_sqrt, left]
  refine ⟨fun negative => ?_, fun zero => ?_, fun positive => ?_⟩
  · have nonzero : m ≠ 0 := fun zero => negative.ne (exact_num_eq_zero.mpr zero)
    have sign : n = true := (neg_iff_exact_lt_zero negative.ne).mpr negative
    simp only [sqrtVal, if_neg nonzero, if_pos sign, rounded_nan]
  · simp only [sqrtVal, if_pos (exact_num_eq_zero.mp zero), rounded_zero, Val.neg]
  · have nonzero : m ≠ 0 := fun zero => positive.ne' (exact_num_eq_zero.mpr zero)
    have sign : ¬ n = true := fun negative => positive.not_gt ((neg_iff_exact_lt_zero positive.ne').mp negative)
    have unsigned : n = false := by simpa using sign
    simp only [sqrtVal, if_neg nonzero, if_neg sign]
    refine ⟨false, _, _, _, ?_, ?_, rfl⟩
    · simp
    · rw [abs_of_nonneg (Real.sqrt_nonneg _), unsigned]
      refine given_sqrt f e nonzero ?_ (by omega)
      split <;> push_cast <;> omega

theorem fma_rounded (right : f.decode b = .num k l g) {i : Bool} {p : Nat} {h : Int} (addend : f.decode d = .num i p h) :
    ((f.decode a).exact * (f.decode b).exact + (f.decode d).exact ≠ 0 → RoundedOnce f r (fpOp f r .ffma a b d)
      (((f.decode a).exact * (f.decode b).exact + (f.decode d).exact : ℚ) : ℝ)) ∧
    ((f.decode a).exact * (f.decode b).exact + (f.decode d).exact = 0 → fpOp f r .ffma a b d =
      (f.signed (sumSign r ((f.decode a).neg != (f.decode b).neg) (f.decode d).neg) 0, .none)) := by
  have sum := sum_rounded f r (x := .num (n != k) (m * l) (e + g)) rfl addend
  rw [exact_product] at sum
  rw [fpOp_ffma, left, right]
  exact ⟨sum.2, sum.1⟩

theorem mul_rounded (right : f.decode b = .num k l g) :
    ((f.decode a).exact * (f.decode b).exact ≠ 0 → RoundedOnce f r (fpOp f r .mul a b d)
      (((f.decode a).exact * (f.decode b).exact : ℚ) : ℝ)) ∧
    ((f.decode a).exact * (f.decode b).exact = 0 → fpOp f r .mul a b d =
      (f.signed ((f.decode a).neg != (f.decode b).neg) 0, .none)) := by
  have product := exact_product n k m l e g
  rw [fpOp_mul, left, right]
  refine ⟨fun nonzero => roundedOnce_num product nonzero, fun zero => ?_⟩
  have none : m * l = 0 := exact_num_eq_zero.mp (product.trans zero)
  simp only [mulVal, none]
  rfl

theorem div_rounded (ieee : Ieee f) (right : f.decode b = .num k l g) :
    ((f.decode a).exact ≠ 0 → (f.decode b).exact ≠ 0 → RoundedOnce f r (fpOp f r .div a b d)
      (((f.decode a).exact / (f.decode b).exact : ℚ) : ℝ)) ∧
    ((f.decode a).exact = 0 → (f.decode b).exact ≠ 0 → fpOp f r .div a b d =
      (f.signed ((f.decode a).neg != (f.decode b).neg) 0, .none)) ∧
    ((f.decode a).exact = 0 → (f.decode b).exact = 0 → fpOp f r .div a b d = (f.nanPat, .invalid)) ∧
    ((f.decode a).exact ≠ 0 → (f.decode b).exact = 0 → ∃ inf, f.infPat = some inf ∧ fpOp f r .div a b d =
      (f.signed ((f.decode a).neg != (f.decode b).neg) inf, .divZero)) := by
  rw [fpOp_div, left, right]
  simp only [ne_eq, exact_num_eq_zero]
  refine ⟨fun dividend divisor => ?_, fun dividend divisor => ?_, fun dividend divisor => ?_, fun dividend divisor => ?_⟩
  · rw [divVal_num _ n k e g dividend divisor]
    refine ⟨n != k, _, _, _, ?_, ?_, rfl⟩
    · have quotient : (Val.num n m e).exact / (Val.num k l g).exact < 0 ↔
          (Val.num (n != k) (m * l) (e + g)).exact < 0 := by
        rw [exact_product, div_neg_iff, mul_neg_iff]
      rw [Rat.cast_lt_zero, quotient, neg_iff_exact_lt_zero]
      simp [dividend, divisor]
    · rw [← Rat.cast_abs, abs_div, abs_exact_num, abs_exact_num]
      exact given_quotient f e g dividend divisor rfl
  · simp only [divVal, if_neg divisor, if_pos dividend, rounded_zero, Val.neg]
  · simp only [divVal, if_pos divisor, if_pos dividend, rounded_nan]
  · have inf : f.infPat = some ((2 ^ f.exp - 1) * 2 ^ f.frac) := by rw [Fmt.infPat, ieee.special]
    refine ⟨_, inf, ?_⟩
    simp only [divVal, if_pos divisor, if_neg dividend, rounded, Fmt.roundVal, inf, or_none, Val.neg]

end

/-! ### Minimum and maximum (Table 3.12) -/

/-- The order of two numbers is the sign of their difference. -/
theorem cmpVal_num (n k : Bool) (m l : Nat) (e g : Int) :
    (cmpVal (.num n m e) (.num k l g) = 0 ↔ (Val.num n m e).exact = (Val.num k l g).exact) ∧
    (cmpVal (.num n m e) (.num k l g) < 0 ↔ (Val.num n m e).exact < (Val.num k l g).exact) := by
  have difference : ((alignTo n m e (min e g) - alignTo k l g (min e g) : Int) : ℚ) * 2 ^ min e g =
      (Val.num n m e).exact - (Val.num k l g).exact := by
    rw [Int.cast_sub, sub_mul, alignTo_exact n m (min_le_left e g), alignTo_exact k l (min_le_right e g)]
  have power : (0 : ℚ) < 2 ^ min e g := zpow_pos two_pos _
  constructor
  · show Int.sign _ = 0 ↔ _
    rw [Int.sign_eq_zero_iff_zero, ← sub_eq_zero (a := (Val.num n m e).exact), ← difference, mul_eq_zero,
      or_iff_left power.ne', Int.cast_eq_zero]
  · show Int.sign _ < 0 ↔ _
    rw [Int.sign_neg_iff, ← sub_neg (a := (Val.num n m e).exact), ← difference, mul_neg_iff,
      Int.cast_lt_zero]
    simp [power, power.not_gt]

/-- A value that is a pattern's own rounds to the pattern. -/
theorem rounded_decode {f : Fmt} (ieee : Ieee f) (r : Rnd) {u : Nat} (lt : u < 2 ^ f.width)
    (number : (f.decode u).isNan = false) (e : Exc) : rounded f r (f.decode u) false e = (u, e) := by
  rw [rounded, roundVal_decode ieee r lt number, or_none]

/-- Two finite patterns of one sign and one value are one pattern. -/
theorem eq_of_exact_eq {f : Fmt} (ieee : Ieee f) {a b : Nat} (alt : a < 2 ^ f.width) (blt : b < 2 ^ f.width) {n k : Bool}
    {m l : Nat} {e g : Int} (left : f.decode a = .num n m e) (right : f.decode b = .num k l g)
    (same : (f.decode a).exact = (f.decode b).exact) (sign : (f.decode a).neg = (f.decode b).neg) : a = b := by
  rw [left, right] at same sign
  obtain ⟨asign, afits, apack, -, -⟩ := fits_decode ieee left
  obtain ⟨bsign, bfits, bpack, -, -⟩ := fits_decode ieee right
  have magnitude : dyadic m e = dyadic l g := by rw [← abs_exact_num n, ← abs_exact_num k, same]
  obtain ⟨rfl, rfl⟩ := afits.eq_of_dyadic_eq bfits magnitude
  rw [eq_signed_fields ieee alt, eq_signed_fields ieee blt, ← apack, ← bpack, ← asign, ← bsign]
  exact congrArg (f.signed · _) sign

/-- The minimum or maximum of two numbers: the operand that the order names, and of two equal ones the first for a minimum
when it is negative and for a maximum when it is not. -/
theorem minmax_rounded {f : Fmt} (ieee : Ieee f) (r : Rnd) (isMax : Bool) {a b : Nat} (alt : a < 2 ^ f.width)
    (blt : b < 2 ^ f.width) {n k : Bool} {m l : Nat} {e g : Int} (left : f.decode a = .num n m e)
    (right : f.decode b = .num k l g) :
    let v := minmaxVal isMax (f.decode a) (f.decode b)
    ((f.decode a).exact < (f.decode b).exact → rounded f r v.1 false v.2 = (if isMax then b else a, .none)) ∧
    ((f.decode b).exact < (f.decode a).exact → rounded f r v.1 false v.2 = (if isMax then a else b, .none)) ∧
    ((f.decode a).exact = (f.decode b).exact →
      rounded f r v.1 false v.2 = (if isMax != (f.decode a).neg then a else b, .none)) := by
  have anum : (f.decode a).isNan = false := by rw [left]; rfl
  have bnum : (f.decode b).isNan = false := by rw [right]; rfl
  have order := cmpVal_num n k m l e g
  rw [← left, ← right] at order
  obtain ⟨equal, less⟩ := order
  have quiet : Exc.nvIf ((f.decode a).isSnan || (f.decode b).isSnan) = .none := by rw [left, right]; rfl
  have picked (c : Bool) : rounded f r (if c then f.decode a else f.decode b) false .none = (if c then a else b, .none) := by
    cases c
    · exact rounded_decode ieee r blt bnum _
    · exact rounded_decode ieee r alt anum _
  simp only [minmaxVal, anum, bnum, Bool.and_false, if_neg Bool.false_ne_true, quiet, picked, Prod.mk.injEq, and_true]
  refine ⟨fun below => ?_, fun above => ?_, fun same => ?_⟩
  · have c := less.mpr below
    cases isMax <;> simp [c.ne, c, c.le]
  · have c : 0 < cmpVal (f.decode a) (f.decode b) :=
      lt_of_le_of_ne (not_lt.mp fun h => above.not_gt (less.mp h)) fun h => above.ne' (equal.mp h.symm)
    cases isMax <;> simp [c.ne', c, c.le]
  · cases isMax <;> simp [equal.mpr same]

/-- The minimum or maximum with a NaN operand. -/
theorem minmax_nan {f : Fmt} (ieee : Ieee f) (r : Rnd) (isMax : Bool) {a b : Nat} (alt : a < 2 ^ f.width)
    (blt : b < 2 ^ f.width) :
    let v := minmaxVal isMax (f.decode a) (f.decode b)
    let e := Exc.nvIf ((f.decode a).isSnan || (f.decode b).isSnan)
    ((f.decode a).isNan = true → (f.decode b).isNan = true → rounded f r v.1 false v.2 = (f.nanPat, e)) ∧
    ((f.decode a).isNan = true → (f.decode b).isNan = false → rounded f r v.1 false v.2 = (b, e)) ∧
    ((f.decode a).isNan = false → (f.decode b).isNan = true → rounded f r v.1 false v.2 = (a, e)) := by
  refine ⟨fun left right => ?_, fun left right => ?_, fun left right => ?_⟩
  · simp only [minmaxVal, left, right, Bool.and_self, if_true, rounded_nan]
  · simp only [minmaxVal, left, right, Bool.and_false, if_neg Bool.false_ne_true, if_true]
    exact rounded_decode ieee r blt right _
  · simp only [minmaxVal, left, right, Bool.false_and, if_neg Bool.false_ne_true, if_true]
    exact rounded_decode ieee r alt left _

/-! ### NaN operands (R89) -/

/-- An operation that answers each pair with a NaN by its signalling ones answers every such pair so. -/
theorem eq_of_nan {α : Type} {op : Val → Val → α} (out : Bool → α) (both : ∀ s t, op (.nan s) (.nan t) = out (s || t))
    (nanInf : ∀ s k, op (.nan s) (.inf k) = out s) (nanNum : ∀ s k l e, op (.nan s) (.num k l e) = out s)
    (infNan : ∀ n t, op (.inf n) (.nan t) = out t) (numNan : ∀ n m e t, op (.num n m e) (.nan t) = out t) {x y : Val}
    (nan : x.isNan = true ∨ y.isNan = true) : op x y = out (x.isSnan || y.isSnan) := by
  cases x with
  | nan s =>
    cases y with
    | nan t => exact both s t
    | inf k => exact (nanInf s k).trans (congrArg out (Bool.or_false s).symm)
    | num k l e => exact (nanNum s k l e).trans (congrArg out (Bool.or_false s).symm)
  | inf n =>
    cases y with
    | nan t => exact infNan n t
    | inf k => simp [Val.isNan] at nan
    | num k l e => simp [Val.isNan] at nan
  | num n m e =>
    cases y with
    | nan t => exact numNan n m e t
    | inf k => simp [Val.isNan] at nan
    | num k l g => simp [Val.isNan] at nan

section
variable {x y : Val} (nan : x.isNan = true ∨ y.isNan = true)
include nan

theorem addVal_nan (r : Rnd) : addVal r x y = (.nan false, Exc.nvIf (x.isSnan || y.isSnan)) :=
  eq_of_nan (op := addVal r) (fun b => (Val.nan false, Exc.nvIf b)) (fun _ _ => rfl) (fun _ _ => rfl) (fun _ _ _ _ => rfl)
    (fun _ _ => rfl) (fun _ _ _ _ => rfl) nan

theorem mulVal_nan : mulVal x y = (.nan false, Exc.nvIf (x.isSnan || y.isSnan)) :=
  eq_of_nan (op := mulVal) (fun b => (Val.nan false, Exc.nvIf b)) (fun _ _ => rfl) (fun _ _ => rfl) (fun _ _ _ _ => rfl)
    (fun _ _ => rfl) (fun _ _ _ _ => rfl) nan

theorem divVal_nan (bits : Nat) : divVal bits x y = (⟨.nan false, false⟩, Exc.nvIf (x.isSnan || y.isSnan)) :=
  eq_of_nan (op := divVal bits) (fun b => (Sticky.mk (.nan false) false, Exc.nvIf b)) (fun _ _ => rfl) (fun _ _ => rfl)
    (fun _ _ _ _ => rfl) (fun _ _ => rfl) (fun _ _ _ _ => rfl) nan

end

theorem sqrtVal_nan {x : Val} (nan : x.isNan = true) (bits : Nat) :
    sqrtVal bits x = (⟨.nan false, false⟩, Exc.nvIf x.isSnan) := by
  cases x with
  | nan s => rfl
  | inf n => nomatch nan
  | num n m e => nomatch nan

@[simp] theorem isNan_negate (v : Val) : v.negate.isNan = v.isNan := by cases v <;> rfl
@[simp] theorem isSnan_negate (v : Val) : v.negate.isSnan = v.isSnan := by cases v <;> rfl

theorem fpOp_nan (f : Fmt) (r : Rnd) (a b d : Nat) (nan : (f.decode a).isNan = true ∨ (f.decode b).isNan = true) :
    let e := Exc.nvIf ((f.decode a).isSnan || (f.decode b).isSnan)
    fpOp f r .add a b d = (f.nanPat, e) ∧ fpOp f r .sub a b d = (f.nanPat, e) ∧ fpOp f r .mul a b d = (f.nanPat, e) ∧
      fpOp f r .div a b d = (f.nanPat, e) := by
  refine ⟨?_, ?_, ?_, ?_⟩
  · rw [fpOp_add, addVal_nan nan, rounded_nan]
  · rw [fpOp_sub, addVal_nan (by rwa [isNan_negate]), rounded_nan, isSnan_negate]
  · rw [fpOp_mul, mulVal_nan nan, rounded_nan]
  · rw [fpOp_div, divVal_nan nan, rounded_nan]

end Sys2Proof.Proofs.Arithmetic

namespace Sys2Proof.Proofs
open Sys2Proof Sys2Proof.Machine Exact Arithmetic

/-- Settles O23: the sum and the product are exact before they are rounded; the quotient and the root have bits enough and a
tail that says whether more follow; a minimum or maximum is an operand, whose value rounds to its own pattern. -/
theorem arithmeticIsExactBeforeRounding : Obligations.ArithmeticIsExactBeforeRounding := by
  unfold Obligations.ArithmeticIsExactBeforeRounding
  intro f r a b d listed x y z X Y Z once zero nan sum
  have ieee := ieee_of_mem listed
  have values : (X = 0 ↔ x.exact = 0) ∧ (Y = 0 ↔ y.exact = 0) ∧ (X < 0 ↔ x.exact < 0) ∧ (0 < X ↔ 0 < x.exact) :=
    ⟨Rat.cast_eq_zero, Rat.cast_eq_zero, Rat.cast_lt_zero, Rat.cast_pos⟩
  obtain ⟨xzero, yzero, xneg, xpos⟩ := values
  refine ⟨?sqrt, ?numbers, ?sqrtNan, fpOp_nan f r a b d, fun alt blt => ?minmax⟩
  case sqrt =>
    rintro ⟨n, m, e, left⟩
    obtain ⟨negative, none, positive⟩ := sqrt_rounded f r d left b
    rw [xneg, xzero, xpos]
    exact ⟨negative, none, positive⟩
  case sqrtNan =>
    intro left
    show fpOp f r .sqrt a b d = _
    rw [fpOp_sqrt, sqrtVal_nan left, rounded_nan]
  case numbers =>
    rintro ⟨n, m, e, left⟩ ⟨k, l, g, right⟩
    obtain ⟨addZero, add⟩ := sum_rounded f r left right
    obtain ⟨subZero, sub⟩ := sum_rounded f r left (y := y.negate) (congrArg Val.negate right)
    obtain ⟨mul, mulZero⟩ := mul_rounded f r d left right
    obtain ⟨div, divZero, invalid, byZero⟩ := div_rounded f r d left ieee right
    have sign : y.negate.neg = !y.neg := by simp only [y, right, Val.negate, Val.neg]
    rw [exact_negate, ← sub_eq_add_neg] at subZero sub
    rw [sign] at subZero
    simp only [X, Y, Z, ← Rat.cast_add, ← Rat.cast_sub, ← Rat.cast_mul, ← Rat.cast_div, Rat.cast_eq_zero, ne_eq]
    refine ⟨add, addZero, sub, subZero, mul, mulZero, div, divZero, invalid, byZero, ?_⟩
    rintro ⟨i, p, h, addend⟩
    exact fma_rounded f r d left right addend
  case minmax =>
    obtain ⟨minBoth, minLeft, minRight⟩ := minmax_nan ieee r false alt blt
    obtain ⟨maxBoth, maxLeft, maxRight⟩ := minmax_nan ieee r true alt blt
    refine ⟨fun left right => ⟨minBoth left right, maxBoth left right⟩,
      fun left right => ⟨minLeft left right, maxLeft left right⟩,
      fun left right => ⟨minRight left right, maxRight left right⟩, ?_⟩
    rintro ⟨n, m, e, left⟩ ⟨k, l, g, right⟩
    obtain ⟨minBelow, minAbove, minSame⟩ := minmax_rounded ieee r false alt blt left right
    obtain ⟨maxBelow, maxAbove, maxSame⟩ := minmax_rounded ieee r true alt blt left right
    simp only [X, Y, Rat.cast_lt, Rat.cast_inj, ne_eq]
    refine ⟨fun first => ⟨?_, fun other => ?_⟩, fun second => ⟨?_, fun other => ?_⟩⟩
    · rcases first with below | ⟨same, negative⟩
      · exact minBelow below
      · exact (minSame same).trans (by rw [show (f.decode a).neg = true from negative]; rfl)
    · rcases first with below | ⟨same, negative⟩
      · exact maxBelow below
      · exact (maxSame same).trans (by rw [show (f.decode a).neg = true from negative]; rfl)
    · rcases second with above | ⟨same, negative⟩
      · exact minAbove above
      · refine (minSame same).trans ?_
        cases first : (f.decode a).neg with
        | false => rfl
        | true => rw [eq_of_exact_eq ieee alt blt left right same (first.trans negative.symm), ite_self]
    · rcases second with above | ⟨same, negative⟩
      · exact maxAbove above
      · have positive := other.resolve_left fun differ => differ same.symm
        exact (maxSame same).trans (by rw [show (f.decode a).neg = false from positive]; rfl)

end Sys2Proof.Proofs
end
section
/-! PROOF. Floating compares, conversions, moves and classes (R88 to R91, Tables 3.12 and 3.13): the integer that a number
rounds to, the class of a pattern, and binary64 as an extension of binary32. -/

namespace Sys2Proof.Proofs.Conversion
open Sys2Proof Sys2Proof.Machine Exact

/-! ### The integer that a magnitude rounds to (R89, R90) -/

/-- Whether a magnitude of a whole part and a fraction rounds to the next integer. -/
def stepsUp (r : Rnd) (neg : Bool) (n : Nat) (φ : ℚ) : Prop :=
  match r with
  | .rne => 1 / 2 < φ ∨ (φ = 1 / 2 ∧ n % 2 = 1)
  | .rmm => 1 / 2 ≤ φ
  | .rtz => False
  | .rdn => neg = true ∧ φ ≠ 0
  | .rup => neg = false ∧ φ ≠ 0

theorem not_stepsUp_zero (r : Rnd) (neg : Bool) (n : Nat) : ¬ stepsUp r neg n 0 := by
  cases r <;> norm_num [stepsUp]

theorem roundsUp_iff (r : Rnd) (neg : Bool) (n rem s : Nat) :
    roundsUp r neg (n % 2 == 1) rem (2 ^ s) false = true ↔ stepsUp r neg n (rem / 2 ^ (s + 1)) := by
  have power : (0 : ℚ) < 2 ^ (s + 1) := by positivity
  have half : (1 / 2 : ℚ) = 2 ^ s / 2 ^ (s + 1) := by
    rw [pow_succ]
    field_simp
  have above : (1 / 2 : ℚ) < rem / 2 ^ (s + 1) ↔ 2 ^ s < rem := by
    rw [half, div_lt_div_iff_of_pos_right power]
    exact_mod_cast Iff.rfl
  have tie : (rem / 2 ^ (s + 1) : ℚ) = 1 / 2 ↔ rem = 2 ^ s := by
    rw [half, div_left_inj' power.ne']
    exact_mod_cast Iff.rfl
  have nonzero : (rem / 2 ^ (s + 1) : ℚ) ≠ 0 ↔ rem ≠ 0 := by
    rw [ne_eq, div_eq_zero_iff, or_iff_left power.ne', Nat.cast_eq_zero]
  cases r with
  | rne => simp only [roundsUp, stepsUp, above, tie, Bool.not_false, Bool.and_true, Bool.and_false, Bool.or_false,
      Bool.or_eq_true, Bool.and_eq_true, decide_eq_true_eq, beq_iff_eq]
  | rtz => simp [roundsUp, stepsUp]
  | rdn => simp only [roundsUp, stepsUp, nonzero, Bool.or_false, Bool.and_eq_true, bne_iff_ne]
  | rup => simp only [roundsUp, stepsUp, nonzero, Bool.or_false, Bool.and_eq_true, bne_iff_ne, Bool.not_eq_true']
  | rmm =>
    rw [stepsUp, le_iff_lt_or_eq, eq_comm (a := (1 / 2 : ℚ)), above, tie]
    simp [roundsUp]

/-- A magnitude as its whole part and its fraction, and what it rounds to. -/
theorem roundInt_parts (r : Rnd) (neg : Bool) (m : Nat) (e : Int) : ∃ (n : Nat) (φ : ℚ) (up : Bool), 0 ≤ φ ∧ φ < 1 ∧
    dyadic m e = n + φ ∧ (up = true ↔ stepsUp r neg n φ) ∧ (roundInt r neg m e false).1 = (if up then n + 1 else n) ∧
    ((roundInt r neg m e false).2 = true ↔ φ ≠ 0) := by
  by_cases whole : 0 ≤ e
  · obtain ⟨k, rfl⟩ := Int.eq_ofNat_of_zero_le whole
    refine ⟨m * 2 ^ k, 0, false, le_rfl, one_pos, ?_, ?_, ?_, ?_⟩
    · simp [dyadic]
    · simpa using not_stepsUp_zero r neg _
    · rw [roundInt_of_nonneg]
      rfl
    · simp [roundInt_of_nonneg]
  · obtain ⟨s, shift⟩ : ∃ s : Nat, e = -((s : Int) + 1) := ⟨(-e - 1).toNat, by omega⟩
    have count : (-e).toNat = s + 1 := by omega
    have power : (0 : ℚ) < 2 ^ (s + 1) := by positivity
    have rem := Nat.mod_lt m (Nat.two_pow_pos (s + 1))
    have split : (m : ℚ) = 2 ^ (s + 1) * (m / 2 ^ (s + 1) : Nat) + (m % 2 ^ (s + 1) : Nat) := by
      exact_mod_cast (Nat.div_add_mod m (2 ^ (s + 1))).symm
    refine ⟨m / 2 ^ (s + 1), (m % 2 ^ (s + 1) : Nat) / 2 ^ (s + 1), _, by positivity, ?_, ?_, roundsUp_iff r neg _ _ s, ?_, ?_⟩
    · rw [div_lt_one power]
      exact_mod_cast rem
    · have scale : (2 : ℚ) ^ e = (2 ^ (s + 1))⁻¹ := by
        rw [shift, zpow_neg]
        norm_cast
      rw [dyadic, scale, ← div_eq_mul_inv, div_eq_iff power.ne', add_mul, div_mul_cancel₀ _ power.ne', mul_comm _ (2 ^ (s + 1))]
      exact split
    · rw [roundInt, if_neg whole, count]
      rfl
    · rw [roundInt, if_neg whole, count]
      simp [power.ne']

/-- A magnitude is rounded exactly when the integer is another number. -/
theorem roundInt_inexact (r : Rnd) (neg : Bool) (m : Nat) (e : Int) :
    (roundInt r neg m e false).2 = true ↔ (((roundInt r neg m e false).1 : Nat) : ℚ) ≠ dyadic m e := by
  obtain ⟨n, φ, up, low, high, value, steps, result, inexact⟩ := roundInt_parts r neg m e
  rw [inexact, result, value]
  cases up with
  | false => simp
  | true =>
    have nonzero : φ ≠ 0 := fun zero => not_stepsUp_zero r neg n (zero ▸ steps.mp rfl)
    simp [nonzero, high.ne']

theorem roundInt_down {r : Rnd} {neg : Bool} (down : roundsDown r neg) (m : Nat) (e : Int) :
    ((roundInt r neg m e false).1 : Int) = ⌊dyadic m e⌋ := by
  obtain ⟨n, φ, up, low, high, value, steps, result, -⟩ := roundInt_parts r neg m e
  have stays : up = false := by
    rw [← Bool.not_eq_true, steps]
    rcases down with rfl | ⟨rfl, rfl⟩ | ⟨rfl, rfl⟩ <;> simp [stepsUp]
  rw [result, stays, value, Int.floor_natCast_add, Int.floor_eq_zero_iff.mpr ⟨low, high⟩, add_zero]
  rfl

theorem roundInt_away {r : Rnd} {neg : Bool} (away : roundsAway r neg) (m : Nat) (e : Int) :
    ((roundInt r neg m e false).1 : Int) = ⌈dyadic m e⌉ := by
  obtain ⟨n, φ, up, low, high, value, steps, result, -⟩ := roundInt_parts r neg m e
  have moves : up = true ↔ φ ≠ 0 := by
    rw [steps]
    rcases away with ⟨rfl, rfl⟩ | ⟨rfl, rfl⟩ <;> simp [stepsUp]
  rw [result, value, Int.ceil_natCast_add]
  cases up with
  | false =>
    have zero : φ = 0 := by simpa using moves
    simp [zero]
  | true =>
    have positive : 0 < φ := lt_of_le_of_ne low (moves.mp rfl).symm
    have one : ⌈φ⌉ = 1 := Int.ceil_eq_iff.mpr (by norm_num [positive, high.le])
    rw [one]
    rfl

/-- A nearest rounding leaves at most a half, and a half only to an even integer, or away from zero. -/
theorem roundInt_nearest {r : Rnd} (neg : Bool) (nearest : r = .rne ∨ r = .rmm) (m : Nat) (e : Int) :
    let k := (roundInt r neg m e false).1
    2 * |dyadic m e - k| ≤ 1 ∧ (2 * |dyadic m e - k| = 1 → (r = .rne → k % 2 = 0) ∧ (r = .rmm → dyadic m e < k)) := by
  obtain ⟨n, φ, up, low, high, value, steps, result, -⟩ := roundInt_parts r neg m e
  simp only [result, value]
  cases up with
  | false =>
    have stays : ¬ stepsUp r neg n φ := by simp [← steps]
    have left : |(n + φ : ℚ) - n| = φ := by rw [add_sub_cancel_left, abs_of_nonneg low]
    simp only [if_neg Bool.false_ne_true, left]
    rcases nearest with rfl | rfl
    · simp only [stepsUp, not_or, not_lt, not_and] at stays
      refine ⟨by linarith, fun half => ⟨fun _ => ?_, nofun⟩⟩
      have := stays.2 (by linarith)
      omega
    · simp only [stepsUp, not_le] at stays
      exact ⟨by linarith, fun half => by linarith⟩
  | true =>
    have moves : stepsUp r neg n φ := steps.mp rfl
    have left : |(n + φ : ℚ) - (n + 1 : Nat)| = 1 - φ := by
      push_cast
      rw [add_sub_add_left_eq_sub, abs_sub_comm, abs_of_nonneg (by linarith)]
    simp only [if_true, left]
    rcases nearest with rfl | rfl
    · refine ⟨?_, fun half => ⟨fun _ => ?_, nofun⟩⟩
      · rcases moves with above | ⟨tie, -⟩ <;> linarith
      · rcases moves with above | ⟨-, odd⟩
        · linarith
        · omega
    · simp only [stepsUp] at moves
      refine ⟨by linarith, fun _ => ⟨nofun, fun _ => ?_⟩⟩
      push_cast
      linarith

/-- A signed number rounds to the integer that its rounding names. -/
theorem roundToInt_rounds (r : Rnd) (neg : Bool) (m : Nat) (e : Int) :
    let y := (Val.num neg m e).exact
    let k := (roundToInt r neg m e).1
    ((roundToInt r neg m e).2 = true ↔ (k : ℚ) ≠ y) ∧
    (r = .rdn → k = ⌊y⌋) ∧ (r = .rup → k = ⌈y⌉) ∧ (r = .rtz → k = if y < 0 then ⌈y⌉ else ⌊y⌋) ∧
    (r = .rne ∨ r = .rmm → 2 * |y - k| ≤ 1 ∧
      (2 * |y - k| = 1 → (r = .rne → k % 2 = 0) ∧ (r = .rmm → |y| < |(k : ℚ)|))) := by
  intro y k
  have inexact := roundInt_inexact r neg m e
  have low := dyadic_nonneg m e
  cases neg with
  | false =>
    have value : y = dyadic m e := rfl
    have result : k = (roundInt r false m e false).1 := rfl
    rw [value, result, Int.cast_natCast, abs_of_nonneg low, Nat.abs_cast]
    refine ⟨inexact, fun rdn => roundInt_down (.inr (.inl ⟨rdn, rfl⟩)) m e, fun rup => roundInt_away (.inr ⟨rup, rfl⟩) m e,
      fun rtz => ?_, fun nearest => ?_⟩
    · rw [if_neg (not_lt.mpr low)]
      exact roundInt_down (.inl rtz) m e
    · obtain ⟨near, tie⟩ := roundInt_nearest false nearest m e
      refine ⟨near, fun half => ⟨fun rne => ?_, (tie half).2⟩⟩
      have := (tie half).1 rne
      omega
  | true =>
    have value : y = -dyadic m e := rfl
    have result : k = -((roundInt r true m e false).1 : Int) := rfl
    rw [value, result, Int.cast_neg, Int.cast_natCast, abs_neg, abs_neg, abs_of_nonneg low, Nat.abs_cast, Int.floor_neg,
      Int.ceil_neg, neg_inj, neg_inj, ne_eq, neg_inj, ← neg_add', abs_neg, ← sub_eq_add_neg]
    refine ⟨inexact, fun rdn => roundInt_away (.inl ⟨rdn, rfl⟩) m e, fun rup => roundInt_down (.inr (.inr ⟨rup, rfl⟩)) m e,
      fun rtz => ?_, fun nearest => ?_⟩
    · have whole := roundInt_down (neg := true) (.inl rtz) m e
      split
      · rw [whole]
      · have zero : dyadic m e = 0 := by linarith
        simp [whole, zero]
    · obtain ⟨near, tie⟩ := roundInt_nearest true nearest m e
      refine ⟨near, fun half => ⟨fun rne => ?_, (tie half).2⟩⟩
      have := (tie half).1 rne
      omega

/-! ### Classes (R91) -/

/-- A finite magnitude is below the least normal one when its exponent field is 0. -/
theorem dyadic_lt_normal_iff {f : Fmt} {m : Nat} {e : Int} (fits : Fits f m e) :
    dyadic m e < dyadic 1 f.emin ↔ m < 2 ^ f.frac := by
  have normal : dyadic 1 f.emin = dyadic (2 ^ f.frac) (f.emin - f.frac) := by
    rw [← Nat.one_mul (2 ^ f.frac), dyadic_mul_two_pow, sub_add_cancel]
  obtain ⟨k, exponent⟩ := Int.le.dest fits.least
  rw [normal, ← exponent, ← dyadic_mul_two_pow, lt_iff_not_ge, dyadic_le_iff, not_le]
  constructor
  · exact (Nat.le_mul_of_pos_right m (Nat.two_pow_pos k)).trans_lt
  · intro small
    have zero : k = 0 := by
      have := fits.normal
      omega
    simpa [zero] using small

theorem classOf_eq {f : Fmt} (ieee : Ieee f) (u : Nat) :
    classOf f u = (if u.testBit (f.width - 1) then 8 else 0) + match f.decode u with
      | .nan signalling => if signalling then 5 else 4
      | .inf _ => 3
      | .num neg m e => if m = 0 then 0 else if |(Val.num neg m e).exact| < dyadic 1 f.emin then 1 else 2 := by
  have sign : 8 * (u / 2 ^ (f.width - 1) % 2) = if u.testBit (f.width - 1) then 8 else 0 := by
    rw [Nat.testBit_eq_decide_div_mod_eq]
    simp only [decide_eq_true_eq]
    split <;> omega
  unfold classOf
  simp only [← sign, Nat.add_comm (8 * _)]
  cases value : f.decode u with
  | nan sig => rfl
  | inf neg => rfl
  | num neg m e =>
    obtain ⟨-, fits, -, -, normal⟩ := fits_decode ieee value
    have subnormal : u / 2 ^ f.frac % 2 ^ f.exp = 0 ↔ dyadic m e < dyadic 1 f.emin := by
      rw [dyadic_lt_normal_iff fits, ← not_le, normal, not_not]
      rfl
    simp only [abs_exact_num, subnormal]

/-! ### Conversions between the formats (R90) -/

theorem decode_inf {f : Fmt} (ieee : Ieee f) (neg : Bool) {inf : Nat} (pattern : f.infPat = some inf) :
    f.decode (f.signed neg inf) = .inf neg := by
  have same : inf = (2 ^ f.exp - 1) * 2 ^ f.frac + 0 := by
    rw [Fmt.infPat, ieee.special] at pattern
    exact (Option.some.inj pattern).symm
  have lt : 2 ^ f.exp - 1 < 2 ^ f.exp := Nat.sub_lt (by positivity) one_pos
  obtain ⟨sign, field, fraction⟩ := fields_signed ieee neg lt (Nat.two_pow_pos f.frac)
  rw [same, decode_eq ieee, sign, field, fraction, if_pos rfl, if_pos rfl]

theorem roundVal_num (f : Fmt) (r : Rnd) (neg : Bool) {m : Nat} (nonzero : m ≠ 0) (e : Int) :
    f.roundVal r (.num neg m e) = f.roundMag r neg m e false := by
  obtain ⟨n, rfl⟩ := Nat.exists_eq_succ_of_ne_zero nonzero
  rfl

/-- A number of binary32 fits binary64. -/
theorem roundVal_fp64_of_fits (r : Rnd) (neg : Bool) {m : Nat} {e : Int} (fits : Fits .fp32 m e)
    (below : pack .fp32 m e ≤ Fmt.fp32.maxPat) :
    ∃ u n g, Fmt.fp64.roundVal r (.num neg m e) = { pat := u, exc := .none, counted := false } ∧
      Fmt.fp64.decode u = .num neg n g ∧ dyadic n g = dyadic m e := by
  have ieee : Ieee Fmt.fp64 := ieee_prec .d
  obtain ⟨bits, least, -⟩ := fits
  rcases Nat.eq_zero_or_pos m with rfl | positive
  · have fits64 : Fits .fp64 0 (Fmt.fp64.emin - Fmt.fp64.frac) := ⟨by decide, le_rfl, .inr rfl⟩
    have zero := decode_signed_pack ieee neg fits64 (by rw [pack_zero fits64]; decide)
    rw [pack_zero fits64] at zero
    exact ⟨_, _, _, rfl, zero, by simp [dyadic]⟩
  · have log : Nat.log2 m < 24 := (Nat.log2_lt positive.ne').mpr bits
    obtain ⟨k, shift⟩ : ∃ k, Nat.log2 m + k = 52 := ⟨52 - Nat.log2 m, by omega⟩
    have low : 2 ^ 52 ≤ m * 2 ^ k := by
      rw [← shift, Nat.pow_add]
      exact Nat.mul_le_mul_right _ (Nat.log2_self_le positive.ne')
    have high : m * 2 ^ k < 2 ^ 53 := by
      rw [show 53 = Nat.log2 m + 1 + k by omega, Nat.pow_add]
      exact Nat.mul_lt_mul_of_pos_right Nat.lt_log2_self (by positivity)
    have emin32 : Fmt.fp32.emin - Fmt.fp32.frac = -149 := by decide
    have emin64 : Fmt.fp64.emin - Fmt.fp64.frac = -1074 := by decide
    have top : (e + 149).toNat * 2 ^ 23 + m ≤ 255 * 2 ^ 23 - 1 := by
      have := below
      rw [pack, emin32, sub_neg_eq_add] at this
      exact this
    rw [emin32] at least
    have fits64 : Fits .fp64 (m * 2 ^ k) (e - k) := ⟨high, by rw [emin64]; omega, .inl low⟩
    have below64 : pack .fp64 (m * 2 ^ k) (e - k) ≤ Fmt.fp64.maxPat := by
      rw [pack, emin64]
      have exponent : (e - k - -1074).toNat ≤ 1150 := by omega
      calc (e - k - -1074).toNat * 2 ^ 52 + m * 2 ^ k ≤ 1150 * 2 ^ 52 + 2 ^ 53 :=
            Nat.add_le_add (Nat.mul_le_mul_right _ exponent) high.le
        _ ≤ 2047 * 2 ^ 52 - 1 := by decide
    refine ⟨_, _, _, ?_, decode_signed_pack ieee neg fits64 below64, ?_⟩
    · exact (roundVal_num .fp64 r neg positive.ne' e).trans (roundMag_fits r neg positive.ne' fits64 below64)
    · rw [dyadic_mul_two_pow, sub_add_cancel]

/-- A conversion of binary32 to binary64 changes neither the sign nor the number, and raises nothing. -/
theorem fcvt_fp64_exact (r : Rnd) (u : Nat) (number : (Fmt.fp32.decode u).isNan = false) :
    let v := Fmt.fp32.decode u
    let o := Fmt.fp64.fcvt r v
    o.exc = .none ∧ (Fmt.fp64.decode o.pat).neg = v.neg ∧ (Fmt.fp64.decode o.pat).exact = v.exact ∧
      ∀ neg, v = .inf neg ↔ Fmt.fp64.decode o.pat = .inf neg := by
  intro v o
  cases value : Fmt.fp32.decode u with
  | nan sig => simp [value, Val.isNan] at number
  | inf neg =>
    have same : v = .inf neg := value
    have result : Fmt.fp64.decode o.pat = .inf neg := by
      simp only [o, same]
      exact decode_inf (ieee_prec .d) neg rfl
    rw [result, same]
    refine ⟨?_, rfl, rfl, fun _ => Iff.rfl⟩
    simp only [o, same]
    rfl
  | num neg m e =>
    have same : v = .num neg m e := value
    obtain ⟨-, fits, -, below, -⟩ := fits_decode (ieee_prec .s) value
    obtain ⟨p, n, g, rounded, result, magnitude⟩ := roundVal_fp64_of_fits r neg fits below
    have out : o = { pat := p, exc := .none, counted := false } := by
      simp only [o, same]
      exact rounded
    rw [out, same]
    simp only [result, exact_num, magnitude, Val.neg, reduceCtorEq, implies_true, and_self]

/-! ### Conversions to integers (R90) -/

/-- A conversion to an integer of a number: clamped at the ends of the range, the rounded integer inside it. -/
theorem toIntScalar_num (r : Rnd) (neg : Bool) (m : Nat) (e : Int) {lo hi : Int} (range : lo ≤ hi) :
    let k := roundToInt r neg m e
    (k.1 < lo → toIntScalar r (.num neg m e) lo hi = (lo, .invalid)) ∧
    (hi < k.1 → toIntScalar r (.num neg m e) lo hi = (hi, .invalid)) ∧
    (lo ≤ k.1 → k.1 ≤ hi → toIntScalar r (.num neg m e) lo hi = (k.1, if k.2 then .inexact else .none)) := by
  refine ⟨fun below => ?_, fun above => ?_, fun low high => ?_⟩
  · exact if_pos below
  · exact (if_neg (not_lt.mpr (range.trans above.le))).trans (if_pos above)
  · exact (if_neg (not_lt.mpr low)).trans (if_neg (not_lt.mpr high))

/-! ### Compares (Table 3.12) -/

theorem fpCompare_nan (quiet : Bool) (rel : Int → Bool) {x y : Val} (nan : x.isNan = true ∨ y.isNan = true) :
    fpCompare quiet rel x y = (false, Exc.nvIf (!quiet || x.isSnan || y.isSnan)) :=
  if_pos (by simpa using nan)

theorem fpCompare_numbers (quiet : Bool) (rel : Int → Bool) {x y : Val} (left : x.isNan = false) (right : y.isNan = false) :
    fpCompare quiet rel x y = (rel (cmpVal x y), .none) :=
  if_neg (by simp [left, right])

/-! ### The instructions that write an x register and raise exceptions -/

section
variable (s : State) (d a b : Reg) (r : Rnd) (p : Prec)

/-- The value of f[r] as an operand. -/
def operand (s : State) (p : Prec) (r : Reg) : Val := (precFmt p).decode (s.me.fo p r)

/-- A pair of a compare's answer and its exceptions in x[d]. -/
def answer (s : State) (d : Reg) (o : Bool × Exc) : Out := s.writeXe d (boolWord o.1) o.2

theorem exec_feq : exec (.feq d a b p) s = answer s d (fpCompare true (fun c => c == 0) (operand s p a) (operand s p b)) := rfl
theorem exec_flt : exec (.flt d a b p) s =
    answer s d (fpCompare false (fun c => decide (c < 0)) (operand s p a) (operand s p b)) := rfl
theorem exec_fle : exec (.fle d a b p) s =
    answer s d (fpCompare false (fun c => decide (c ≤ 0)) (operand s p a) (operand s p b)) := rfl

theorem compares_nan (nan : (operand s p a).isNan = true ∨ (operand s p b).isNan = true) :
    exec (.feq d a b p) s = s.writeXe d 0 (Exc.nvIf ((operand s p a).isSnan || (operand s p b).isSnan)) ∧
    exec (.flt d a b p) s = s.writeXe d 0 (Exc.nvIf true) ∧ exec (.fle d a b p) s = s.writeXe d 0 (Exc.nvIf true) := by
  rw [exec_feq, exec_flt, exec_fle, fpCompare_nan _ _ nan, fpCompare_nan _ _ nan, fpCompare_nan _ _ nan]
  exact ⟨rfl, rfl, rfl⟩

theorem compares_numbers (left : (operand s p a).isNan = false) (right : (operand s p b).isNan = false) :
    let c := cmpVal (operand s p a) (operand s p b)
    exec (.feq d a b p) s = s.writeXe d (if c = 0 then 1 else 0) .none ∧
    exec (.flt d a b p) s = s.writeXe d (if c < 0 then 1 else 0) .none ∧
    exec (.fle d a b p) s = s.writeXe d (if c ≤ 0 then 1 else 0) .none := by
  rw [exec_feq, exec_flt, exec_fle, fpCompare_numbers _ _ left right, fpCompare_numbers _ _ left right,
    fpCompare_numbers _ _ left right]
  simp only [answer, boolWord, beq_iff_eq, decide_eq_true_eq, and_self]

/-- A pair of an integer and its exceptions in x[d]. -/
def integer (s : State) (d : Reg) (o : Int × Exc) : Out := s.writeXe d (BitVec.ofInt 64 o.1) o.2

theorem exec_fcvtLF : exec (.fcvtLF d a r p) s = integer s d (toIntScalar r (operand s p a) (-(2 ^ 63)) (2 ^ 63 - 1)) := rfl
theorem exec_fcvtLuF : exec (.fcvtLuF d a r p) s = integer s d (toIntScalar r (operand s p a) 0 (2 ^ 64 - 1)) := rfl

theorem toInts_nan (nan : (operand s p a).isNan = true) :
    exec (.fcvtLF d a r p) s = s.writeXe d (BitVec.ofInt 64 (2 ^ 63 - 1)) .invalid ∧
    exec (.fcvtLuF d a r p) s = s.writeXe d (BitVec.ofInt 64 (2 ^ 64 - 1)) .invalid := by
  rw [exec_fcvtLF, exec_fcvtLuF]
  cases value : operand s p a with
  | nan sig => exact ⟨rfl, rfl⟩
  | inf neg => simp [value, Val.isNan] at nan
  | num neg m e => simp [value, Val.isNan] at nan

theorem toInts_inf (neg : Bool) (inf : operand s p a = .inf neg) :
    exec (.fcvtLF d a r p) s =
      s.writeXe d (if neg then BitVec.ofInt 64 (-(2 ^ 63)) else BitVec.ofInt 64 (2 ^ 63 - 1)) .invalid ∧
    exec (.fcvtLuF d a r p) s = s.writeXe d (if neg then 0 else BitVec.ofInt 64 (2 ^ 64 - 1)) .invalid := by
  rw [exec_fcvtLF, exec_fcvtLuF, inf]
  cases neg
  · exact ⟨rfl, rfl⟩
  · exact ⟨rfl, rfl⟩

theorem toInts_num (neg : Bool) (m : Nat) (e : Int) (num : operand s p a = .num neg m e) :
    let k := roundToInt r neg m e
    ((k.1 < -(2 ^ 63) → exec (.fcvtLF d a r p) s = s.writeXe d (BitVec.ofInt 64 (-(2 ^ 63))) .invalid) ∧
      (2 ^ 63 - 1 < k.1 → exec (.fcvtLF d a r p) s = s.writeXe d (BitVec.ofInt 64 (2 ^ 63 - 1)) .invalid) ∧
      (-(2 ^ 63) ≤ k.1 → k.1 ≤ 2 ^ 63 - 1 →
        exec (.fcvtLF d a r p) s = s.writeXe d (BitVec.ofInt 64 k.1) (if k.2 then .inexact else .none))) ∧
    ((k.1 < 0 → exec (.fcvtLuF d a r p) s = s.writeXe d 0 .invalid) ∧
      (2 ^ 64 - 1 < k.1 → exec (.fcvtLuF d a r p) s = s.writeXe d (BitVec.ofInt 64 (2 ^ 64 - 1)) .invalid) ∧
      (0 ≤ k.1 → k.1 ≤ 2 ^ 64 - 1 →
        exec (.fcvtLuF d a r p) s = s.writeXe d (BitVec.ofInt 64 k.1) (if k.2 then .inexact else .none))) := by
  rw [exec_fcvtLF, exec_fcvtLuF, num]
  obtain ⟨low, high, inside⟩ := toIntScalar_num r neg m e (lo := -(2 ^ 63)) (hi := 2 ^ 63 - 1) (by decide)
  obtain ⟨ulow, uhigh, uinside⟩ := toIntScalar_num r neg m e (lo := 0) (hi := 2 ^ 64 - 1) (by decide)
  refine ⟨⟨fun out => ?_, fun out => ?_, fun above below => ?_⟩, fun out => ?_, fun out => ?_, fun above below => ?_⟩
  · rw [low out, integer]
  · rw [high out, integer]
  · rw [inside above below, integer]
  · rw [ulow out, integer]
    rfl
  · rw [uhigh out, integer]
  · rw [uinside above below, integer]

end

end Sys2Proof.Proofs.Conversion

namespace Sys2Proof.Proofs
open Sys2Proof Sys2Proof.Machine Exact Conversion

/-- Settles O21: the instructions put what the shared operations of the FPU compute, and those compute the integer that
the rounding names, the class of the fields, and binary32 exactly in binary64. -/
theorem floatResults : Obligations.FloatResults := by
  unfold Obligations.FloatResults
  refine ⟨fun s d a b r p => ?arithmetic, fun s d a b r p => ?others, fun p u _ => classOf_eq (ieee_prec p) u,
    roundToInt_rounds, fun f r v => ⟨?_, fun number => ?_⟩, fun r u _ => fcvt_fp64_exact r u⟩
  case arithmetic => exact ⟨rfl, rfl, rfl, rfl, rfl, rfl, rfl, rfl, rfl, rfl, rfl, rfl⟩
  case others =>
    refine ⟨compares_nan s d a b p, compares_numbers s d a b p, toInts_nan s d a r p, toInts_inf s d a r p,
      toInts_num s d a r p, rfl, ?_, rfl⟩
    rw [← Scalar.sextBytes_eq_signedBytes (by decide)]
    rfl
  · rintro sig rfl
    exact ⟨rfl, rfl⟩
  · cases v with
    | nan sig => nomatch number
    | inf neg => rfl
    | num neg m e => rfl

end Sys2Proof.Proofs
end
section
/-! PROOF. How a vector result is written (R41, R103, R107, R112, R113, R166 to R168): the registers that a write of a group
reaches, the bits of its elements, its descriptors and its copy. -/

namespace Sys2Proof.Proofs.Planes
open Sys2Proof Sys2Proof.Machine Sys2Proof.Laws

/-! ### The registers of a group (R103) -/

theorem regAt_inj {n : Reg} {i j : Nat} (hi : i < 32) (hj : j < 32) (same : regAt n i = regAt n j) : i = j := by
  have same : BitVec.ofNat 5 i = BitVec.ofNat 5 j := (BitVec.add_right_inj n).mp same
  simpa [Nat.mod_eq_of_lt hi, Nat.mod_eq_of_lt hj] using congrArg BitVec.toNat same

theorem regs_cases {t : VT} (ig : t.ig ≤ 2) : t.regs = 1 ∨ t.regs = 2 ∨ t.regs = 4 := by
  unfold VT.regs
  interval_cases t.ig <;> simp

theorem regs_le {t : VT} (ig : t.ig ≤ 2) : t.regs ≤ 32 := by
  obtain e | e | e := regs_cases ig <;> omega

/-- The registers of an aligned group stand one after another, below 32. -/
theorem regAt_toNat {t : VT} (ig : t.ig ≤ 2) {d : Reg} (aligned : d.toNat % t.regs = 0) {j : Nat} (lt : j < t.regs) :
    (regAt d j).toNat = d.toNat + j := by
  have := d.isLt
  have fits : d.toNat + j < 32 := by
    obtain e | e | e := regs_cases ig <;> rw [e] at aligned lt <;> omega
  unfold regAt
  rw [BitVec.toNat_add, BitVec.toNat_ofNat]
  omega

/-- Two aligned groups of one size that share a register are the same group. -/
theorem eq_of_regAt_eq {t : VT} (ig : t.ig ≤ 2) {d e : Reg} (hd : d.toNat % t.regs = 0) (he : e.toNat % t.regs = 0)
    {j k : Nat} (hj : j < t.regs) (hk : k < t.regs) (same : regAt d j = regAt e k) : d = e ∧ j = k := by
  have same := congrArg BitVec.toNat same
  rw [regAt_toNat ig hd hj, regAt_toNat ig he hk] at same
  have first : d.toNat = e.toNat := by
    obtain r | r | r := regs_cases ig <;> rw [r] at hd he hj hk <;> omega
  exact ⟨BitVec.eq_of_toNat_eq first, by omega⟩

/-! ### The bits of one element (R112) -/

theorem getLsbD_setBit_ne (x : Plane) {i j : Nat} (ne : j ≠ i) (b : Bool) : (setBit x i b).getLsbD j = x.getLsbD j := by
  unfold setBit
  cases b
  · by_cases lt : j < 32768
    · simp [lt, ne]
    · simp [BitVec.getLsbD_of_ge x j (by omega)]
  · simp [BitVec.getLsbD_twoPow, ne.symm]

theorem getLsbD_setBit_same (x : Plane) {i : Nat} (lt : i < 32768) (b : Bool) : (setBit x i b).getLsbD i = b := by
  unfold setBit
  cases b <;> simp [lt]

theorem putBits_plane (v : VReg) (i u : Nat) (p : Fin 16) :
    (v.putBits i u).planes.get p = setBit (v.planes.get p) i (u.testBit p.val) := by
  show (Vector.ofFn _)[p.val] = _
  rw [Vector.getElem_ofFn]

@[simp] theorem putBits_desc (v : VReg) (i u : Nat) : (v.putBits i u).desc = v.desc := rfl

/-! ### One element of a group -/

theorem putElem_succ (h : Hart) (n : Reg) (i u k : Nat) : h.putElem n i u (k + 1) =
    (h.putElem n i u k).putV (regAt n k) (((h.putElem n i u k).vr (regAt n k)).putBits i (u / 2 ^ (16 * k))) := rfl

theorem vr_putElem_outside (h : Hart) {n r : Reg} (i u : Nat) {k : Nat} (outside : ∀ j < k, r ≠ regAt n j) :
    (h.putElem n i u k).vr r = h.vr r := by
  induction k with
  | zero => rfl
  | succ k ih =>
    rw [putElem_succ, vr_putV, if_neg (outside k k.lt_succ_self), ih fun j lt => outside j (lt.trans k.lt_succ_self)]

theorem vr_putElem_inside (h : Hart) (n : Reg) (i u : Nat) {k j : Nat} (small : k ≤ 32) (lt : j < k) :
    (h.putElem n i u k).vr (regAt n j) = (h.vr (regAt n j)).putBits i (u / 2 ^ (16 * j)) := by
  induction k with
  | zero => omega
  | succ k ih =>
    rw [putElem_succ, vr_putV]
    by_cases e : j = k
    · subst e
      rw [if_pos rfl, vr_putElem_outside h i u fun l ll same => ll.ne (regAt_inj (by omega) (by omega) same.symm)]
    · rw [if_neg fun same => e (regAt_inj (by omega) (by omega) same), ih (by omega) (by omega)]

theorem desc_putElem (h : Hart) (n r : Reg) (i u k : Nat) : ((h.putElem n i u k).vr r).desc = (h.vr r).desc := by
  induction k with
  | zero => rfl
  | succ k ih =>
    rw [putElem_succ, vr_putV]
    split
    · next e => rw [putBits_desc, ← e, ih]
    · exact ih

theorem bit_putElem_ne (h : Hart) (n : Reg) {i j : Nat} (ne : j ≠ i) (u k : Nat) (r : Reg) (p : Nat) :
    (h.putElem n i u k).bit r p j = h.bit r p j := by
  induction k with
  | zero => rfl
  | succ k ih =>
    rw [← ih]
    unfold Hart.bit
    rw [putElem_succ, vr_putV]
    split
    · next e => rw [putBits_plane, getLsbD_setBit_ne _ ne, e]
    · rfl

theorem bit_putElem_same (h : Hart) (n : Reg) {i : Nat} (elem : i < 32768) (u : Nat) {k p : Nat} (small : k ≤ 32)
    (lt : p < 16 * k) : (h.putElem n i u k).bit n p i = u.testBit p := by
  unfold Hart.bit
  rw [vr_putElem_inside h n i u small (by omega), putBits_plane, getLsbD_setBit_same _ elem, Nat.testBit_div_two_pow]
  congr 1
  show p % 16 + 16 * (p / 16) = p
  omega

/-! ### The elements of a write -/

theorem putElems_cons (h : Hart) (d : Reg) (n : Nat) (w : Nat × Nat) (ws : List (Nat × Nat)) :
    h.putElems d n (w :: ws) = (h.putElem d w.1 w.2 n).putElems d n ws := rfl

theorem vr_putElems_outside (h : Hart) {d r : Reg} {n : Nat} (ws : List (Nat × Nat)) (outside : ∀ j < n, r ≠ regAt d j) :
    (h.putElems d n ws).vr r = h.vr r := by
  induction ws generalizing h with
  | nil => rfl
  | cons w ws ih => rw [putElems_cons, ih, vr_putElem_outside h w.1 w.2 outside]

theorem desc_putElems (h : Hart) (d r : Reg) (n : Nat) (ws : List (Nat × Nat)) :
    ((h.putElems d n ws).vr r).desc = (h.vr r).desc := by
  induction ws generalizing h with
  | nil => rfl
  | cons w ws ih => rw [putElems_cons, ih, desc_putElem]

theorem bit_putElems_unlisted (h : Hart) (d : Reg) (n : Nat) {ws : List (Nat × Nat)} {i : Nat}
    (unlisted : i ∉ ws.map (fun w => w.1)) (r : Reg) (p : Nat) : (h.putElems d n ws).bit r p i = h.bit r p i := by
  induction ws generalizing h with
  | nil => rfl
  | cons w ws ih =>
    rw [List.map_cons, List.mem_cons, not_or] at unlisted
    rw [putElems_cons, ih _ unlisted.2, bit_putElem_ne h d unlisted.1]

theorem bit_putElems_listed (h : Hart) (d : Reg) {n : Nat} (small : n ≤ 32) {ws : List (Nat × Nat)}
    (once : (ws.map (fun w => w.1)).Nodup) {w : Nat × Nat} (listed : w ∈ ws) (elem : w.1 < 32768) {p : Nat} (lt : p < 16 * n) :
    (h.putElems d n ws).bit d p w.1 = w.2.testBit p := by
  induction ws generalizing h with
  | nil => cases listed
  | cons x ws ih =>
    rw [List.map_cons, List.nodup_cons] at once
    rw [putElems_cons]
    obtain rfl | later := List.mem_cons.mp listed
    · rw [bit_putElems_unlisted _ d n once.1, bit_putElem_same h d elem w.2 small lt]
    · exact ih _ once.2 later

/-- A pattern is the number of its bits. -/
theorem pat_eq {h : Hart} {n : Reg} {i u w : Nat} (bits : ∀ p < w, h.bit n p i = u.testBit p) : h.pat n i w = u % 2 ^ w := by
  induction w with
  | zero => rw [Hart.pat, Nat.pow_zero, Nat.mod_one]
  | succ w ih =>
    rw [Hart.pat, ih fun p lt => bits p (lt.trans w.lt_succ_self), bits w w.lt_succ_self, Nat.mod_pow_succ,
      Nat.testBit_eq_decide_div_mod_eq]
    obtain e | e := Nat.mod_two_eq_zero_or_one (u / 2 ^ w) <;> simp [e]

/-! ### Descriptors and the copy (R41, R107) -/

theorem stamp_succ (h : Hart) (d : Reg) (t : VT) (vl : BitVec 16) (borg : BitVec 13) (prog k : Nat) :
    h.stamp d t vl borg prog (k + 1) = (h.stamp d t vl borg prog k).putV (regAt d k)
      { (h.stamp d t vl borg prog k).vr (regAt d k) with
        desc := ((h.stamp d t vl borg prog k).vr (regAt d k)).desc.stamp t vl borg prog k } := rfl

theorem vr_stamp_outside (h : Hart) {d r : Reg} (t : VT) (vl : BitVec 16) (borg : BitVec 13) (prog : Nat) {k : Nat}
    (outside : ∀ j < k, r ≠ regAt d j) : (h.stamp d t vl borg prog k).vr r = h.vr r := by
  induction k with
  | zero => rfl
  | succ k ih =>
    rw [stamp_succ, vr_putV, if_neg (outside k k.lt_succ_self), ih fun j lt => outside j (lt.trans k.lt_succ_self)]

theorem vr_stamp_inside (h : Hart) (d : Reg) (t : VT) (vl : BitVec 16) (borg : BitVec 13) (prog : Nat) {k j : Nat}
    (small : k ≤ 32) (lt : j < k) : (h.stamp d t vl borg prog k).vr (regAt d j) =
      { h.vr (regAt d j) with desc := (h.vr (regAt d j)).desc.stamp t vl borg prog j } := by
  induction k with
  | zero => omega
  | succ k ih =>
    rw [stamp_succ, vr_putV]
    by_cases e : j = k
    · subst e
      rw [if_pos rfl, vr_stamp_outside h t vl borg prog fun l ll same => ll.ne (regAt_inj (by omega) (by omega) same.symm)]
    · rw [if_neg fun same => e (regAt_inj (by omega) (by omega) same), ih (by omega) (by omega)]

theorem planes_stamp (h : Hart) (d r : Reg) (t : VT) (vl : BitVec 16) (borg : BitVec 13) (prog k : Nat) :
    ((h.stamp d t vl borg prog k).vr r).planes = (h.vr r).planes := by
  induction k with
  | zero => rfl
  | succ k ih =>
    rw [stamp_succ, vr_putV]
    split
    · next e => rw [← e, ih]
    · exact ih

theorem bit_stamp (h : Hart) (d : Reg) (t : VT) (vl : BitVec 16) (borg : BitVec 13) (prog k : Nat) (r : Reg) (p i : Nat) :
    (h.stamp d t vl borg prog k).bit r p i = h.bit r p i := by
  unfold Hart.bit
  rw [planes_stamp]

/-- The group as a write leaves it before its copy. -/
def written (h : Hart) (d : Reg) (t : VT) (borg : BitVec 13) (prog : Nat) (ws : List (Nat × Nat)) : Hart :=
  (h.putElems d t.regs ws).stamp d t h.vl borg prog t.regs

@[simp] theorem written_copyReg (h : Hart) (d : Reg) (t : VT) (borg : BitVec 13) (prog : Nat) (ws : List (Nat × Nat)) :
    (written h d t borg prog ws).copyReg = h.copyReg := by
  unfold written
  rw [stamp_eq, putElems_eq]
  rfl

theorem writePart_alone {h : Hart} (alone : h.copyReg = none) (d : Reg) (t : VT) (borg : BitVec 13) (prog : Nat)
    (ws : List (Nat × Nat)) : h.writePart d t borg prog ws = written h d t borg prog ws := by
  show (written h d t borg prog ws).copyGroup d t.regs = _
  unfold Hart.copyGroup
  rw [written_copyReg, alone]

theorem vr_written_outside (h : Hart) {d r : Reg} (t : VT) (borg : BitVec 13) (prog : Nat) (ws : List (Nat × Nat))
    (outside : ∀ j < t.regs, r ≠ regAt d j) : (written h d t borg prog ws).vr r = h.vr r := by
  unfold written
  rw [vr_stamp_outside _ t _ borg prog outside, vr_putElems_outside h ws outside]

theorem foldl_putV_outside {e r : Reg} (f : Nat → VReg) (l : List Nat) (h : Hart) (outside : ∀ j ∈ l, r ≠ regAt e j) :
    (l.foldl (fun x j => x.putV (regAt e j) (f j)) h).vr r = h.vr r := by
  induction l generalizing h with
  | nil => rfl
  | cons a l ih =>
    rw [List.foldl_cons, ih _ fun j at_ => outside j (List.mem_cons_of_mem a at_), vr_putV,
      if_neg (outside a List.mem_cons_self)]

theorem foldl_putV_inside (e : Reg) (f : Nat → VReg) (h : Hart) {n j : Nat} (small : n ≤ 32) (lt : j < n) :
    ((List.range n).foldl (fun x j => x.putV (regAt e j) (f j)) h).vr (regAt e j) = f j := by
  induction n with
  | zero => omega
  | succ n ih =>
    rw [List.range_succ, List.foldl_concat, vr_putV]
    by_cases same : j = n
    · rw [same, if_pos rfl]
    · rw [if_neg fun at_ => same (regAt_inj (by omega) (by omega) at_), ih (by omega) (by omega)]

theorem copyGroup_of {h : Hart} {e : Reg} (copies : h.copyReg = some e) (d : Reg) (n : Nat) :
    h.copyGroup d n = (List.range n).foldl (fun x j => x.putV (regAt e j) (h.vr (regAt d j))) h := by
  unfold Hart.copyGroup
  rw [copies]

/-- A vector write reaches its destination group and the group of its copy, and no other register (R41, R103, R107). -/
theorem vr_writePart_outside (h : Hart) {d r : Reg} (t : VT) (borg : BitVec 13) (prog : Nat) (ws : List (Nat × Nat))
    (outside : ∀ j < t.regs, r ≠ regAt d j) (uncopied : ∀ e, h.copyReg = some e → ∀ j < t.regs, r ≠ regAt e j) :
    (h.writePart d t borg prog ws).vr r = h.vr r := by
  obtain alone | ⟨e, copies⟩ := Option.eq_none_or_eq_some h.copyReg
  · rw [writePart_alone alone, vr_written_outside h t borg prog ws outside]
  · show ((written h d t borg prog ws).copyGroup d t.regs).vr r = _
    rw [copyGroup_of ((written_copyReg ..).trans copies),
      foldl_putV_outside _ _ _ fun j at_ => uncopied e copies j (List.mem_range.mp at_),
      vr_written_outside h t borg prog ws outside]

/-! ### A result in whole numbers (R112, R113) -/

section
variable {t : VT} (fits : t.wd ≤ t.planes)
include fits

theorem testBit_spread {u : Nat} (lt : u < 2 ^ t.wd) (p : Nat) : (t.spread u).testBit p =
    if p < t.wd then u.testBit p else decide (p < t.planes) && (t.signed && u.testBit (t.wd - 1)) := by
  unfold VT.spread
  by_cases ones : (t.signed && u.testBit (t.wd - 1)) = true
  · have wide : u + (2 ^ t.planes - 2 ^ t.wd) = 2 ^ t.wd * (2 ^ (t.planes - t.wd) - 1) + u := by
      rw [Nat.mul_sub_one, ← Nat.pow_add, Nat.add_sub_cancel' fits, Nat.add_comm]
    rw [if_pos ones, wide, Nat.testBit_two_pow_mul_add _ lt, Nat.testBit_two_pow_sub_one, ones, Bool.and_true]
    split
    · rfl
    · exact decide_eq_decide.mpr (by omega)
  · rw [if_neg ones, Bool.eq_false_iff.mpr ones, Bool.and_false]
    split
    · rfl
    · exact Nat.testBit_lt_two_pow (lt.trans_le (Nat.pow_le_pow_right (by decide) (by omega)))

theorem spread_lt {u : Nat} (lt : u < 2 ^ t.wd) : t.spread u < 2 ^ t.planes := by
  refine Nat.lt_pow_two_of_testBit _ fun p above => ?_
  rw [testBit_spread fits lt, if_neg (by omega), decide_eq_false (by omega), Bool.false_and]

theorem spread_mod {u : Nat} (lt : u < 2 ^ t.wd) : t.spread u % 2 ^ t.wd = u := by
  refine Nat.eq_of_testBit_eq fun p => ?_
  rw [Nat.testBit_mod_two_pow, testBit_spread fits lt]
  by_cases low : p < t.wd
  · simp [low]
  · simp [low, Nat.testBit_lt_two_pow (lt.trans_le (Nat.pow_le_pow_right (by decide) (not_lt.mp low)))]

end

theorem trunc_lt (t : VT) (z : Int) : t.trunc z < 2 ^ t.wd := by
  have := Int.emod_lt_of_pos z (show (0 : Int) < 2 ^ t.wd by positivity)
  unfold VT.trunc
  zify
  rwa [Int.toNat_of_nonneg (Int.emod_nonneg z (by positivity))]

theorem trunc_cast (t : VT) (z : Int) : (t.trunc z : Int) = z % 2 ^ t.wd :=
  Int.toNat_of_nonneg (Int.emod_nonneg z (by positivity))

theorem lo_le_hi (t : VT) : t.lo ≤ t.hi := by
  unfold VT.lo VT.hi
  have half : (0 : Int) < 2 ^ (t.wd - 1) := by positivity
  have whole : (0 : Int) < 2 ^ t.wd := by positivity
  split <;> omega

/-- The value that R113 stores for y. -/
def clamped (t : VT) (y : Int) (clamp : Bool) : Int := if t.sat = true ∧ clamp = true then max t.lo (min y t.hi) else y

/-- A result is stored mod 2^wd, clamped and counted under SAT (R112, R113). -/
theorem wr_eq (t : VT) (y : Int) (clamp : Bool) : t.wr y clamp =
    { pat := t.spread (t.trunc (clamped t y clamp))
      count := if t.sat = true ∧ clamp = true ∧ (y < t.lo ∨ t.hi < y) then 1 else 0 } := by
  have := lo_le_hi t
  unfold VT.wr clamped
  by_cases on : t.sat = true ∧ clamp = true
  · obtain ⟨sat, clamps⟩ := on
    obtain low | high | inside : y < t.lo ∨ t.hi < y ∨ (t.lo ≤ y ∧ y ≤ t.hi) := by omega
    · simp [sat, clamps, low, low.le.trans this, low.le]
    · simp [sat, clamps, high, not_lt.mpr (this.trans high.le), high.le, max_eq_right this]
    · simp [sat, clamps, not_lt.mpr inside.1, not_lt.mpr inside.2, inside.1, inside.2]
  · have off : (t.sat && clamp) = false := by simpa using on
    rw [off, Bool.false_and, if_neg (by simp), if_neg on, if_neg fun k => on ⟨k.1, k.2.1⟩]

theorem testBit_top {u n : Nat} (lt : u < 2 ^ (n + 1)) : u.testBit n = decide (2 ^ n ≤ u) := by
  by_cases low : u < 2 ^ n
  · rw [Nat.testBit_lt_two_pow low, decide_eq_false (not_le.mpr low)]
  · obtain ⟨l, rfl⟩ : ∃ l, u = 2 ^ n + l := ⟨u - 2 ^ n, by omega⟩
    have rest : l < 2 ^ n := by rw [Nat.pow_succ] at lt; omega
    rw [Nat.testBit_two_pow_add_eq, Nat.testBit_lt_two_pow rest, decide_eq_true (by omega), Bool.not_false]

/-- A number in the range of vtype is the value of the pattern that stores it. -/
theorem extPat_trunc {t : VT} (pos : 1 ≤ t.wd) {z : Int} (low : t.lo ≤ z) (high : z ≤ t.hi) :
    extPat t.signed (t.trunc z) t.wd = z := by
  obtain ⟨n, wide⟩ : ∃ n, t.wd = n + 1 := ⟨t.wd - 1, by omega⟩
  have cast := trunc_cast t z
  have lt := trunc_lt t z
  unfold VT.lo at low
  unfold VT.hi at high
  unfold extPat
  rw [wide] at low high cast lt ⊢
  rw [Nat.add_sub_cancel] at low high ⊢
  cases sign : t.signed
  · rw [sign, if_neg (by decide)] at low high
    rw [Bool.false_and, if_neg (by decide), cast, Int.emod_eq_of_lt low (by omega)]
  · rw [sign, if_pos rfl] at low high
    rw [Bool.true_and, testBit_top lt]
    have half : (2 : Int) ^ (n + 1) = 2 * 2 ^ n := by ring
    have top : 2 ^ n ≤ t.trunc z ↔ (2 : Int) ^ n ≤ (t.trunc z : Int) := by exact_mod_cast Iff.rfl
    simp only [decide_eq_true_eq, top]
    by_cases neg : z < 0
    · have shifted : z % 2 ^ (n + 1) = z + 2 ^ (n + 1) := by
        rw [← Int.add_emod_right, Int.emod_eq_of_lt (by omega) (by omega)]
      rw [cast, shifted, if_pos (by omega)]
      omega
    · rw [cast, Int.emod_eq_of_lt (by omega) (by omega), if_neg (by omega)]

/-! ### Counts and exceptions (R70, R166 to R168) -/

theorem countSat_count (h : Hart) (n : Nat) : (h.countSat n).satCount.toNat = min (h.satCount.toNat + n) (2 ^ 32 - 1) := by
  show (BitVec.ofNat 32 (min (h.satCount.toNat + n) 0xFFFFFFFF)).toNat = _
  rw [BitVec.toNat_ofNat]
  omega

theorem getLsbD_boolBit (b : Bool) (i : Nat) : (boolBit b).getLsbD i = (decide (i = 0) && b) := by
  unfold boolBit
  cases b <;> simp [Bool.and_comm]

/-- The exceptions stand in Table 3.8's order. -/
theorem getLsbD_bits (e : Exc) (j : Nat) : e.bits.getLsbD j = [e.nv, e.dz, e.of, e.uf, e.nx].getD j false := by
  by_cases lt : j < 5
  · unfold Exc.bits
    simp only [BitVec.getLsbD_append, getLsbD_boolBit]
    interval_cases j <;> simp
  · rw [BitVec.getLsbD_of_ge _ _ (by omega), List.getD_eq_default _ _ (by simpa using lt)]

theorem fflagsScalar_bit (f : BitVec 13) (e : Exc) (j : Nat) :
    (fflagsScalar f e).getLsbD j = (f.getLsbD j || [e.nv, e.dz, e.of, e.uf, e.nx].getD j false) := by
  unfold fflagsScalar
  rw [BitVec.getLsbD_or, BitVec.getLsbD_setWidth, getLsbD_bits]
  by_cases lt : j < 13
  · simp [lt]
  · rw [List.getD_eq_default _ _ (show 5 ≤ j by omega), Bool.and_false]

theorem fflagsVector_bit (f : BitVec 13) (e : Exc) (j : Nat) :
    (fflagsVector f e).getLsbD j =
      (f.getLsbD j || (decide (8 ≤ j) && [e.nv, e.dz, e.of, e.uf, e.nx].getD (j - 8) false)) := by
  unfold fflagsVector
  rw [BitVec.getLsbD_or, BitVec.getLsbD_shiftLeft, BitVec.getLsbD_setWidth, getLsbD_bits]
  by_cases lt : j < 13
  · by_cases group : 8 ≤ j
    · simp [lt, group, not_lt.mpr group, show j - 8 < 13 by omega]
    · simp [group]
  · rw [List.getD_eq_default _ _ (show 5 ≤ j - 8 by omega)]
    simp only [Bool.and_false]

/-! ### The laws -/

theorem wr_laws {t : VT} (y : Int) (clamp : Bool) (pos : 1 ≤ t.wd) (fits : t.wd ≤ t.planes) :
    let e := t.wr y clamp
    let z := clamped t y clamp
    (e.pat % 2 ^ t.wd : Nat) = z % 2 ^ t.wd ∧
    (t.lo ≤ z → z ≤ t.hi → extPat t.signed (e.pat % 2 ^ t.wd) t.wd = z) ∧
    (∀ p, t.wd ≤ p → p < t.planes → e.pat.testBit p = (t.signed && e.pat.testBit (t.wd - 1))) ∧
    e.pat < 2 ^ t.planes ∧ e.exc = .none ∧
    e.count = if t.sat = true ∧ clamp = true ∧ (y < t.lo ∨ t.hi < y) then 1 else 0 := by
  have lt := trunc_lt t (clamped t y clamp)
  have low := spread_mod fits lt
  dsimp only
  rw [wr_eq]
  refine ⟨?_, fun above below => ?_, fun p outside inside => ?_, spread_lt fits lt, rfl, rfl⟩
  · rw [low, trunc_cast]
  · rw [low, extPat_trunc pos above below]
  · rw [testBit_spread fits lt, testBit_spread fits lt, if_neg (by omega), if_pos (by omega), decide_eq_true inside,
      Bool.true_and]

theorem written_group {h : Hart} {d : Reg} {t : VT} {borg : BitVec 13} {ws : List (Nat × Nat)} (ig : t.ig ≤ 2)
    (aligned : d.toNat % t.regs = 0) (alone : h.copyReg = none) (once : (ws.map (fun w => w.1)).Nodup)
    (bounds : ∀ w ∈ ws, w.1 < 32768 ∧ w.2 < 2 ^ t.planes) :
    let y := h.writeGroup d t borg ws
    (∀ w ∈ ws, y.pat d w.1 t.planes = w.2) ∧
    (∀ i, i ∉ ws.map (fun w => w.1) → ∀ r p, y.bit r p i = h.bit r p i) ∧
    (∀ r : Reg, (r.toNat < d.toNat ∨ d.toNat + t.regs ≤ r.toNat) → y.vr r = h.vr r) ∧
    (∀ j, j < t.regs → (y.vr (regAt d j)).desc = (h.vr (regAt d j)).desc.stamp t h.vl borg (progOf h.vl) j) := by
  have eq : h.writeGroup d t borg ws = written h d t borg (progOf h.vl) ws := writePart_alone alone ..
  have small := regs_le ig
  dsimp only
  rw [eq]
  refine ⟨fun w listed => ?_, fun i unlisted r p => ?_, fun r outside => ?_, fun j lt => ?_⟩
  · obtain ⟨elem, pattern⟩ := bounds w listed
    have bits : ∀ p < t.planes, (written h d t borg (progOf h.vl) ws).bit d p w.1 = w.2.testBit p :=
      fun p lt => (bit_stamp ..).trans (bit_putElems_listed h d small once listed elem lt)
    rw [pat_eq bits, Nat.mod_eq_of_lt pattern]
  · exact (bit_stamp ..).trans (bit_putElems_unlisted h d _ unlisted r p)
  · refine vr_written_outside h t borg _ ws fun j lt same => ?_
    rw [same, regAt_toNat ig aligned lt] at outside
    omega
  · unfold written
    rw [vr_stamp_inside _ d t _ borg _ small lt, desc_putElems]

theorem putElem_pfxLive (h : Hart) (b : Bool) (n : Reg) (i u k : Nat) :
    { h with pfxLive := b }.putElem n i u k = { h.putElem n i u k with pfxLive := b } := by
  induction k with
  | zero => rfl
  | succ k ih => rw [putElem_succ, ih]; rfl

theorem putElems_pfxLive (h : Hart) (b : Bool) (d : Reg) (n : Nat) (ws : List (Nat × Nat)) :
    { h with pfxLive := b }.putElems d n ws = { h.putElems d n ws with pfxLive := b } := by
  induction ws generalizing h with
  | nil => rfl
  | cons w ws ih => rw [putElems_cons, putElem_pfxLive, ih]; rfl

theorem stamp_pfxLive (h : Hart) (b : Bool) (d : Reg) (t : VT) (vl : BitVec 16) (borg : BitVec 13) (prog k : Nat) :
    { h with pfxLive := b }.stamp d t vl borg prog k = { h.stamp d t vl borg prog k with pfxLive := b } := by
  induction k with
  | zero => rfl
  | succ k ih => rw [stamp_succ, ih]; rfl

/-- With no PFX before it an instruction leaves the same group, and copies nothing. -/
theorem vr_writeGroup_unprefixed (h : Hart) (d : Reg) (t : VT) (borg : BitVec 13) (ws : List (Nat × Nat)) (r : Reg) :
    ({ h with pfxLive := false }.writeGroup d t borg ws).vr r = (written h d t borg (progOf h.vl) ws).vr r := by
  have alone : { h with pfxLive := false }.copyReg = none := rfl
  unfold Hart.writeGroup
  rw [writePart_alone alone]
  unfold written
  rw [putElems_pfxLive, stamp_pfxLive]
  rfl

theorem copied_group {h : Hart} {d e : Reg} {t : VT} {borg : BitVec 13} {ws : List (Nat × Nat)} (ig : t.ig ≤ 2)
    (hd : d.toNat % t.regs = 0) (he : e.toNat % t.regs = 0) (copies : h.copyReg = some e) :
    let y := h.writeGroup d t borg ws
    let z := { h with pfxLive := false }.writeGroup d t borg ws
    (∀ j, j < t.regs → y.vr (regAt e j) = z.vr (regAt d j) ∧ y.vr (regAt d j) = z.vr (regAt d j)) ∧
    (∀ r : Reg, (∀ j, j < t.regs → r ≠ regAt d j ∧ r ≠ regAt e j) → y.vr r = h.vr r) := by
  have small := regs_le ig
  have eq : h.writeGroup d t borg ws = (List.range t.regs).foldl
      (fun x j => x.putV (regAt e j) ((written h d t borg (progOf h.vl) ws).vr (regAt d j)))
      (written h d t borg (progOf h.vl) ws) :=
    copyGroup_of ((written_copyReg ..).trans copies) d t.regs
  simp only [vr_writeGroup_unprefixed]
  refine ⟨fun j lt => ?_, fun r outside => ?_⟩
  · rw [eq]
    refine ⟨foldl_putV_inside e _ _ small lt, ?_⟩
    by_cases same : d = e
    · subst same
      exact foldl_putV_inside d _ _ small lt
    · exact foldl_putV_outside _ _ _ fun k at_ shared =>
        same (eq_of_regAt_eq ig hd he lt (List.mem_range.mp at_) shared).1
  · exact vr_writePart_outside h t borg _ ws (fun j lt => (outside j lt).1) fun e' copies' j lt => by
      cases copies.symm.trans copies'
      exact (outside j lt).2

end Sys2Proof.Proofs.Planes

namespace Sys2Proof.Proofs
open Sys2Proof Sys2Proof.Machine Sys2Proof.Laws Planes

/-- Settles O27: the law of one result, then what a write does to the planes, the descriptors and the copy of its group,
and then the counts and exceptions. -/
theorem vectorWriteLaws : Obligations.VectorWriteLaws := by
  refine ⟨fun t y clamp pos fits _ => wr_laws y clamp pos fits, fun h d t borg ws ig aligned alone once bounds => ?_,
    fun h d e t borg ws => copied_group, fun h n => ⟨countSat_count h n, ?_, rfl⟩,
    fun f e j => ⟨fflagsScalar_bit f e j, fflagsVector_bit f e j⟩⟩
  · obtain ⟨listed, unlisted, outside, desc⟩ := written_group (borg := borg) ig aligned alone once bounds
    exact ⟨listed, unlisted, outside, desc, writeGroup_eq ..⟩
  · simp [Hart.countSat]

end Sys2Proof.Proofs
end
section
/-! PROOF. Integer and floating vector instructions (R119, R126 to R131, R174 to R177, R184). -/

namespace Sys2Proof.Proofs.Elements
open Sys2Proof Sys2Proof.Machine Sys2Proof.Laws

/-! ### Every such instruction is one run of its specification -/

/-- What a vector instruction writes to its group, with the exceptions that it records once. -/
def results (v : VecSpec) (h : Hart) : VecOut :=
  let o := h.frame h.vt v.mask v.all v.elem
  { o with exc := v.exc0.or o.exc }

/-- A vector instruction that reads `rs` of the lane SRAM: nothing with vl = 0, then its checks, then its results. -/
def run (s : State) (v : VecSpec) (rs : List LaneRead) : Out :=
  if s.me.vl = 0 then s.emptyVl
  else
    match s.me.vcheck v.kindOk (s.me.vt.groups (v.d :: v.srcs)) (some s.me.vt.regs) s.me.startOk with
    | some (c, x) => s.trap c x
    | none => s.vecDone v.d s.me.vt v.borg rs (results v s.me)

theorem results_of_none {v : VecSpec} (none : v.exc0 = .none) (h : Hart) :
    results v h = h.frame h.vt v.mask v.all v.elem := by
  unfold results
  simp [none, Exc.or, Exc.none]

theorem map_srcs (l : List Reg) (w : Nat) : (l.map fun n => (n, w)).map (fun r => r.1) = l := by
  simp [Function.comp_def]

theorem vframe_eq (s : State) (kindOk : VT → Bool) (d : Reg) (srcs : List Reg) (k : KReg) (all : Bool) (borg : BitVec 13)
    (rs : Hart → VT → List LaneRead) (f : Hart → VT → Nat → Elem) :
    s.vframe kindOk d srcs k all borg rs f =
      run s ⟨kindOk s.me.vt, d, srcs, k, all, borg, .none, f s.me s.me.vt⟩ (rs s.me s.me.vt) := by
  unfold run
  rw [results_of_none rfl]
  rfl

theorem vint_eq (s : State) (kindOk : VT → Bool) (d : Reg) (srcs : List (Reg × Nat)) (k : KReg) (borg : BitVec 13)
    (f : Hart → VT → Nat → Elem) :
    s.vint kindOk d srcs k borg f =
      run s { plainSpec (kindOk s.me.vt) d (srcs.map fun r => r.1) k (f s.me s.me.vt) with borg := borg }
        (s.me.bodyReads k srcs) := vframe_eq ..

/-- An integer instruction of sources a and b. -/
theorem vint_ab (s : State) (d a : Reg) (b : BSrc) (k : KReg) (f : Hart → VT → Nat → Elem) :
    s.vint VT.isInt d (s.abSrcs a b) k 0 f =
      run s (plainSpec s.me.vt.isInt d (a :: (bVec b).toList) k (f s.me s.me.vt)) (s.me.bodyReads k (s.abSrcs a b)) := by
  rw [vint_eq, State.abSrcs, State.bSrc, List.map_cons, map_srcs]
  rfl

/-- rne(x / 2^s) of the model is the nearest integer, ties to even (R127, R128). -/
theorem rneShift_eq (x : Int) (s : Nat) : rneShift x s = nearestEven x s := by
  unfold rneShift nearestEven
  cases s with
  | zero => simp
  | succ n =>
    have half : (2 : Int) ^ (n + 1) = 2 * 2 ^ n := by ring
    simp only [Nat.add_one_ne_zero, if_false, Nat.add_sub_cancel, half]
    congr 1
    simp only [eq_iff_iff]
    omega

/-- What the model makes of a product for VMULQ. -/
def mulq (t : VT) (x : Int) : Int :=
  if 0 < t.mulqShift then rneShift x t.mulqShift.toNat else x * 2 ^ (-t.mulqShift).toNat

/-- It is the product shifted by wa + wb − wd, less 1 for SINT, and rounded (R127). -/
theorem mulq_eq (t : VT) (x : Int) : mulq t x =
    let n : Int := t.wa + t.wb - t.wd - (if t.signed then 1 else 0)
    if 0 ≤ n then nearestEven x n.toNat else x * 2 ^ (-n).toNat := by
  show mulq t x = if 0 ≤ t.mulqShift then nearestEven x t.mulqShift.toNat else x * 2 ^ (-t.mulqShift).toNat
  unfold mulq
  obtain pos | zero | neg := lt_trichotomy 0 t.mulqShift
  · rw [if_pos pos, if_pos pos.le, rneShift_eq]
  · rw [← zero, ← rneShift_eq]
    simp [rneShift]
  · rw [if_neg neg.not_gt, if_neg neg.not_ge]

theorem pat_lt (h : Hart) (n : Reg) (i w : Nat) : h.pat n i w < 2 ^ w := by
  induction w with
  | zero => simp [Hart.pat]
  | succ w ih =>
    rw [Hart.pat, Nat.pow_succ]
    split <;> omega

theorem wa_pos (h : Hart) : 0 < h.vt.wa := Nat.mul_pos (Nat.succ_pos _) (by positivity)

theorem two_pow_xor {n l : Nat} (lt : l < 2 ^ n) : 2 ^ n ^^^ l = 2 ^ n + l := by
  have apart := Nat.two_pow_add_eq_or_of_lt lt 1
  rw [Nat.mul_one] at apart
  refine Nat.eq_of_testBit_eq fun j => ?_
  rw [apart, Nat.testBit_xor, Nat.testBit_or, Nat.testBit_two_pow]
  by_cases e : n = j
  · subst e
    rw [Nat.testBit_lt_two_pow lt]
    simp
  · simp [e]

/-- Inverting the top bit of a pattern takes its weight away or adds it (R176). -/
theorem xor_top {u w : Nat} (pos : 0 < w) (lt : u < 2 ^ w) :
    u ^^^ 2 ^ (w - 1) = if u.testBit (w - 1) then u - 2 ^ (w - 1) else u + 2 ^ (w - 1) := by
  obtain ⟨n, rfl⟩ : ∃ n, w = n + 1 := ⟨w - 1, by omega⟩
  rw [Nat.add_sub_cancel]
  by_cases top : u < 2 ^ n
  · rw [Nat.testBit_lt_two_pow top, if_neg (by decide), Nat.xor_comm, two_pow_xor top, Nat.add_comm]
  · obtain ⟨l, rfl⟩ : ∃ l, u = 2 ^ n + l := ⟨u - 2 ^ n, by omega⟩
    have low : l < 2 ^ n := by rw [Nat.pow_succ] at lt; omega
    rw [Nat.testBit_two_pow_add_eq, Nat.testBit_lt_two_pow low, Bool.not_false, if_pos rfl, Nat.add_sub_cancel_left,
      ← two_pow_xor low, Nat.xor_comm, ← Nat.xor_assoc, Nat.xor_self, Nat.zero_xor]

/-- An integer instruction of source a alone. -/
theorem vint_a (s : State) (d a : Reg) (k : KReg) (f : Hart → VT → Nat → Elem) :
    s.vint VT.isInt d [(a, s.me.vt.wa)] k 0 f =
      run s (plainSpec s.me.vt.isInt d [a] k (f s.me s.me.vt)) (s.me.bodyReads k [(a, s.me.vt.wa)]) := vint_eq ..

theorem vbin_eq (s : State) (d a : Reg) (b : BSrc) (k : KReg) (f : VT → IntArgs → Int) :
    s.vbin d a b k f = run s (plainSpec s.me.vt.isInt d (a :: (bVec b).toList) k
      (fun i => s.me.vt.wr (f s.me.vt (s.me.intArgs s.me.vt d a b i)) true)) (s.me.bodyReads k (s.abSrcs a b)) :=
  vint_ab ..

theorem vbits_eq (s : State) (d a : Reg) (b : BSrc) (k : KReg) (f : Nat → Nat → Nat) :
    s.vbits d a b k f = run s (plainSpec s.me.vt.isInt d (a :: (bVec b).toList) k (fun i =>
      let x := s.me.intArgs s.me.vt d a b i
      s.me.vt.put (f (s.me.vt.trunc x.a) (s.me.vt.trunc x.b)))) (s.me.bodyReads k (s.abSrcs a b)) :=
  vint_ab ..

theorem vshift_eq (s : State) (d a : Reg) (b : BSrc) (k : KReg) (f : VT → Nat → Nat → Int) :
    s.vshift d a b k f = run s (plainSpec s.me.vt.isInt d (a :: (bVec b).toList) k (fun i =>
      s.me.vt.wr (f s.me.vt (s.me.pat a i s.me.vt.wa) (s.me.shiftAmount s.me.vt b i)) true))
      (s.me.bodyReads k (s.abSrcs a b)) :=
  vint_ab ..

theorem exec_vint {s : State} {i : Instr} {v : VecSpec} (spec : vintSpec s i = some v) : ∃ rs, exec i s = run s v rs := by
  cases i with
  | vadd d a b m => cases spec; exact ⟨_, (vbin_eq s d a b m fun _ x => x.a + x.b :)⟩
  | vsub d a b m => cases spec; exact ⟨_, (vbin_eq s d a b m fun _ x => x.a - x.b :)⟩
  | vrsub d a b m => cases spec; exact ⟨_, (vbin_eq s d a b m fun _ x => x.b - x.a :)⟩
  | vmul d a b m => cases spec; exact ⟨_, (vbin_eq s d a b m fun _ x => x.a * x.b :)⟩
  | vmulh d a b m => cases spec; exact ⟨_, (vbin_eq s d a b m fun t x => x.a * x.b / 2 ^ t.wd :)⟩
  | vmulq d a b m =>
    cases spec
    simp only [← mulq_eq]
    exact ⟨_, (vbin_eq s d a b m fun t x => mulq t (x.a * x.b) :)⟩
  | vmac d a b m =>
    cases spec
    have same := vint_eq s VT.isInt d (s.abSrcs a b ++ [(d, s.me.vt.wd)]) m 0 fun h t i =>
      t.wr ((h.intArgs t d a b i).d + (h.intArgs t d a b i).a * (h.intArgs t d a b i).b) true
    rw [State.abSrcs, List.cons_append, List.map_cons, List.map_append, State.bSrc, map_srcs] at same
    exact ⟨_, same⟩
  | vmin d a b m =>
    cases spec
    exact ⟨_, (vbin_eq s d a b m fun t x => min (extPat true x.ap t.wa) (extPat true x.bp t.wb) :)⟩
  | vmax d a b m =>
    cases spec
    exact ⟨_, (vbin_eq s d a b m fun t x => max (extPat true x.ap t.wa) (extPat true x.bp t.wb) :)⟩
  | vminu d a b m => cases spec; exact ⟨_, (vbin_eq s d a b m fun _ x => (min x.ap x.bp : Nat) :)⟩
  | vmaxu d a b m => cases spec; exact ⟨_, (vbin_eq s d a b m fun _ x => (max x.ap x.bp : Nat) :)⟩
  | vand d a b m => cases spec; exact ⟨_, (vbits_eq s d a b m fun x y => x &&& y :)⟩
  | vor d a b m => cases spec; exact ⟨_, (vbits_eq s d a b m fun x y => x ||| y :)⟩
  | vxor d a b m => cases spec; exact ⟨_, (vbits_eq s d a b m fun x y => x ^^^ y :)⟩
  | vsll d a b m => cases spec; exact ⟨_, (vshift_eq s d a b m fun t u n => extPat t.signed u t.wa * 2 ^ n :)⟩
  | vsrl d a b m => cases spec; exact ⟨_, (vshift_eq s d a b m fun _ u n => (u / 2 ^ n : Nat) :)⟩
  | vsra d a b m => cases spec; exact ⟨_, (vshift_eq s d a b m fun t u n => extPat true u t.wa / 2 ^ n :)⟩
  | vrsh d a b m =>
    cases spec
    simp only [← rneShift_eq]
    exact ⟨_, (vshift_eq s d a b m fun t u n => rneShift (extPat t.signed u t.wa) n :)⟩
  | vsat d a m =>
    cases spec
    exact ⟨_, (vint_a s d a m fun h t i => { t with sat := true }.wr (h.rd t a i t.wa) true :)⟩
  | vabs d a m =>
    cases spec
    simp only [← Int.natCast_natAbs]
    exact ⟨_, (vint_a s d a m fun h t i => t.wr (h.rd t a i t.wa).natAbs true :)⟩
  | vid d m => cases spec; exact ⟨_, (vint_eq s VT.isInt d [] m 0 fun _ t i => t.wr i true :)⟩
  | vmerge d a b m =>
    cases spec
    exact ⟨_, (show execVmerge d a b m s = _ from vframe_eq ..).trans rfl⟩
  | vmv d b m =>
    cases spec
    have same := vint_eq s (fun _ => true) d (s.bSrc b) m (match bVec b with
      | some n => (s.me.vr n).desc.borg
      | none => 0) fun h t i => t.wr (h.bval t b i) false
    rw [State.bSrc, map_srcs] at same
    cases b <;> exact ⟨_, same⟩
  | vplanes d a u p m =>
    cases spec
    show ∃ rs, execVplanes d a u p m s = _
    unfold execVplanes
    dsimp only
    rw [vframe_eq]
    exact ⟨_, rfl⟩
  | _ => cases spec

/-- A floating result by its pattern and its exceptions. -/
def fpElem (t : VT) (r : Nat × Exc) : Elem := { t.put r.1 with exc := r.2 }

theorem vfp_eq (s : State) (d : Reg) (srcs : List (Reg × Nat)) (k : KReg) (e : Exc) (f : Hart → VT → Nat → Nat × Exc) :
    s.vfp d srcs k e f =
      run s { plainSpec s.me.vt.isFp d (srcs.map fun r => r.1) k (fun i => fpElem s.me.vt (f s.me s.me.vt i)) with exc0 := e }
        (s.me.bodyReads k srcs) := rfl

theorem vfun_eq (s : State) (op : FOp) (d a : Reg) (k : KReg) :
    s.vfun op d a k = run s (plainSpec s.me.vt.isFp d [a] k fun i =>
      fpElem s.me.vt (fpOp s.me.vt.fmt .rne op (s.me.pat a i s.me.vt.wa) 0 0)) (s.me.bodyReads k [(a, s.me.vt.wa)]) := rfl

theorem vfbin_vec (s : State) (op : FOp) (d a n : Reg) (k : KReg) (acc : Bool) :
    ∃ rs, s.vfbin op d a (.vec n) k acc =
      run s (plainSpec s.me.vt.isFp d (a :: n :: if acc then [d] else []) k fun i =>
        fpElem s.me.vt (fpOp s.me.vt.fmt .rne op (s.me.pat a i s.me.vt.wa) (s.me.pat n i s.me.vt.wb)
          (if acc then s.me.pat d i s.me.vt.wd else 0))) rs := by
  unfold State.vfbin
  cases acc <;> exact ⟨_, vfp_eq ..⟩

theorem vfbin_scalar (s : State) (op : FOp) (d a r : Reg) (k : KReg) (acc : Bool) :
    ∃ rs, s.vfbin op d a (.scalar r) k acc =
      run s { plainSpec s.me.vt.isFp d (a :: if acc then [d] else []) k fun i =>
        fpElem s.me.vt (fpOp s.me.vt.fmt .rne op (s.me.pat a i s.me.vt.wa) (s.me.fscalar s.me.vt r).1
          (if acc then s.me.pat d i s.me.vt.wd else 0)) with exc0 := (s.me.fscalar s.me.vt r).2 } rs := by
  unfold State.vfbin
  cases acc <;> exact ⟨_, vfp_eq ..⟩

theorem exec_vfp {s : State} {i : Instr} {v : VecSpec} (spec : vfpSpec s i = some v) : ∃ rs, exec i s = run s v rs := by
  cases i with
  | vfadd d a b m | vfsub d a b m | vfmul d a b m | vfdiv d a b m | vfmin d a b m | vfmax d a b m | vffma d a b m =>
    cases b with
    | vec n => cases spec; exact vfbin_vec s _ d a n m _
    | scalar r => cases spec; exact vfbin_scalar s _ d a r m _
  | vfsqrt d a m | vfexp2 d a m | vfrcp d a m =>
    cases spec
    exact ⟨_, vfun_eq s _ d a m⟩
  | vfabs d a m =>
    cases spec
    exact ⟨_, (vfp_eq s d [(a, s.me.vt.wa)] m .none fun h t i => (h.pat a i t.wa % 2 ^ (t.wa - 1), .none) :)⟩
  | vfneg d a m =>
    cases spec
    simp only [← xor_top (wa_pos s.me) (pat_lt s.me a _ _)]
    exact ⟨_, (vfp_eq s d [(a, s.me.vt.wa)] m .none fun h t i => (h.pat a i t.wa ^^^ 2 ^ (t.wa - 1), .none) :)⟩
  | _ => cases spec

theorem exec_vector {s : State} {i : Instr} {v : VecSpec} (spec : vintSpec s i = some v ∨ vfpSpec s i = some v) :
    ∃ rs, exec i s = run s v rs := spec.elim exec_vint exec_vfp

/-! ### An instruction that may execute completes (R119, R126, R175) -/

theorem find_none_of_aligned {h : Hart} {t : VT} {rs : List Reg} {dest : Option Nat}
    (groups : ∀ r ∈ rs, r.toNat % t.regs = 0) (copy : ∀ n, dest = some n → ∀ d, h.copyReg = some d → d.toNat % n = 0) :
    h.misaligned (t.groups rs) dest = none := by
  unfold Hart.misaligned VT.groups
  rw [Option.map_eq_none_iff, List.find?_eq_none]
  intro g at_
  rw [List.mem_append] at at_
  obtain own | copied := at_
  · obtain ⟨r, named, rfl⟩ := List.mem_map.mp own
    simp [groups r named]
  · split at copied
    · next d2 n reg =>
      rw [List.mem_singleton] at copied
      subst copied
      simp [copy n rfl d2 reg]
    · cases copied

theorem vcheck_of_ready {h : Hart} {kindOk : Bool} {rs : List Reg} (ready : h.VectorReady kindOk rs true) :
    h.vcheck kindOk (h.vt.groups rs) (some h.vt.regs) h.startOk = none := by
  obtain ⟨_, legal, kind, aligned, copy, start, _⟩ := ready
  unfold Hart.vcheck
  have start : h.startOk = true := decide_eq_true start
  have groups : h.misaligned (h.vt.groups rs) (some h.vt.regs) = none :=
    find_none_of_aligned aligned fun n e d reg => by cases e; exact copy rfl d reg
  have ill : h.vt.ill = false := legal
  rw [ill, kind, groups, start]
  rfl

theorem laneHit_unmarked (rs : List LaneRead) : laneHit [] rs = none := rfl

theorem run_of_ready {s : State} {v : VecSpec} (rs : List LaneRead) (ready : s.me.VectorReady v.kindOk (v.d :: v.srcs) true) :
    run s v rs = .next (s.setMe (v.after s.me).advance) := by
  unfold run
  rw [if_neg ready.vl, vcheck_of_ready ready]
  dsimp only
  unfold State.vecDone
  rw [ready.marks, laneHit_unmarked]
  rfl

end Sys2Proof.Proofs.Elements

namespace Sys2Proof.Proofs
open Sys2Proof Sys2Proof.Machine Sys2Proof.Laws Elements

/-- Settles O28: each instruction is one run of its specification, and a run that may execute completes with its results. -/
theorem vectorElementResults : Obligations.VectorElementResults := by
  intro s i v spec ready
  obtain ⟨rs, runs⟩ := exec_vector spec
  rw [runs, run_of_ready rs ready]

end Sys2Proof.Proofs
end
section
/-! PROOF. What integer and floating vector instructions leave (R107, R126, R131, R175, R343). -/

namespace Sys2Proof.Proofs.Elements
open Sys2Proof Sys2Proof.Machine Sys2Proof.Laws Planes Traps

/-! ### The rest of the machine -/

/-- Between s and t only the executing hart has changed, among harts, store queues and memory. -/
structure Frame (s t : State) : Prop where
  memory : s.sameMemory t
  queues : s.sameQueues t
  others : s.sameOthers t
  cur : t.cur = s.cur

theorem Frame.trans {s t u : State} (first : Frame s t) (second : Frame t u) : Frame s u where
  memory a := (second.memory a).trans (first.memory a)
  queues c := (second.queues c).trans (first.queues c)
  others g other := (second.others g (first.cur ▸ other)).trans (first.others g other)
  cur := second.cur.trans first.cur

theorem frame_setMe (s : State) (x : Hart) : Frame s (s.setMe x) :=
  ⟨fun _ => rfl, fun _ => rfl, fun _ other => hart_setHart_ne s x other, rfl⟩

theorem frame_step1 (s : State) : Frame s s.step1 := ⟨fun _ => rfl, fun _ => rfl, fun _ _ => rfl, rfl⟩

theorem frame_trapHart {s : State} (inh : s.me.inh = false) (c : BitVec 7) (v e : Word) :
    Frame s (s.trapHart s.cur c v e) where
  memory a := by rw [trapHart_mem]
  queues c := by rw [core_congr (trapHart_enter_cores s s.cur _ v e inh)]
  others g other := trapHart_other s s.cur g c v e inh other
  cur := trapHart_cur ..

/-! ### The registers of the hart -/

/-- The registers of a hart that no integer or floating vector instruction writes. -/
def bystanders (h : Hart) := (h.x, h.f, h.k, h.q, h.shadow, h.vl, h.vtype, h.avl, h.sidx)

/-- From x to y the hart keeps these registers, and the vector registers outside group d and its copy. -/
structure Keeps (d : Reg) (x y : Hart) : Prop where
  bystanders : bystanders y = bystanders x
  vectors : ∀ r : Reg, (∀ j, j < x.vt.regs → r ≠ regAt d j ∧ ∀ d2, x.copyReg = some d2 → r ≠ regAt d2 j) →
    y.vr r = x.vr r

theorem Keeps.congr {d : Reg} {x y z : Hart} (keeps : Keeps d x y) (same : Elements.bystanders z = Elements.bystanders y)
    (v : z.v = y.v) : Keeps d x z where
  bystanders := same.trans keeps.bystanders
  vectors r outside := by
    rw [← keeps.vectors r outside]
    unfold Hart.vr
    rw [v]

theorem keeps_refl (d : Reg) (x : Hart) : Keeps d x x := ⟨rfl, fun _ _ => rfl⟩

theorem keeps_writePart (h : Hart) (d : Reg) (borg : BitVec 13) (prog : Nat) (ws : List (Nat × Nat)) :
    Keeps d h (h.writePart d h.vt borg prog ws) where
  bystanders := by rw [writePart_eq]; rfl
  vectors r outside := vr_writePart_outside h h.vt borg prog ws (fun j lt => (outside j lt).1)
    fun e copies j lt => (outside j lt).2 e copies

theorem bystanders_advance (h : Hart) : bystanders h.advance = bystanders h := by
  unfold bystanders
  simp

theorem Keeps.advance {d : Reg} {x y : Hart} (keeps : Keeps d x y) : Keeps d x y.advance :=
  keeps.congr (bystanders_advance y) (advance_v y)

/-! ### A run of an instruction -/

theorem trap_leaves {s t : State} {d : Reg} {x : Hart} {c : BitVec 7} {v : Word} (inh : s.me.inh = false)
    (keeps : Keeps d x s.me) (traps : s.trap c v = .next t) : Frame s t ∧ Keeps d x t.me := by
  cases traps
  refine ⟨frame_trapHart inh .., ?_⟩
  rw [me_eq, trapHart_cur, trapHart_enter_hart s s.cur c v _ inh]
  exact keeps.congr rfl rfl

theorem finish_leaves {s t : State} {d : Reg} {f : Hart → Hart} (keeps : Keeps d s.me (f s.me)) (ends : s.finish f = .next t) :
    Frame s t ∧ Keeps d s.me t.me := by
  cases ends
  exact ⟨frame_setMe .., by rw [me_setMe]; exact keeps.advance⟩

/-- A trap in a state in which the executing hart has taken registers of its own. -/
theorem trap_setMe_leaves {s t : State} {d : Reg} {x : Hart} {c : BitVec 7} {v : Word} (inh : x.inh = false)
    (keeps : Keeps d s.me x) (traps : (s.setMe x).step1.trap c v = .next t) : Frame s t ∧ Keeps d s.me t.me := by
  have me : (s.setMe x).step1.me = x := me_setMe s x
  rw [← me] at inh keeps
  obtain ⟨frame, kept⟩ := trap_leaves inh keeps traps
  exact ⟨((frame_setMe s x).trans (frame_step1 _)).trans frame, kept⟩

theorem keeps_stopWrite (h : Hart) (d : Reg) (borg : BitVec 13) (g : Nat) (ws : List (Nat × Nat)) :
    Keeps d h (h.stopWrite d h.vt borg g ws) := by
  unfold Hart.stopWrite
  split
  · exact (keeps_refl d h).congr rfl rfl
  · exact (keeps_writePart h d borg g ws).congr rfl rfl

theorem stopWrite_inh (h : Hart) (d : Reg) (t : VT) (borg : BitVec 13) (g : Nat) (ws : List (Nat × Nat)) :
    (h.stopWrite d t borg g ws).inh = h.inh := by
  unfold Hart.stopWrite
  split
  · rfl
  · rw [writePart_eq]
    rfl

theorem vecStop_leaves {s t : State} {d : Reg} {borg : BitVec 13} {o : VecOut} {i : Nat} {m : LaneMark}
    (inh : s.me.inh = false) (stops : s.vecStop d s.me.vt borg o i m = .next t) : Frame s t ∧ Keeps d s.me t.me :=
  trap_setMe_leaves ((stopWrite_inh ..).trans inh) (keeps_stopWrite ..) stops

theorem run_leaves {s t : State} {v : VecSpec} {rs : List LaneRead} (inh : s.me.inh = false) (runs : run s v rs = .next t) :
    Frame s t ∧ Keeps v.d s.me t.me := by
  unfold run at runs
  split at runs
  · exact finish_leaves ((keeps_refl _ _).congr rfl rfl) runs
  · split at runs
    · exact trap_leaves inh (keeps_refl _ _) runs
    · unfold State.vecDone at runs
      split at runs
      · exact finish_leaves ((keeps_writePart s.me v.d v.borg _ _).congr rfl rfl) runs
      · exact vecStop_leaves inh runs

end Sys2Proof.Proofs.Elements

namespace Sys2Proof.Proofs
open Sys2Proof Sys2Proof.Machine Sys2Proof.Laws Elements

/-- Settles O29: whichever way a run of its specification ends, it leaves the rest of the machine and the registers outside
its group. -/
theorem vectorFrame : Obligations.VectorFrame := by
  intro s t i v spec inh next
  obtain ⟨rs, runs⟩ := exec_vector spec
  obtain ⟨frame, keeps⟩ := run_leaves inh (runs ▸ next)
  have same := keeps.bystanders
  simp only [bystanders, Prod.mk.injEq] at same
  obtain ⟨x, f, k, q, shadow, vl, vtype, avl, sidx⟩ := same
  exact ⟨frame.memory, frame.queues, frame.others, frame.cur, x, f, k, q, shadow, vl, vtype, avl, sidx, keeps.vectors⟩

end Sys2Proof.Proofs
end
section
/-! PROOF. The machine before power-on and a hart at launch (R104, R132, R169), and the vector configuration instructions
(R110, R115, R204). -/

namespace Sys2Proof.Proofs.Reset
open Sys2Proof Sys2Proof.Machine Sys2Proof.Laws

theorem get_replicate {α : Type} {n : Nat} (x : α) (i : Fin n) : (Vector.replicate n x).get i = x := by
  show (Vector.replicate n x)[i.val] = x
  rw [Vector.getElem_replicate]

theorem reset_chiplet (c : ChipletId) : State.reset.chiplet c = Chiplet.initial := get_replicate ..

theorem reset_inService (c : ChipletId) : State.reset.inService c = false := by
  unfold State.inService
  rw [reset_chiplet]
  rfl

theorem initial_xr (r : Reg) : Hart.initial.xr r = 0 := by
  unfold Hart.xr
  split
  · rfl
  · exact Vector.getElem_replicate _

theorem initial_vr (r : Reg) : Hart.initial.vr r = VReg.zero := Vector.getElem_replicate _

theorem initial_qr (r : Reg) : Hart.initial.qr r = QReg.initial := Vector.getElem_replicate _

theorem nzp_zero : VReg.zero.nzp = 0 := by
  unfold VReg.nzp
  simp only [show ∀ p, VReg.zero.planes.get p = 0 from get_replicate _, if_pos]
  rfl

theorem word_zero : VReg.zero.word = 0 := by
  unfold VReg.word
  rw [nzp_zero]
  rfl

end Sys2Proof.Proofs.Reset

namespace Sys2Proof.Proofs
open Sys2Proof Sys2Proof.Machine Sys2Proof.Laws Reset

/-- Settles O4: the tables of the reset state hold one value each, and the rest are its fields. -/
theorem resetState : Obligations.ResetState :=
  ⟨fun c => by rw [reset_chiplet]; rfl, reset_inService, fun _ => get_replicate .., rfl, fun _ => get_replicate .., rfl,
    rfl, rfl, rfl, rfl, rfl, rfl, rfl, rfl, fun v => by rw [show State.reset.msixTable.get v = _ from get_replicate ..],
    initial_xr, fun _ => Vector.getElem_replicate _, fun _ => Vector.getElem_replicate _,
    fun r p => by rw [initial_vr]; exact get_replicate _ p, fun r => by rw [initial_vr, word_zero],
    fun r i => by rw [initial_qr]; exact get_replicate _ i, rfl, rfl, rfl, rfl, rfl, rfl⟩

end Sys2Proof.Proofs

namespace Sys2Proof.Proofs.VectorLength
open Sys2Proof Sys2Proof.Machine Sys2Proof.Laws

theorem vlOf_toNat (n : Word) : (vlOf n).toNat = min n.toNat 32768 := by
  unfold vlOf
  rw [BitVec.toNat_ofNat]
  omega

theorem vlOf_wide (n : Word) : (vlOf n).setWidth 64 = BitVec.ofNat 64 (min n.toNat 32768) := by
  apply BitVec.eq_of_toNat_eq
  rw [BitVec.toNat_setWidth, vlOf_toNat, BitVec.toNat_ofNat]

/-- ENDSTRIP takes vl from avl, and no more than avl holds (Table 4.5). -/
theorem sub_min_toNat (avl : Word) (vl : BitVec 16) :
    (avl - (if avl.toNat < (vl.setWidth 64).toNat then avl else vl.setWidth 64)).toNat = avl.toNat - vl.toNat := by
  have wide : (vl.setWidth 64).toNat = vl.toNat := by
    rw [BitVec.toNat_setWidth, Nat.mod_eq_of_lt]
    have := vl.isLt
    omega
  rw [wide]
  split
  · rw [BitVec.sub_self, BitVec.toNat_zero]
    omega
  · rw [BitVec.toNat_sub_of_le (by rw [BitVec.le_def]; omega), wide]

end Sys2Proof.Proofs.VectorLength

namespace Sys2Proof.Proofs
open Sys2Proof Sys2Proof.Machine Sys2Proof.Laws VectorLength

/-- Settles O26: each of the four completes with the registers that Table 4.5 and R204 give, or refuses the value. -/
theorem vectorConfigurationResults : Obligations.VectorConfigurationResults := by
  intro s d a b
  refine ⟨⟨_, rfl, vlOf_toNat _, rfl, rfl, rfl, ?_⟩, ⟨_, rfl, sub_min_toNat .., rfl, vlOf_toNat _, rfl, ?_⟩,
    fun small valid => ⟨_, if_pos ⟨small, valid⟩, ?_, rfl⟩, fun bad => if_neg ?_, fun small => ⟨_, if_pos small, ?_, rfl⟩,
    fun large => if_neg (not_lt.mpr large)⟩
  · rw [← vlOf_wide]
  · rw [← vlOf_wide]
  · show ((0 : BitVec 1) ++ (s.me.xr a).setWidth 20).toNat = _
    rw [BitVec.toNat_append, BitVec.toNat_setWidth]
    simpa using small
  · rintro ⟨small, valid⟩
    exact bad.elim (fun large => by omega) (fun illegal => by rw [illegal] at valid; cases valid)
  · show ((s.me.xr a).setWidth 2).toNat = _
    rw [BitVec.toNat_setWidth, Nat.mod_eq_of_lt small]

end Sys2Proof.Proofs
end
section
/-! PROOF. Control registers (R7, R8, R65 to R72, R110, R167, R200, Tables 2.8 and 3.4 to 3.9). -/

namespace Sys2Proof.Proofs.Controls
open Sys2Proof Sys2Proof.Machine Sys2Proof.Laws Planes

/-! ### A written word, read back

Each register's word is its fields side by side, so a bit of the word is a bit of one field: the two sides agree bit by
bit, once the mask's bits are known by their place. -/

theorem setWidth_wide (v : Word) (n : Nat) : (v.setWidth n).setWidth 64 = v &&& BitVec.ofNat 64 (2 ^ n - 1) := by
  refine BitVec.eq_of_getLsbD_eq fun i lt => ?_
  rw [BitVec.getLsbD_setWidth, BitVec.getLsbD_setWidth, BitVec.getLsbD_and, BitVec.getLsbD_ofNat, Nat.testBit_two_pow_sub_one]
  simp [lt, Bool.and_comm]

theorem fflags_wide (v : Word) : (v.setWidth 13 &&& 0x1F1F).setWidth 64 = v &&& 0x1F1F := by
  rw [BitVec.setWidth_and, setWidth_wide, BitVec.and_assoc]
  rfl

theorem srWrite_wide (old : BitVec 16) (v : Word) :
    (srWrite old v).setWidth 64 = (v &&& 0xC71E) ||| (old.setWidth 64 &&& 1) := by
  unfold srWrite
  rw [BitVec.setWidth_or, BitVec.setWidth_and, BitVec.setWidth_and, setWidth_wide, BitVec.and_assoc, BitVec.or_comm]
  rfl

theorem vtypeOf_wide (v : Word) : (vtypeOf (v.setWidth 20)).setWidth 64 =
    (v &&& 0xFFFFF) ||| (if vtypeValid (v.setWidth 20) = true then 0 else 0x100000) := by
  have fields : ∀ i < 64, (0xFFFFF : Word).getLsbD i = decide (i < 20) := by decide
  have vill : ∀ i < 64, (0x100000 : Word).getLsbD i = decide (i = 20) := by decide
  refine BitVec.eq_of_getLsbD_eq fun i lt => ?_
  unfold vtypeOf
  rw [BitVec.getLsbD_or, BitVec.getLsbD_and, fields i lt]
  simp only [BitVec.getLsbD_append, BitVec.getLsbD_setWidth, getLsbD_boolBit]
  cases vtypeValid (v.setWidth 20) with
  | false =>
    have := vill i lt
    grind
  | true => grind

theorem satWord_written (h : Hart) (v : Word) :
    ({ h with satCount := v.setWidth 32, satEvp := h.satEvp && !v.getLsbD 63 } : Hart).satWord =
      (v &&& 0xFFFFFFFF) ||| (h.satWord &&& ~~~v &&& 0x8000000000000000) := by
  have count : ∀ i < 64, (0xFFFFFFFF : Word).getLsbD i = decide (i < 32) := by decide
  have evp : ∀ i < 64, (0x8000000000000000 : Word).getLsbD i = decide (i = 63) := by decide
  refine BitVec.eq_of_getLsbD_eq fun i lt => ?_
  rw [BitVec.getLsbD_or, BitVec.getLsbD_and, count i lt, BitVec.getLsbD_and, evp i lt, BitVec.getLsbD_and]
  unfold Hart.satWord
  simp only [BitVec.getLsbD_append, BitVec.getLsbD_setWidth, getLsbD_boolBit, BitVec.getLsbD_not]
  grind

theorem pfxstOf_word (v : Word) : (pfxstOf v).word = (v &&& 0x303FFC000) ||| 0x4000000 := by
  have fields : ∀ i < 64, (0x303FFC000 : Word).getLsbD i =
      ((decide (14 ≤ i) && decide (i < 26)) || decide (i = 32) || decide (i = 33)) := by decide
  have opcode : ∀ i < 64, (0x4000000 : Word).getLsbD i = decide (i = 26) := by decide
  have one : ∀ i, (1 : BitVec 6).getLsbD i = decide (i = 0) := fun i => by simp
  refine BitVec.eq_of_getLsbD_eq fun i lt => ?_
  rw [BitVec.getLsbD_or, BitVec.getLsbD_and, fields i lt, opcode i lt]
  unfold Pfxst.word pfxstOf
  simp only [BitVec.getLsbD_append, getLsbD_boolBit, BitVec.getLsbD_extractLsb', one]
  grind

/-- LEN and REM of a loop count, every bit but LD's and the reserved ones (Table 3.9). -/
theorem count_bits : ∀ i < 64, (0xFFFFFFFF0000FFFF : Word).getLsbD i = (decide (i < 16) || decide (32 ≤ i)) := by decide

/-- LD's two bits (Table 3.9). -/
theorem depth_bits : ∀ i < 64, (0x30000 : Word).getLsbD i = (decide (16 ≤ i) && decide (i < 18)) := by decide

theorem depth_full (v : Word) : v &&& 0x30000 = 0x30000 ↔ v.extractLsb' 16 2 = 3 := by
  constructor
  · intro full
    have := congrArg (BitVec.extractLsb' 16 2) full
    rw [BitVec.extractLsb'_and] at this
    calc v.extractLsb' 16 2 = v.extractLsb' 16 2 &&& BitVec.allOnes 2 := BitVec.and_allOnes.symm
      _ = 3 := this
  · intro full
    refine BitVec.eq_of_getLsbD_eq fun i lt => ?_
    have set : i - 16 < 2 → (v.extractLsb' 16 2).getLsbD (i - 16) = true := by
      rw [full]
      intro small
      have : ∀ j < 2, (3 : BitVec 2).getLsbD j = true := by decide
      exact this _ small
    rw [BitVec.getLsbD_and, depth_bits i lt]
    rw [BitVec.getLsbD_extractLsb'] at set
    grind

theorem lcntWord_one (h : Hart) (v : Word) : (h.putLcnt 1 v).lcntWord 1 = v &&& 0xFFFFFFFF0000FFFF := by
  refine BitVec.eq_of_getLsbD_eq fun i lt => ?_
  rw [BitVec.getLsbD_and, count_bits i lt]
  unfold Hart.lcntWord Hart.putLcnt
  rw [vget_set_same, vget_set_same]
  simp only [BitVec.getLsbD_append, BitVec.getLsbD_extractLsb']
  grind

theorem lcntWord_zero (h : Hart) (v : Word) : (h.putLcnt 0 v).lcntWord 0 =
    (v &&& 0xFFFFFFFF0000FFFF) ||| ((if v &&& 0x30000 = 0x30000 then h.lcntWord 0 else v) &&& 0x30000) := by
  refine BitVec.eq_of_getLsbD_eq fun i lt => ?_
  rw [BitVec.getLsbD_or, BitVec.getLsbD_and, count_bits i lt, BitVec.getLsbD_and, depth_bits i lt]
  unfold Hart.lcntWord Hart.putLcnt
  rw [vget_set_same, vget_set_same]
  by_cases full : v.extractLsb' 16 2 = 3
  · simp only [depth_full, full, ne_eq, not_true, and_false, if_false, if_true, BitVec.getLsbD_append,
      BitVec.getLsbD_extractLsb']
    grind
  · simp only [depth_full, full, BitVec.getLsbD_append, BitVec.getLsbD_extractLsb']
    grind

/-! ### What a write leaves unchanged (R8, R72) -/

/-- The hart y has the control registers of x, but the one with number n. -/
structure AgreeBut (n : Nat) (x y : Hart) : Prop where
  vl : y.vl = x.vl
  vstart : n ≠ 0x001 → y.vstart = x.vstart
  vtype : n ≠ 0x002 → y.vtype = x.vtype
  mfmt : n ≠ 0x003 → y.mfmt = x.mfmt
  avl : n ≠ 0x004 → y.avl = x.avl
  sidx : n ≠ 0x005 → y.sidx = x.sidx
  tshape : y.tshape = x.tshape
  zcfg : y.zcfg = x.zcfg
  satcnt : n ≠ 0x008 → y.satWord = x.satWord
  satthr : n ≠ 0x009 → y.satthr = x.satthr
  fflags : n ≠ 0x00A → y.fflags = x.fflags
  lbeg0 : n ≠ 0x010 → y.lbeg.get 0 = x.lbeg.get 0
  lcnt0 : n ≠ 0x011 → y.lcntWord 0 = x.lcntWord 0
  lbeg1 : n ≠ 0x012 → y.lbeg.get 1 = x.lbeg.get 1
  lcnt1 : n ≠ 0x013 → y.lcntWord 1 = x.lcntWord 1
  alarm : n ≠ 0x023 → y.alarm = x.alarm
  sr : n ≠ 0x200 → y.sr = x.sr
  cause : n ≠ 0x201 → y.cause = x.cause
  epc : n ≠ 0x202 → y.epc = x.epc
  tval : n ≠ 0x203 → y.tval = x.tval
  tvec : n ≠ 0x204 → y.tvec = x.tvec
  asid : n ≠ 0x205 → y.asid = x.asid
  ptbase : n ≠ 0x206 → y.ptbase = x.ptbase
  hscratch : n ≠ 0x207 → y.hscratch = x.hscratch
  pfxst : n ≠ 0x208 → y.pfxst = x.pfxst
  vr : y.v = x.v
  qr : y.q = x.q

theorem AgreeBut.refl (n : Nat) (x : Hart) : AgreeBut n x x := by
  constructor <;> simp

theorem lcntWord_putLcnt_other (h : Hart) (v : Word) :
    (h.putLcnt 0 v).lcntWord 1 = h.lcntWord 1 ∧ (h.putLcnt 1 v).lcntWord 0 = h.lcntWord 0 := by
  constructor
  · unfold Hart.lcntWord Hart.putLcnt
    rw [vget_set_ne _ _ (by decide), vget_set_ne _ _ (by decide), if_neg (by decide), if_neg (by decide)]
  · unfold Hart.lcntWord Hart.putLcnt
    rw [vget_set_ne _ _ (by decide), vget_set_ne _ _ (by decide)]
    rfl

theorem csrPut_agree (h : Hart) (n : Nat) (v : Word) : AgreeBut n h (h.csrPut n v) := by
  obtain ⟨other, other'⟩ := lcntWord_putLcnt_other h v
  unfold Hart.csrPut
  split
  · exact { AgreeBut.refl _ h with vstart := fun ne => absurd rfl ne }
  · exact { AgreeBut.refl _ h with vtype := fun ne => absurd rfl ne }
  · exact { AgreeBut.refl _ h with mfmt := fun ne => absurd rfl ne }
  · exact { AgreeBut.refl _ h with avl := fun ne => absurd rfl ne }
  · exact { AgreeBut.refl _ h with sidx := fun ne => absurd rfl ne }
  · exact { AgreeBut.refl _ h with satcnt := fun ne => absurd rfl ne }
  · exact { AgreeBut.refl _ h with satthr := fun ne => absurd rfl ne }
  · exact { AgreeBut.refl _ h with fflags := fun ne => absurd rfl ne }
  · exact { AgreeBut.refl _ h with lbeg0 := fun ne => absurd rfl ne, lbeg1 := fun _ => vget_set_ne (i := 0) _ _ (by decide) }
  · exact { AgreeBut.refl _ h with lcnt0 := fun ne => absurd rfl ne, lcnt1 := fun _ => other }
  · exact { AgreeBut.refl _ h with lbeg1 := fun ne => absurd rfl ne, lbeg0 := fun _ => vget_set_ne (i := 1) _ _ (by decide) }
  · exact { AgreeBut.refl _ h with lcnt1 := fun ne => absurd rfl ne, lcnt0 := fun _ => other' }
  · exact { AgreeBut.refl _ h with alarm := fun ne => absurd rfl ne }
  · exact { AgreeBut.refl _ h with sr := fun ne => absurd rfl ne }
  · exact { AgreeBut.refl _ h with cause := fun ne => absurd rfl ne }
  · exact { AgreeBut.refl _ h with epc := fun ne => absurd rfl ne }
  · exact { AgreeBut.refl _ h with tval := fun ne => absurd rfl ne }
  · exact { AgreeBut.refl _ h with tvec := fun ne => absurd rfl ne }
  · exact { AgreeBut.refl _ h with asid := fun ne => absurd rfl ne }
  · exact { AgreeBut.refl _ h with ptbase := fun ne => absurd rfl ne }
  · exact { AgreeBut.refl _ h with hscratch := fun ne => absurd rfl ne }
  · exact { AgreeBut.refl _ h with pfxst := fun ne => absurd rfl ne }
  · exact AgreeBut.refl _ h

theorem csr_agree {s t : State} {h : HartId} {n m : Nat} (agree : AgreeBut n (s.hart h) (t.hart h))
    (cores : t.core = s.core) (part : t.part = s.part) (ne : n ≠ m) : t.csr h m = s.csr h m := by
  obtain ⟨⟩ := agree
  unfold State.csr
  split <;> simp [*, Hart.vr, Hart.qr]

theorem hart_setMe_cur (s : State) (x : Hart) : (s.setMe x).hart s.cur = x := hart_setHart_same s s.cur x

theorem csr_csrPut_other (s : State) (n m : Nat) (v : Word) (ne : n ≠ m) :
    (s.setMe (s.me.csrPut n v)).csr s.cur m = s.csr s.cur m := by
  refine csr_agree ?_ rfl rfl ne
  rw [hart_setMe_cur]
  exact csrPut_agree s.me n v

/-! ### What a write sets (R7, R8, R72, Table 3.4) -/

theorem csrPut_readOnly (h : Hart) (n : Nat) (v : Word) (fixed : csrWritable n = some 0) : h.csrPut n v = h := by
  unfold Hart.csrPut
  split
  case h_23 => rfl
  all_goals simp [csrWritable] at fixed

theorem csr_csrPut_writable (s : State) (n : Nat) (v mask : Word) (w : csrWritable n = some mask) (nz : mask ≠ 0)
    (ne : n ≠ 0x200) : (s.setMe (s.me.csrPut n v)).csr s.cur n = v &&& mask := by
  have ones : v &&& 0xFFFFFFFFFFFFFFFF = v := BitVec.and_allOnes
  have first : (s.me.lbeg.set 0 v).get 0 = v := vget_set_same _ (0 : Fin 2) v
  have second : (s.me.lbeg.set 1 v).get 1 = v := vget_set_same _ (1 : Fin 2) v
  unfold csrWritable at w
  split at w
  case h_14 => exact absurd rfl ne
  case h_19 | h_20 | h_21 | h_22 | h_23 | h_24 | h_25 => exact absurd (Option.some.inj w).symm nz
  case h_26 =>
    split at w
    · exact absurd (Option.some.inj w).symm nz
    · exact absurd w (Option.some_ne_none _).symm
  all_goals
    obtain rfl := Option.some.inj w
    simp only [State.csr, hart_setMe_cur, Hart.csrPut, setWidth_wide, fflags_wide, lcntWord_one, ones, first, second]
  all_goals rfl

theorem csr_csrPut_status (s : State) (v : Word) :
    (s.setMe (s.me.csrPut 0x200 v)).csr s.cur 0x200 = (v &&& 0xC71E) ||| (s.csr s.cur 0x200 &&& 1) := by
  simp only [State.csr, hart_setMe_cur, Hart.csrPut]
  exact srWrite_wide s.me.sr v

/-! ### The instructions (R72, R200) -/

theorem csrWrite_none (s : State) {n : BitVec 12} (v : Word) (ne : n ≠ 0x110) :
    s.csrWrite n v none = .next (s.setMe (s.me.csrPut n.toNat v).advance) :=
  if_neg fun e => ne (BitVec.eq_of_toNat_eq e)

theorem csrWrite_some (s : State) {n : BitVec 12} (v : Word) (d : Reg) (ne : n ≠ 0x110) : s.csrWrite n v (some d) =
    .next (s.setMe ((s.me.csrPut n.toNat v).setX d (s.csr s.cur n.toNat)).advance) :=
  if_neg fun e => ne (BitVec.eq_of_toNat_eq e)

theorem csr_tcinv (s : State) : s.csr s.cur 0x110 = 0#64 := rfl

/-- A tcinv whose translations no instruction uses, in a quiet hart, completes at once (R200). -/
theorem tcinv_completes (s : State) (f : TcSel) (quiet : s.quiet s.cur = true) (idle : s.inUse f = false) :
    s.tcinv f none = .next ((s.dropEntries f).setMe s.me.advance) ∧
      ∀ d, s.tcinv f (some d) = .next ((s.dropEntries f).setMe (s.me.setX d 0).advance) := by
  unfold State.tcinv
  simp only [quiet, idle]
  exact ⟨rfl, fun _ => rfl⟩

theorem tcinvWrite_completes (s : State) (v : Word) (d : Reg) (quiet : s.quiet s.cur = true)
    (idle : ∀ f, s.inUse f = false) : ∃ t, s.tcinvWrite v none = .next t ∧
      s.tcinvWrite v (some d) = .next (t.setMe (s.me.setX d 0).advance) := by
  have drops (f : TcSel) : ∃ t, s.tcinv f none = .next t ∧
      s.tcinv f (some d) = .next (t.setMe (s.me.setX d 0).advance) := by
    obtain ⟨plain, answers⟩ := tcinv_completes s f quiet (idle f)
    refine ⟨_, plain, ?_⟩
    rw [answers d]
    exact congrArg Host.Outcome.next (setMe_setMe (s.dropEntries f) _ _).symm
  unfold State.tcinvWrite
  split
  · exact drops _
  · exact drops _
  · exact drops _
  · exact ⟨_, rfl, congrArg Host.Outcome.next (setMe_setMe s _ _).symm⟩

end Sys2Proof.Proofs.Controls

namespace Sys2Proof.Proofs
open Sys2Proof Sys2Proof.Machine Sys2Proof.Laws Controls

/-- Settles O24, register by register: what a written word reads back as, what the write keeps, and what the instructions
write. -/
theorem controlRegisterResults : Obligations.ControlRegisterResults := by
  unfold Obligations.ControlRegisterResults
  refine ⟨fun s n v mask w => ⟨?_, csr_csrPut_writable s n v mask w, ?_⟩, fun s v => ⟨?_, ?_, ?_, ?_⟩,
    csr_csrPut_other, fun s d a n ne => ?_, fun s d a => ⟨rfl, ?_, ?_, ?_⟩⟩
  · rintro rfl
    rw [csrPut_readOnly s.me n v w, setMe_me]
  · rintro rfl
    obtain rfl := Option.some.inj w
    exact csr_csrPut_status s v
  · simp only [State.csr, hart_setMe_cur, Hart.csrPut]
    exact vtypeOf_wide v
  · simp only [State.csr, hart_setMe_cur, Hart.csrPut]
    exact satWord_written s.me v
  · simp only [State.csr, hart_setMe_cur, Hart.csrPut]
    exact lcntWord_zero s.me v
  · simp only [State.csr, hart_setMe_cur, Hart.csrPut]
    exact pfxstOf_word v
  · exact ⟨rfl, csrWrite_none s _ ne, csrWrite_none s _ ne, csrWrite_none s _ ne, csrWrite_some s _ d ne⟩
  · show s.csrWrite 0x110 (s.csr s.cur 0x110 ||| s.me.xr a) none = s.csrWrite 0x110 (s.me.xr a) none
    rw [csr_tcinv, BitVec.zero_or]
  · show s.csrWrite 0x110 (s.csr s.cur 0x110 &&& ~~~s.me.xr a) none = s.tcinv (.page 0 0) none
    rw [csr_tcinv, BitVec.zero_and]
    rfl
  · exact fun quiet idle => tcinvWrite_completes s (s.me.xr a) d quiet idle

end Sys2Proof.Proofs
end
section
/-! PROOF. The vector checks (R118, R119, R250): the case that the statement leaves open. -/

namespace Sys2Proof.Proofs.FlightInProgress
open Sys2Proof Sys2Proof.Machine

/-- A VAMO of hart 0 whose old values have come back. -/
def answered : VamoFlight :=
  { owner := 0, op := 0, kind := 0, width := 8, elems := [], steps := [], sent := false, olds := some [] }

/-- Hart 0 at reset, vl = 0 and no answer of another module awaited, with a VAMO in flight. -/
def inFlight : State := { State.reset with vamos := [answered] }

theorem remote_inFlight : inFlight.me.remote = .idle := rfl

theorem vl_inFlight : inFlight.me.vl = 0 := rfl

/-- The VAMOADD that executes again is the flight's: it completes it, before any check. -/
theorem exec_inFlight : ∃ t, exec (.vamoadd 0 0 0 0 true) inFlight = .next t ∧ t.vamos = [] :=
  ⟨_, rfl, rfl⟩

end Sys2Proof.Proofs.FlightInProgress

namespace Sys2Proof.Proofs
open Sys2Proof Sys2Proof.Machine FlightInProgress

/-- Refutes O32: its first clause asks that no answer of another module be awaited, but not that the hart has no VAMO in
flight; in `inFlight`, with vl = 0, the VAMOADD completes the flight, where the statement has it kept. -/
theorem not_vectorChecks : ¬ Obligations.VectorChecks := by
  unfold Obligations.VectorChecks
  rintro ⟨empty, -, -⟩
  obtain ⟨t, runs, gone⟩ := exec_inFlight
  have kept := empty inFlight (.vamoadd 0 0 0 0 true) (Or.inl rfl) remote_inFlight vl_inFlight rfl
  rw [runs] at kept
  have same := congrArg State.vamos (Host.Outcome.next.inj kept)
  rw [gone] at same
  exact absurd same (List.cons_ne_nil answered []).symm

end Sys2Proof.Proofs
end
section
/-! PROOF. Vector conversions and scale registers (R169 to R171, R180 to R186): what each instruction writes when its checks
pass. -/

namespace Sys2Proof.Proofs.Scales
open Sys2Proof Sys2Proof.Machine Sys2Proof.Laws Elements

/-! ### The checks (R119, R171, R180) -/

theorem ill_of_ready {h : Hart} {k w : Bool} {rs : List Reg} (ready : h.VectorReady k rs w) : h.vt.ill = false :=
  ready.legal

/-- Groups of sizes of their own that are all aligned. -/
theorem misaligned_eq_none {h : Hart} {groups : List (Reg × Nat)} {dest : Option Nat}
    (own : ∀ g ∈ groups, g.1.toNat % g.2 = 0) (copy : ∀ n, dest = some n → ∀ d, h.copyReg = some d → d.toNat % n = 0) :
    h.misaligned groups dest = none := by
  have copied : h.misaligned [] dest = none := find_none_of_aligned (t := h.vt) (rs := []) nofun copy
  unfold Hart.misaligned at copied ⊢
  rw [Option.map_eq_none_iff, List.find?_eq_none] at copied ⊢
  intro g listed
  rcases List.mem_append.mp listed with first | second
  · simp [own g first]
  · exact copied g second

theorem vcheck_eq_none {h : Hart} {kindOk : Bool} {groups : List (Reg × Nat)} {dest : Option Nat} {startOk : Bool}
    (legal : h.vt.ill = false) (kind : kindOk = true) (aligned : h.misaligned groups dest = none) (start : startOk = true) :
    h.vcheck kindOk groups dest startOk = none := by
  unfold Hart.vcheck
  rw [legal, kind, aligned, start]
  rfl

/-- The checks of an instruction that converts a source group of a width of its own. -/
theorem vcheck_pair {h : Hart} {d a : Reg} {n : Nat} {startOk : Bool} (ready : h.VectorReady true [d] true)
    (source : a.toNat % n = 0) (start : startOk = true) :
    h.vcheck true [(d, h.vt.regs), (a, n)] (some h.vt.regs) startOk = none := by
  refine vcheck_eq_none (ill_of_ready ready) rfl (misaligned_eq_none ?_ ?_) start
  · have dest : d.toNat % h.vt.regs = 0 := ready.aligned d List.mem_cons_self
    simpa using ⟨dest, source⟩
  · rintro _ ⟨⟩ d2 copies
    exact ready.copy rfl d2 copies

theorem startOk_of_ready {h : Hart} {k w : Bool} {rs : List Reg} (ready : h.VectorReady k rs w) : h.startOk = true :=
  decide_eq_true ready.start

theorem convCheck_eq_ok {h : Hart} {destOk srcOk : BitVec 4 → Bool} {v : Word} {c : ConvSrc} (legal : h.vt.ill = false)
    (dest : destOk h.vt.kind = true) (word : convOf v = some c) (source : srcOk c.kind = true) :
    h.convCheck destOk srcOk v = .ok c := by
  unfold Hart.convCheck
  simp only [legal, dest, word, source]
  rfl

theorem skewCheck_eq_none {h : Hart} {a : Reg} (blocks : (h.vl.toNat + 31) / 32 ≤ (h.qr a).nblk.toNat)
    (origin : (h.vr a).desc.borg = (h.qr a).org) : h.skewCheck a = none := by
  unfold Hart.skewCheck Hart.skewLen
  simp only [if_neg (not_lt.mpr blocks), ne_eq, origin, not_true_eq_false, if_false]

/-! ### Completion -/

theorem vecDone_unmarked {s : State} (unmarked : s.me.marks = []) (d : Reg) (t : VT) (borg : BitVec 13)
    (rs : List LaneRead) (o : VecOut) : s.vecDone d t borg rs o = s.vecFinish d t borg o := by
  unfold State.vecDone
  rw [unmarked, laneHit_unmarked]

/-- A result element by element is what its specification leaves. -/
theorem vecFinish_frame (s : State) (kindOk : Bool) (d : Reg) (srcs : List Reg) (m : KReg) (f : Nat → Elem) :
    s.vecFinish d s.me.vt 0 (s.me.frame s.me.vt m false f) =
      .next (s.setMe ((plainSpec kindOk d srcs m f).after s.me).advance) := rfl

/-- With no mask every body element takes its result. -/
theorem frame_unmasked (h : Hart) (t : VT) (f : Nat → Elem) :
    h.frame t 0 false f = collect (h.body.map (fun i => (i, f i))) := by
  have active (i : Nat) : h.active 0 i = true := by simp [Hart.active]
  unfold Hart.frame
  simp only [active, Bool.or_true, if_true]
  rw [← List.filterMap_eq_map]
  rfl

/-! ### VCVT, VDEQ and VQMV.QV (R181, R183, R186) -/

section
variable {s : State} {d a b : Reg} {c : ConvSrc} (ready : s.me.VectorReady true [d] true)
include ready

theorem vcvt_completes (m : KReg) (kind : s.me.vt.kind.toNat ≤ 11) (word : convOf (s.me.xr b) = some c)
    (source : a.toNat % c.regs = 0) : exec (.vcvt d a b m) s =
      .next (s.setMe ((plainSpec true d [a] m (cvtElem s.me s.me.vt c a)).after s.me).advance) := by
  have conv : s.me.convCheck (fun k => decide (k.toNat ≤ 11)) (fun _ => true) (s.me.xr b) = .ok c :=
    convCheck_eq_ok (ill_of_ready ready) (decide_eq_true kind) word rfl
  show execVcvt d a b m s = _
  unfold execVcvt
  rw [if_neg ready.vl, conv]
  dsimp only
  rw [vcheck_pair ready source (startOk_of_ready ready)]
  dsimp only
  rw [vecDone_unmarked ready.marks]
  exact vecFinish_frame ..

theorem vdeq_completes (m : KReg) (kind : isFpKind s.me.vt.kind = true) (word : convOf (s.me.xr b) = some c)
    (mx : isMxKind c.kind = true) (source : a.toNat % c.regs = 0)
    (skew : s.me.skewCheck a = none) : exec (.vdeq d a b m) s =
      .next (s.setMe ((plainSpec true d [a] m (deqElem s.me s.me.vt c a)).after s.me).advance) := by
  have conv : s.me.convCheck isFpKind isMxKind (s.me.xr b) = .ok c := convCheck_eq_ok (ill_of_ready ready) kind word mx
  show execVdeq d a b m s = _
  unfold execVdeq
  rw [if_neg ready.vl, conv]
  dsimp only
  rw [vcheck_pair ready source (startOk_of_ready ready), skew]
  dsimp only [Option.orElse]
  rw [vecDone_unmarked ready.marks]
  exact vecFinish_frame ..

theorem vqmvQv_completes (int : s.me.vt.isInt = true) (start : s.me.vstart = 0) : exec (.vqmvQv d a) s =
      .next (s.setMe ((plainSpec true d [] 0 (fun i =>
        s.me.vt.put (if i < 1024 then ((s.me.qr a).scales.getD i 0).toNat else 0))).after s.me).advance) := by
  have check : s.me.vcheck s.me.vt.isInt (s.me.vt.groups [d]) (some s.me.vt.regs) (s.me.vstart = 0) = none :=
    vcheck_eq_none (ill_of_ready ready) int (find_none_of_aligned ready.aligned fun n e d2 copies => by
      cases e; exact ready.copy rfl d2 copies) (decide_eq_true start)
  show execVqmvQv d a s = _
  unfold execVqmvQv
  rw [if_neg ready.vl]
  rw [check]
  dsimp only
  rw [vecDone_unmarked ready.marks, ← frame_unmasked]
  exact vecFinish_frame ..

end

end Sys2Proof.Proofs.Scales

namespace Sys2Proof.Proofs
open Sys2Proof Sys2Proof.Machine Scales

/-- Settles O35: the checks pass, and a read without marks completes with the element results. -/
theorem conversionResults : Obligations.ConversionResults := by
  unfold Obligations.ConversionResults
  intro s d a b m c ready
  exact ⟨vcvt_completes ready m,
    fun kind word mx source blocks origin => vdeq_completes ready m kind word mx source (skewCheck_eq_none blocks origin),
    vqmvQv_completes ready⟩

end Sys2Proof.Proofs
end
section
/-! PROOF. The instructions that write a scale register (R170, R182, R185, R186): the scales of a register that takes a list
of codes, and the blocks of VQUANT laid end to end. -/

namespace Sys2Proof.Proofs.ScaleWrites
open Sys2Proof Sys2Proof.Machine Sys2Proof.Laws Elements Scales

/-! ### The scales of a register (R185, R186) -/

/-- The first scales of a register that takes the codes of a list are the list's, and the scales past them stay. -/
theorem putScales_get (q : QReg) (n : Nat) (code : Nat → Byte) (i : Fin 1024) :
    (q.putScales ((List.range n).map code)).scales.get i = if i.val < n then code i.val else q.scales.get i := by
  have taken : (q.putScales ((List.range n).map code)).scales.get i =
      ((List.range n).map code).getD i.val (q.scales.get i) := Vector.getElem_ofFn i.isLt
  rw [taken, List.getD_eq_getElem?_getD, List.getElem?_map]
  by_cases inside : i.val < n
  · rw [if_pos inside, List.getElem?_range inside]
    rfl
  · rw [if_neg inside, List.getElem?_eq_none (by simpa using inside)]
    rfl

/-! ### VSETQ and VQMV.VQ -/

/-- What VSETQ writes to a scale register (R185). -/
def setScales (h : Hart) (d a : Reg) : QReg :=
  { (h.qr d).putScales ((List.range ((h.vl.toNat + 31) / 32)).map fun _ => (h.xr a).setWidth 8) with
    org := (h.xr a).extractLsb' 16 13, fmt := h.vt.kind, nblk := BitVec.ofNat 11 ((h.vl.toNat + 31) / 32) }

/-- What VQMV.VQ writes to a scale register (R186). -/
def movedScales (h : Hart) (d a : Reg) : QReg :=
  { (h.qr d).putScales ((List.range (min h.vl.toNat 1024)).map fun j => BitVec.ofNat 8 (h.pat a j 8)) with
    nblk := BitVec.ofNat 11 (min h.vl.toNat 1024) }

theorem movedScales_header (h : Hart) (d a : Reg) :
    (movedScales h d a).fmt = (h.qr d).fmt ∧ (movedScales h d a).org = (h.qr d).org := by
  unfold movedScales QReg.putScales
  exact ⟨rfl, rfl⟩

theorem movedScales_get (h : Hart) (d a : Reg) (i : Fin 1024) : (movedScales h d a).scales.get i =
    if i.val < h.vl.toNat then BitVec.ofNat 8 (h.pat a i.val 8) else (h.qr d).scales.get i := by
  have inside : i.val < min h.vl.toNat 1024 ↔ i.val < h.vl.toNat := by
    have := i.isLt
    omega
  unfold movedScales
  simp only [putScales_get, inside]

section
variable {s : State} (ready : s.me.VectorReady true [] false) (start : s.me.vstart = 0)
include ready start

theorem vsetq_completes (d a : Reg) (mx : isMxKind s.me.vt.kind = true) :
    exec (.vsetq d a) s = .next (s.setMe { s.me.putQ d (setScales s.me d a) with vstart := 0 }.advance) := by
  have check : s.me.vcheck (isMxKind s.me.vt.kind) [] none (s.me.vstart = 0) = none :=
    vcheck_eq_none (ill_of_ready ready) mx (misaligned_eq_none nofun nofun) (decide_eq_true start)
  show execVsetq d a s = _
  unfold execVsetq
  rw [if_neg ready.vl, check]
  unfold setScales
  rw [List.map_const', List.length_range]
  rfl

theorem vqmvVq_completes (d a : Reg) (source : a.toNat % s.me.vt.regs = 0) :
    exec (.vqmvVq d a) s = .next (s.setMe { s.me.putQ d (movedScales s.me d a) with vstart := 0 }.advance) := by
  have check : s.me.vcheck true (s.me.vt.groups [a]) none (s.me.vstart = 0) = none :=
    vcheck_eq_none (ill_of_ready ready) rfl (find_none_of_aligned (by simpa using source) nofun) (decide_eq_true start)
  show execVqmvVq d a s = _
  unfold execVqmvVq
  rw [if_neg ready.vl, check]
  dsimp only
  rw [ready.marks, laneHit_unmarked]
  rfl

end

/-! ### Lists laid end to end -/

section
variable {α : Type}

/-- Blocks of 32 of n elements, laid end to end: block k holds elements 32k and up. -/
theorem flatMap_blocks {n : Nat} {block : Nat → List α} (sizes : ∀ k, (block k).length = min 32 (n - 32 * k)) (nb : Nat) :
    ((List.range nb).flatMap block).length = min n (32 * nb) ∧
      ∀ i < min n (32 * nb), ((List.range nb).flatMap block)[i]? = (block (i / 32))[i % 32]? := by
  induction nb with
  | zero => exact ⟨by simp, fun i lt => by omega⟩
  | succ nb ih =>
    obtain ⟨length, elements⟩ := ih
    have last := sizes nb
    rw [List.range_succ, List.flatMap_append, List.flatMap_singleton, List.length_append, length, last]
    refine ⟨by omega, fun i lt => ?_⟩
    by_cases before : i < min n (32 * nb)
    · rw [List.getElem?_append_left (length ▸ before), elements i before]
    · rw [List.getElem?_append_right (by omega), length]
      congr 2 <;> omega

theorem map_fst_zipIdx {β : Type} (f : α → β) (l : List α) : l.zipIdx.map (fun x => f x.1) = l.map f := by
  calc l.zipIdx.map (fun x => f x.1) = (l.zipIdx.map Prod.fst).map f := (List.map_map ..).symm
    _ = l.map f := by rw [List.zipIdx_map_fst]

end

/-- What the elements of a list, each at its place, write, count and raise. -/
theorem collect_zipIdx (l : List Elem) : collect (l.zipIdx.map (fun x => (x.2, x.1))) =
    { writes := l.zipIdx.map (fun x => (x.2, x.1.pat)), count := (l.map (fun e : Elem => e.count)).sum,
      exc := (l.map (fun e : Elem => e.exc)).foldl Exc.or .none } := by
  unfold collect
  rw [List.map_map, List.map_map, List.foldl_map, List.foldl_map, ← map_fst_zipIdx (fun e : Elem => e.count) l]
  have raised := List.foldl_map (f := Prod.fst) (g := fun (e : Exc) (x : Elem) => e.or x.exc) (l := l.zipIdx)
    (init := .none)
  rw [List.zipIdx_map_fst] at raised
  rw [raised]
  rfl

/-! ### VQUANT (R170, R182) -/

theorem length_quantBlock (t : VT) (vs : List Val) : (quantBlock t vs).elems.length = vs.length := by
  unfold quantBlock
  split
  · exact List.length_map _
  · split
    · exact List.length_map _
    · exact List.length_map _

/-- Block k of the elements of va (R170, R182). -/
def blockOf (h : Hart) (c : ConvSrc) (a : Reg) (k : Nat) : MxBlock :=
  quantBlock h.vt ((List.range (min 32 (h.vl.toNat - 32 * k))).map fun j =>
    kindVal c.kind c.width (h.pat a (32 * k + j) c.width))

/-- The blocks of the elements of va. -/
def blockCount (h : Hart) : Nat := (h.vl.toNat + 31) / 32

/-- The elements of the blocks, end to end. -/
def blockElems (h : Hart) (c : ConvSrc) (a : Reg) : List Elem :=
  (List.range (blockCount h)).flatMap fun k => (blockOf h c a k).elems

theorem length_blockOf (h : Hart) (c : ConvSrc) (a : Reg) (k : Nat) :
    (blockOf h c a k).elems.length = min 32 (h.vl.toNat - 32 * k) := by
  rw [blockOf, length_quantBlock, List.length_map, List.length_range]

/-- Element i of the vector is element i mod 32 of block i / 32. -/
theorem blockElems_writes (h : Hart) (c : ConvSrc) (a : Reg) :
    (blockElems h c a).zipIdx.map (fun x => (x.2, x.1.pat)) = (List.range h.vl.toNat).map (fun i =>
      (i, ((blockOf h c a (i / 32)).elems.getD (i % 32) { pat := 0 }).pat)) := by
  obtain ⟨length, elements⟩ := flatMap_blocks (length_blockOf h c a) (blockCount h)
  have all : min h.vl.toNat (32 * blockCount h) = h.vl.toNat := by
    unfold blockCount
    omega
  rw [all] at length elements
  have same : ((blockElems h c a).zipIdx.map (fun x => (x.2, x.1.pat))).length = h.vl.toNat := by
    rw [List.length_map, List.length_zipIdx, ← length]
    rfl
  refine List.ext_getElem (by rw [same, List.length_map, List.length_range]) fun i left right => ?_
  have inside : i < h.vl.toNat := by simpa using right
  have listed := elements i inside
  have present : i < (blockElems h c a).length := length.symm ▸ inside
  have own : (blockElems h c a)[i] = (blockOf h c a (i / 32)).elems.getD (i % 32) { pat := 0 } := by
    rw [List.getD_eq_getElem?_getD, ← listed]
    exact (Option.getD_some ..).symm.trans (congrArg (Option.getD · _) (List.getElem?_eq_getElem present).symm)
  simp only [List.getElem_map, List.getElem_zipIdx, List.getElem_range, Nat.zero_add, own]

/-- The exceptions of VQUANT: those of its elements and of its blocks. -/
def blockExc (h : Hart) (c : ConvSrc) (a : Reg) : Exc :=
  ((List.range (blockCount h)).map (fun k => (blockOf h c a k).exc)).foldl Exc.or
    (((blockElems h c a).map (fun e : Elem => e.exc)).foldl Exc.or .none)

/-- What VQUANT writes to a scale register (R182). -/
def quantScales (h : Hart) (c : ConvSrc) (d a : Reg) : QReg :=
  { (h.qr d).putScales ((List.range (blockCount h)).map fun k => BitVec.ofNat 8 (blockOf h c a k).code) with
    fmt := h.vt.kind, org := h.origin, nblk := BitVec.ofNat 11 (blockCount h) }

/-- What VQUANT writes to a vector group, counts and raises (R182). -/
def quantOut (h : Hart) (c : ConvSrc) (a : Reg) : VecOut :=
  { writes := (blockElems h c a).zipIdx.map (fun x => (x.2, x.1.pat)),
    count := ((blockElems h c a).map (fun e : Elem => e.count)).sum, exc := blockExc h c a }

theorem vquant_completes {s : State} {d a b : Reg} {c : ConvSrc} (ready : s.me.VectorReady true [d] true)
    (start : s.me.vstart = 0) (mx : isMxKind s.me.vt.kind = true) (word : convOf (s.me.xr b) = some c)
    (source : isFpKind c.kind = true) (group : a.toNat % c.regs = 0) (block : s.me.sidx.toNat % 32 = 0) :
    exec (.vquant d a b) s =
      (s.setMe (s.me.putQ d (quantScales s.me c d a))).vecFinish d s.me.vt s.me.origin (quantOut s.me c a) := by
  have conv : s.me.convCheck isMxKind isFpKind (s.me.xr b) = .ok c := convCheck_eq_ok (ill_of_ready ready) mx word source
  have origin : s.me.mxCheck = none := if_neg (not_not.mpr block)
  show execVquant d a b s = _
  unfold execVquant
  rw [if_neg ready.vl, conv]
  dsimp only
  rw [vcheck_pair ready group (decide_eq_true start), origin, ready.marks, laneHit_unmarked]
  dsimp only [Option.orElse]
  rw [vecDone_unmarked (by rw [me_setMe]; exact ready.marks), collect_zipIdx]
  simp only [List.foldl_map, List.map_map, List.flatMap_map]
  unfold quantOut blockExc
  rw [List.foldl_map, List.foldl_map]
  rfl

end Sys2Proof.Proofs.ScaleWrites

namespace Sys2Proof.Proofs
open Sys2Proof Sys2Proof.Machine Sys2Proof.Laws ScaleWrites

/-- Settles O36: each instruction puts a register whose first scales are a list's, and VQUANT's elements are those of its
blocks, laid end to end. -/
theorem scaleRegisterResults : Obligations.ScaleRegisterResults := by
  unfold Obligations.ScaleRegisterResults
  refine ⟨fun s d a ready start => ⟨fun mx => ?vsetq, fun source => ?vqmv⟩,
    fun s d a b c ready start mx word source group block => ?vquant⟩
  case vsetq =>
    exact ⟨_, vsetq_completes ready start d a mx, BitVec.toNat_ofNat .., rfl, rfl, fun i => putScales_get ..⟩
  case vqmv =>
    obtain ⟨fmt, org⟩ := movedScales_header s.me d a
    have count : min s.me.vl.toNat 1024 % 2 ^ 11 = min s.me.vl.toNat 1024 := Nat.mod_eq_of_lt (by omega)
    exact ⟨_, vqmvVq_completes ready start d a source, (BitVec.toNat_ofNat ..).trans count, fmt, org,
      movedScales_get s.me d a⟩
  case vquant =>
    intro h t n nb blocks elems exc
    refine ⟨quantScales h c d a, ?_, rfl, rfl, BitVec.toNat_ofNat .., fun i => putScales_get ..⟩
    rw [vquant_completes ready start mx word source group block]
    unfold State.vecFinish State.finish quantOut
    rw [me_setMe, setMe_setMe, blockElems_writes]
    rfl

end Sys2Proof.Proofs
end
section
/-! PROOF. Rounding to a grid of numbers (R89): which point a number rounds to, how far it lies from the others, and when it
rounds below a point. A grid is a strictly increasing sequence of numbers. -/

namespace Sys2Proof.Proofs.Grid
open Sys2Proof Sys2Proof.Machine

/-- Whether a number at or above point b of a grid, and below the next point, rounds to the next. -/
def climbs (V : Nat → ℝ) (r : Rnd) (neg : Bool) (x : ℝ) (b : Nat) : Prop :=
  match r with
  | .rne => V b + V (b + 1) < 2 * x ∨ (V b + V (b + 1) = 2 * x ∧ b % 2 = 1)
  | .rmm => V b + V (b + 1) ≤ 2 * x
  | .rtz => False
  | .rdn => neg = true ∧ V b ≠ x
  | .rup => neg = false ∧ V b ≠ x

/-- The number x rounds to point p of a grid. -/
def RoundsTo (V : Nat → ℝ) (r : Rnd) (neg : Bool) (x : ℝ) (p : Nat) : Prop :=
  ∃ b, V b ≤ x ∧ x < V (b + 1) ∧ ((p = b ∧ ¬ climbs V r neg x b) ∨ (p = b + 1 ∧ climbs V r neg x b))

/-- A rounding goes down, away from zero or to the nearest. -/
theorem mode_cases (r : Rnd) (neg : Bool) : roundsDown r neg ∨ roundsAway r neg ∨ r = .rne ∨ r = .rmm := by
  cases r <;> cases neg <;> simp [roundsDown, roundsAway]

/-- A fact known for each way to round. -/
theorem iff_of_modes {r : Rnd} {neg : Bool} {P a b c : Prop} (down : roundsDown r neg → (P ↔ a))
    (away : roundsAway r neg → (P ↔ b)) (near : (r = .rne ∨ r = .rmm) → (P ↔ c)) :
    P ↔ (roundsDown r neg → a) ∧ (roundsAway r neg → b) ∧ ((r = .rne ∨ r = .rmm) → c) := by
  constructor
  · exact fun h => ⟨fun d => (down d).mp h, fun w => (away w).mp h, fun n => (near n).mp h⟩
  · rintro ⟨ha, hb, hc⟩
    rcases mode_cases r neg with d | w | n
    · exact (down d).mpr (ha d)
    · exact (away w).mpr (hb w)
    · exact (near n).mpr (hc n)

section
variable {V : Nat → ℝ} {r : Rnd} {neg : Bool} {x : ℝ} {b : Nat}

theorem not_climbs_of_down (down : roundsDown r neg) : ¬ climbs V r neg x b := by
  rcases down with rfl | ⟨rfl, rfl⟩ | ⟨rfl, rfl⟩ <;> simp [climbs]

theorem climbs_iff_of_away (away : roundsAway r neg) : climbs V r neg x b ↔ V b ≠ x := by
  rcases away with ⟨rfl, rfl⟩ | ⟨rfl, rfl⟩ <;> simp [climbs]

theorem le_of_climbs (near : r = .rne ∨ r = .rmm) (climbs : climbs V r neg x b) : V b + V (b + 1) ≤ 2 * x := by
  rcases near with rfl | rfl
  · rcases climbs with above | ⟨tie, -⟩
    · exact above.le
    · exact tie.le
  · exact climbs

theorem le_of_not_climbs (near : r = .rne ∨ r = .rmm) (stays : ¬ climbs V r neg x b) : 2 * x ≤ V b + V (b + 1) := by
  rcases near with rfl | rfl
  · exact not_lt.mp fun above => stays (.inl above)
  · exact (not_le.mp stays).le

/-- Halfway past an odd point a nearest rounding climbs. -/
theorem climbs_iff_of_odd (near : r = .rne ∨ r = .rmm) (odd : b % 2 = 1) :
    climbs V r neg x b ↔ V b + V (b + 1) ≤ 2 * x := by
  rcases near with rfl | rfl
  · simp only [climbs, odd, and_true, le_iff_lt_or_eq]
  · exact Iff.rfl

/-- A point of the grid stays. -/
theorem not_climbs_of_eq (mono : StrictMono V) (same : V b = x) : ¬ climbs V r neg x b := by
  have above := mono b.lt_succ_self
  cases r with
  | rne =>
    rintro (past | ⟨tie, -⟩) <;> linarith
  | rmm => exact not_le.mpr (by linarith)
  | rtz => exact id
  | rdn => exact fun moves => moves.2 same
  | rup => exact fun moves => moves.2 same

/-- Whether a number climbs depends on the two points beside it and on the parity of the lower one. -/
theorem climbs_congr {W : Nat → ℝ} {c : Nat} (lower : V b = W c) (upper : V (b + 1) = W (c + 1)) (parity : b % 2 = c % 2) :
    climbs V r neg x b ↔ climbs W r neg x c := by
  unfold climbs
  rw [lower, upper, parity]

theorem climbs_scaled {k : ℝ} (pos : 0 < k) : climbs (fun n => V n * k) r neg (x * k) b ↔ climbs V r neg x b := by
  have sum : V b * k + V (b + 1) * k = (V b + V (b + 1)) * k := (add_mul ..).symm
  have twice : 2 * (x * k) = 2 * x * k := (mul_assoc ..).symm
  simp only [climbs, sum, twice, mul_lt_mul_iff_of_pos_right pos, mul_le_mul_iff_of_pos_right pos,
    mul_left_inj' pos.ne', ne_eq]

theorem RoundsTo.scaled {p : Nat} (rounds : RoundsTo V r neg x p) {k : ℝ} (pos : 0 < k) :
    RoundsTo (fun n => V n * k) r neg (x * k) p := by
  obtain ⟨b, low, high, ends⟩ := rounds
  refine ⟨b, mul_le_mul_of_nonneg_right low pos.le, mul_lt_mul_of_pos_right high pos, ?_⟩
  rwa [climbs_scaled pos]

end

/-! ### The point that a number rounds to -/

section
variable {V : Nat → ℝ} (mono : StrictMono V) {r : Rnd} {neg : Bool} {x : ℝ} {p : Nat} (rounds : RoundsTo V r neg x p)
include mono rounds

/-- A number at or above a point rounds to that point or one above. -/
theorem RoundsTo.le_of_le {q : Nat} (le : V q ≤ x) : q ≤ p := by
  obtain ⟨b, low, high, ends⟩ := rounds
  have below : q < b + 1 := mono.lt_iff_lt.mp (le.trans_lt high)
  rcases ends with ⟨rfl, -⟩ | ⟨rfl, -⟩ <;> omega

/-- A number at or below a point rounds to that point or one below. -/
theorem RoundsTo.ge_of_le {q : Nat} (le : x ≤ V q) : p ≤ q := by
  obtain ⟨b, low, high, ⟨rfl, -⟩ | ⟨rfl, moves⟩⟩ := rounds
  · exact mono.le_iff_le.mp (low.trans le)
  · have strict : V b < x := lt_of_le_of_ne low fun same => not_climbs_of_eq mono same moves
    exact mono.lt_iff_lt.mp (strict.trans_le le)

theorem RoundsTo.eq_of_eq {q : Nat} (same : V q = x) : p = q :=
  le_antisymm (rounds.ge_of_le mono same.ge) (rounds.le_of_le mono same.le)

/-- A number that rounds down lies at or above its point, and below every later one. -/
theorem RoundsTo.down (down : roundsDown r neg) : V p ≤ x ∧ ∀ q, V q ≤ x → q ≤ p := by
  refine ⟨?_, fun q le => rounds.le_of_le mono le⟩
  obtain ⟨b, low, -, ⟨rfl, -⟩ | ⟨-, moves⟩⟩ := rounds
  · exact low
  · exact absurd moves (not_climbs_of_down down)

/-- A number that rounds away lies at or below its point, and above every earlier one. -/
theorem RoundsTo.away (away : roundsAway r neg) : x ≤ V p ∧ ∀ q, x ≤ V q → p ≤ q := by
  refine ⟨?_, fun q le => rounds.ge_of_le mono le⟩
  obtain ⟨b, -, high, ⟨rfl, stays⟩ | ⟨rfl, -⟩⟩ := rounds
  · rw [climbs_iff_of_away away, ne_eq, not_not] at stays
    exact stays.ge
  · exact high.le

/-- No point is nearer, and another one as near leaves the even one, or the larger one. -/
theorem RoundsTo.near (near : r = .rne ∨ r = .rmm) (q : Nat) : |x - V p| ≤ |x - V q| ∧
    (q ≠ p → |x - V p| = |x - V q| → (r = .rne → p % 2 = 0) ∧ (r = .rmm → q < p)) := by
  obtain ⟨b, low, high, ends⟩ := rounds
  have side : (V q ≤ V b ∧ |x - V q| = x - V q ∧ q ≤ b) ∨ (V (b + 1) ≤ V q ∧ |x - V q| = V q - x ∧ b + 1 ≤ q) := by
    rcases Nat.lt_or_ge b q with above | below
    · have le : V (b + 1) ≤ V q := mono.monotone above
      exact .inr ⟨le, by rw [abs_sub_comm]; exact abs_of_nonneg (by linarith), above⟩
    · have le : V q ≤ V b := mono.monotone below
      exact .inl ⟨le, abs_of_nonneg (by linarith), below⟩
  rcases ends with ⟨rfl, stays⟩ | ⟨rfl, moves⟩
  · have nearer := le_of_not_climbs near stays
    rw [abs_of_nonneg (sub_nonneg.mpr low)]
    rcases side with ⟨le, away, -⟩ | ⟨le, away, -⟩
    · rw [away]
      exact ⟨by linarith, fun other same => absurd (mono.injective (by linarith)) other⟩
    · rw [away]
      refine ⟨by linarith, fun _ same => ⟨?_, ?_⟩⟩
      · rintro rfl
        have even : ¬ p % 2 = 1 := fun odd => stays (.inr ⟨by linarith, odd⟩)
        omega
      · rintro rfl
        exact absurd (show V p + V (p + 1) ≤ 2 * x by linarith) stays
  · have nearer := le_of_climbs near moves
    rw [abs_sub_comm, abs_of_nonneg (sub_nonneg.mpr high.le)]
    rcases side with ⟨le, away, before⟩ | ⟨le, away, -⟩
    · rw [away]
      refine ⟨by linarith, fun _ same => ⟨?_, fun _ => by omega⟩⟩
      rintro rfl
      rcases moves with past | ⟨-, odd⟩
      · linarith
      · omega
    · rw [away]
      exact ⟨by linarith, fun other same => absurd (mono.injective (by linarith)) other⟩

/-! ### Rounding below a point -/

theorem RoundsTo.lt_iff_of_down (down : roundsDown r neg) (q : Nat) : p < q ↔ x < V q := by
  obtain ⟨low, last⟩ := rounds.down mono down
  constructor
  · exact fun lt => not_le.mp fun le => lt.not_ge (last q le)
  · exact fun lt => mono.lt_iff_lt.mp (low.trans_lt lt)

theorem RoundsTo.le_iff_of_away (away : roundsAway r neg) (q : Nat) : p ≤ q ↔ x ≤ V q := by
  obtain ⟨high, first⟩ := rounds.away mono away
  exact ⟨fun le => high.trans (mono.monotone le), first q⟩

theorem RoundsTo.le_iff_of_near (near : r = .rne ∨ r = .rmm) {q : Nat} (odd : q % 2 = 1) :
    p ≤ q ↔ 2 * x < V q + V (q + 1) := by
  have step := mono q.lt_succ_self
  rcases lt_or_ge x (V q) with below | above
  · exact iff_of_true (rounds.ge_of_le mono below.le) (by linarith)
  · rcases lt_or_ge x (V (q + 1)) with inside | past
    · obtain ⟨b, low, high, ends⟩ := rounds
      have here : b = q := by
        have first : q < b + 1 := mono.lt_iff_lt.mp (above.trans_lt high)
        have last : b < q + 1 := mono.lt_iff_lt.mp (low.trans_lt inside)
        omega
      subst here
      rw [climbs_iff_of_odd near odd, not_le] at ends
      rcases ends with ⟨rfl, stays⟩ | ⟨rfl, moves⟩
      · exact iff_of_true le_rfl stays
      · exact iff_of_false (by omega) (by linarith)
    · have beyond := rounds.le_of_le mono past
      exact iff_of_false (by omega) (by linarith)

/-- When a number rounds to an odd point or below. -/
theorem RoundsTo.le_iff {q : Nat} (odd : q % 2 = 1) : p ≤ q ↔ (roundsDown r neg → x < V (q + 1)) ∧
    (roundsAway r neg → x ≤ V q) ∧ ((r = .rne ∨ r = .rmm) → 2 * x < V q + V (q + 1)) :=
  iff_of_modes (fun down => Nat.lt_succ_iff.symm.trans (rounds.lt_iff_of_down mono down _))
    (fun away => rounds.le_iff_of_away mono away q) fun near => rounds.le_iff_of_near mono near odd

/-- When a number rounds past an odd point. -/
theorem RoundsTo.gt_iff {q : Nat} (odd : q % 2 = 1) : q < p ↔ (roundsDown r neg → V (q + 1) ≤ x) ∧
    (roundsAway r neg → V q < x) ∧ ((r = .rne ∨ r = .rmm) → V q + V (q + 1) ≤ 2 * x) := by
  rw [← not_le]
  exact iff_of_modes
    (fun down => (not_congr (Nat.lt_succ_iff.symm.trans (rounds.lt_iff_of_down mono down _))).trans not_lt)
    (fun away => (not_congr (rounds.le_iff_of_away mono away q)).trans not_le)
    fun near => (not_congr (rounds.le_iff_of_near mono near odd)).trans not_lt

end

/-! ### The model's integer rounding -/

/-- The magnitude x lies in the cell of m × 2^e: at its foot, or above it with a tail. -/
structure Cell (m : Nat) (e : Int) (tail : Bool) (x : ℝ) : Prop where
  low : m * 2 ^ e ≤ x
  high : x < (m + 1) * 2 ^ e
  exact : tail = false ↔ m * 2 ^ e = x

theorem Cell.scaled {m : Nat} {e : Int} {tail : Bool} {x : ℝ} (cell : Cell m e tail x) (q : Int) :
    Cell m (e - q) tail (x / 2 ^ q) := by
  have power : (0 : ℝ) < 2 ^ q := zpow_pos two_pos q
  have shift (y : ℝ) : y * 2 ^ (e - q) = y * 2 ^ e / 2 ^ q := by rw [zpow_sub₀ two_ne_zero, mul_div_assoc]
  refine ⟨?_, ?_, ?_⟩
  · rw [shift]
    exact div_le_div_of_nonneg_right cell.low power.le
  · rw [shift]
    exact div_lt_div_of_pos_right cell.high power
  · rw [shift, div_left_inj' power.ne', cell.exact]

/-- A whole number is below what lies in the cell of m when it is below m, or m itself below a tail. -/
theorem Cell.lt_iff {m : Nat} {tail : Bool} {x : ℝ} (cell : Cell m 0 tail x) (c : Nat) :
    (c < m ∨ m = c ∧ tail = true) ↔ (c : ℝ) < x := by
  obtain ⟨low, high, exact⟩ := cell
  rw [zpow_zero, mul_one] at low high exact
  cases tail with
  | false =>
    rw [← exact.mp rfl, Nat.cast_lt]
    simp
  | true =>
    have above : (m : ℝ) < x := lt_of_le_of_ne low fun same => nomatch exact.mpr same
    constructor
    · rintro (lt | ⟨rfl, -⟩)
      · exact (Nat.cast_lt.mpr lt).trans above
      · exact above
    · intro lt
      have bound : c < m + 1 := by exact_mod_cast lt.trans high
      simp only [and_true]
      omega

theorem Cell.eq_iff {m : Nat} {tail : Bool} {x : ℝ} (cell : Cell m 0 tail x) (c : Nat) :
    (m = c ∧ tail = false) ↔ (c : ℝ) = x := by
  obtain ⟨low, high, exact⟩ := cell
  rw [zpow_zero, mul_one] at low high exact
  constructor
  · rintro ⟨rfl, none⟩
    exact exact.mp none
  · rintro rfl
    have same : m = c := by
      have least : m ≤ c := by exact_mod_cast low
      have most : c < m + 1 := by exact_mod_cast high
      omega
    exact ⟨same, exact.mpr (by rw [same])⟩

/-- A number and the whole part of its cell differ by a remainder of 2^(s+1) and a tail. -/
theorem Cell.ne_iff {n rem s : Nat} {tail : Bool} {y : ℝ} (cell : Cell rem 0 tail ((y - n) * 2 ^ (s + 1))) :
    (rem ≠ 0 ∨ tail = true) ↔ (n : ℝ) ≠ y := by
  have power : (2 : ℝ) ^ (s + 1) ≠ 0 := by positivity
  have exact := cell.eq_iff 0
  rw [Nat.cast_zero, zero_eq_mul, or_iff_left power, sub_eq_zero, eq_comm (a := y)] at exact
  rw [ne_eq (n : ℝ), ← exact, not_and_or, Bool.not_eq_false]

/-- The rounding of a remainder of 2^(s+1) and its tail is that of the number on the grid of the integers. -/
theorem roundsUp_iff_climbs (r : Rnd) (neg : Bool) {n rem s : Nat} {tail : Bool} {y : ℝ}
    (cell : Cell rem 0 tail ((y - n) * 2 ^ (s + 1))) :
    roundsUp r neg (n % 2 == 1) rem (2 ^ s) tail = true ↔ climbs (fun n => (n : ℝ)) r neg y n := by
  have power : (0 : ℝ) < 2 ^ s := by positivity
  have twice : (y - n) * 2 ^ (s + 1) = 2 * (y - n) * (2 ^ s : ℝ) := by ring
  have above : (2 ^ s < rem ∨ rem = 2 ^ s ∧ tail = true) ↔ (n : ℝ) + (n + 1 : Nat) < 2 * y := by
    rw [cell.lt_iff, twice, Nat.cast_pow, Nat.cast_two, lt_mul_iff_one_lt_left power]
    push_cast
    constructor <;> intro <;> linarith
  have tie : (rem = 2 ^ s ∧ tail = false) ↔ (n : ℝ) + (n + 1 : Nat) = 2 * y := by
    rw [cell.eq_iff, twice, Nat.cast_pow, Nat.cast_two, eq_comm, mul_eq_right₀ power.ne']
    push_cast
    constructor <;> intro <;> linarith
  cases r with
  | rne =>
    rw [climbs, ← above, ← tie]
    simp [roundsUp]
  | rmm =>
    rw [climbs, le_iff_lt_or_eq, ← above, ← tie]
    simp [roundsUp]
  | rtz => simp [roundsUp, climbs]
  | rdn => simp [roundsUp, climbs, ← cell.ne_iff]
  | rup => simp [roundsUp, climbs, ← cell.ne_iff]

/-- A cell below the integers: the remainder of its mantissa is the cell of what is left of the number. -/
theorem Cell.remainder {m s : Nat} {tail : Bool} {y : ℝ} (cell : Cell m (-((s : Int) + 1)) tail y) :
    Cell (m % 2 ^ (s + 1)) 0 tail ((y - (m / 2 ^ (s + 1) : Nat)) * 2 ^ (s + 1)) := by
  have power : (0 : ℝ) < 2 ^ (s + 1) := by positivity
  have scale : (2 : ℝ) ^ (-((s : Int) + 1)) = (2 ^ (s + 1))⁻¹ := by
    rw [zpow_neg]
    norm_cast
  have split : (m : ℝ) = 2 ^ (s + 1) * (m / 2 ^ (s + 1) : Nat) + (m % 2 ^ (s + 1) : Nat) := by
    exact_mod_cast (Nat.div_add_mod m (2 ^ (s + 1))).symm
  obtain ⟨low, high, exact⟩ := cell
  rw [scale, ← div_eq_mul_inv, div_le_iff₀ power] at low
  rw [scale, ← div_eq_mul_inv, lt_div_iff₀ power] at high
  rw [scale, ← div_eq_mul_inv, div_eq_iff power.ne'] at exact
  refine ⟨?_, ?_, ?_⟩
  · rw [zpow_zero]
    linarith
  · rw [zpow_zero]
    linarith
  · rw [exact, zpow_zero]
    constructor <;> intro <;> linarith

theorem natCast_strictMono : StrictMono fun n : Nat => (n : ℝ) := Nat.strictMono_cast

/-- The model's rounding of a magnitude to an integer: the integer that the grid of the integers gives, inexact when it is
another number. -/
theorem roundInt_rounds (r : Rnd) (neg : Bool) {m : Nat} {e : Int} {tail : Bool} {y : ℝ} (cell : Cell m e tail y)
    (low : tail = true → e < 0) : RoundsTo (fun n => (n : ℝ)) r neg y (roundInt r neg m e tail).1 ∧
      ((roundInt r neg m e tail).2 = true ↔ (((roundInt r neg m e tail).1 : Nat) : ℝ) ≠ y) := by
  by_cases whole : 0 ≤ e
  · obtain ⟨k, rfl⟩ := Int.eq_ofNat_of_zero_le whole
    have none : tail = false := Bool.eq_false_iff.mpr fun some => absurd (low some) (by omega)
    have same : ((m * 2 ^ k : Nat) : ℝ) = y := by
      rw [← cell.exact.mp none]
      push_cast [zpow_natCast]
      rfl
    rw [Exact.roundInt_of_nonneg, none]
    refine ⟨⟨m * 2 ^ k, same.le, ?_, .inl ⟨rfl, not_climbs_of_eq natCast_strictMono same⟩⟩, by simp [same]⟩
    rw [← same]
    exact natCast_strictMono (Nat.lt_succ_self _)
  · obtain ⟨s, rfl⟩ : ∃ s : Nat, e = -((s : Int) + 1) := ⟨(-e - 1).toNat, by omega⟩
    have count : (-(-((s : Int) + 1))).toNat = s + 1 := by omega
    have power : (0 : ℝ) < 2 ^ (s + 1) := by positivity
    have rest := cell.remainder
    have up := roundsUp_iff_climbs r neg rest
    have flag := rest.ne_iff
    have size : ((m % 2 ^ (s + 1) : Nat) : ℝ) + 1 ≤ 2 ^ (s + 1) := by
      exact_mod_cast Nat.succ_le_of_lt (Nat.mod_lt m (Nat.two_pow_pos (s + 1)))
    obtain ⟨foot, ceiling, -⟩ := rest
    rw [zpow_zero, mul_one] at foot ceiling
    rw [roundInt, if_neg whole, count]
    simp only [Nat.add_sub_cancel]
    generalize m / 2 ^ (s + 1) = n at *
    have below : (n : ℝ) ≤ y := sub_nonneg.mp (nonneg_of_mul_nonneg_left ((Nat.cast_nonneg _).trans foot) power)
    have next : y < (n + 1 : Nat) := by
      have lt : (y - n) * 2 ^ (s + 1) < 1 * 2 ^ (s + 1) := by linarith
      have := lt_of_mul_lt_mul_right lt power.le
      push_cast
      linarith
    rw [Bool.or_eq_true, bne_iff_ne, flag]
    split
    · next moves =>
      refine ⟨⟨n, below, next, .inr ⟨rfl, up.mp moves⟩⟩, iff_of_true ?_ next.ne'⟩
      exact fun same => not_climbs_of_eq natCast_strictMono same (up.mp moves)
    · next stays => exact ⟨⟨n, below, next, .inl ⟨rfl, fun moves => stays (up.mpr moves)⟩⟩, Iff.rfl⟩

end Sys2Proof.Proofs.Grid
end
section
/-! PROOF. The grid of a format (R162, Table 6.1): the numbers that its magnitude patterns stand for, in order. -/

namespace Sys2Proof.Proofs.Formats
open Sys2Proof Sys2Proof.Machine Exact Grid

/-! ### Magnitude patterns in units of the least number -/

/-- The binade of a magnitude pattern, counted from the subnormal and the first normal numbers, which share one. -/
def binade (f : Fmt) (p : Nat) : Nat := p / 2 ^ f.frac - 1

/-- The number of a magnitude pattern in units of the format's least number. -/
def units (f : Fmt) (p : Nat) : Nat := (p - binade f p * 2 ^ f.frac) * 2 ^ binade f p

/-- A pattern by its binade and its mantissa there. -/
theorem binade_split (f : Fmt) (p : Nat) : ∃ m, p = binade f p * 2 ^ f.frac + m ∧ m < 2 ^ (f.frac + 1) ∧
    (2 ^ f.frac ≤ m ∨ binade f p = 0) := by
  have pos : 0 < 2 ^ f.frac := by positivity
  have split := Nat.div_add_mod p (2 ^ f.frac)
  have rem := Nat.mod_lt p pos
  rw [Nat.mul_comm] at split
  unfold binade
  rw [Nat.pow_succ]
  cases top : p / 2 ^ f.frac with
  | zero =>
    rw [top] at split
    exact ⟨p, by simp, by omega, .inr rfl⟩
  | succ t =>
    rw [top, Nat.succ_mul] at split
    exact ⟨2 ^ f.frac + p % 2 ^ f.frac, by simp only [Nat.add_sub_cancel]; omega, by omega, .inl (by omega)⟩

/-- The units of a pattern by its binade and its mantissa, which may be the least one of the next binade. -/
theorem units_of_mantissa (f : Fmt) {t m : Nat} (bits : m ≤ 2 ^ (f.frac + 1)) (normal : 2 ^ f.frac ≤ m ∨ t = 0) :
    units f (t * 2 ^ f.frac + m) = m * 2 ^ t := by
  have pos : 0 < 2 ^ f.frac := by positivity
  rw [Nat.pow_succ] at bits
  have high : (t * 2 ^ f.frac + m) / 2 ^ f.frac = t + m / 2 ^ f.frac := by
    rw [Nat.add_comm, Nat.add_mul_div_right _ _ pos, Nat.add_comm]
  unfold units binade
  rw [high]
  rcases lt_or_ge m (2 ^ f.frac) with small | large
  · have first : t = 0 := normal.resolve_left (by omega)
    simp [first, Nat.div_eq_of_lt small]
  · rcases bits.lt_or_eq with inside | top
    · have one : m / 2 ^ f.frac = 1 := Nat.div_eq_of_lt_le (by omega) (by omega)
      rw [one, Nat.add_sub_cancel, Nat.add_sub_cancel_left]
    · have two : m / 2 ^ f.frac = 2 := by rw [top, Nat.mul_div_cancel_left _ pos]
      have binade : t + 2 - 1 = t + 1 := rfl
      have mantissa : t * 2 ^ f.frac + m - (t + 1) * 2 ^ f.frac = 2 ^ f.frac := by
        rw [Nat.succ_mul]
        omega
      rw [two, binade, mantissa, top, Nat.pow_succ]
      ring

theorem units_succ (f : Fmt) (p : Nat) : units f (p + 1) = units f p + 2 ^ binade f p := by
  obtain ⟨m, split, bits, normal⟩ := binade_split f p
  have here := units_of_mantissa f bits.le normal
  have next := units_of_mantissa f (m := m + 1) (t := binade f p) bits (by omega)
  rw [← split] at here
  rw [← Nat.add_assoc, ← split] at next
  rw [here, next]
  ring

theorem units_strictMono (f : Fmt) : StrictMono (units f) :=
  strictMono_nat_of_lt_succ fun p => by
    rw [units_succ]
    exact Nat.lt_add_of_pos_right (by positivity)

/-- The least number of a format is 2^least. -/
def least (f : Fmt) : Int := f.emin - f.frac

/-- The number of a magnitude pattern. -/
def point (f : Fmt) (p : Nat) : ℚ := dyadic (units f p) (least f)

/-- The grid of a format goes on past its largest finite pattern. -/
def grid (f : Fmt) (p : Nat) : ℝ := (point f p : ℚ)

theorem grid_eq (f : Fmt) (p : Nat) : grid f p = units f p * 2 ^ least f := by
  unfold grid point dyadic
  push_cast
  rfl

theorem grid_strictMono (f : Fmt) : StrictMono (grid f) := fun p q lt => by
  rw [grid_eq, grid_eq]
  exact mul_lt_mul_of_pos_right (Nat.cast_lt.mpr (units_strictMono f lt)) (zpow_pos two_pos _)

theorem grid_of_mantissa (f : Fmt) {t m : Nat} (bits : m ≤ 2 ^ (f.frac + 1)) (normal : 2 ^ f.frac ≤ m ∨ t = 0) :
    grid f (t * 2 ^ f.frac + m) = m * 2 ^ (least f + t) := by
  rw [grid_eq, units_of_mantissa f bits normal, zpow_add₀ two_ne_zero, zpow_natCast]
  push_cast
  ring

/-! ### The values of patterns -/

/-- The magnitude of a pattern: its exponent over its fraction. -/
def magField (f : Fmt) (u : Nat) : Nat := expField f u * 2 ^ f.frac + fracField f u

/-- The number that a pattern stands for when it is finite. -/
def finiteVal (f : Fmt) (u : Nat) : Val :=
  if expField f u = 0 then .num (signField f u) (fracField f u) (f.emin - f.frac)
  else .num (signField f u) (2 ^ f.frac + fracField f u) (expField f u - f.bias - f.frac)

/-- What all formats of Table 6.1 share: a pattern is finite up to the largest finite one; above that it is a NaN or, in a
format that has infinities, the pattern of one. -/
structure Format (f : Fmt) : Prop where
  width : f.width = f.exp + f.frac + 1
  exp : 0 < f.exp
  frac : 0 < f.frac
  top : f.maxPat < 2 ^ (f.exp + f.frac)
  finite : ∀ u, magField f u ≤ f.maxPat → f.decode u = finiteVal f u
  special : ∀ u, f.maxPat < magField f u →
    (f.decode u).isNan = true ∨ f.decode u = .inf (signField f u) ∧ f.infPat = some (magField f u)

theorem format_of_ieee {f : Fmt} (ieee : Ieee f) (frac : 0 < f.frac) : Format f := by
  have pos : 0 < 2 ^ f.frac := by positivity
  have two : 2 ≤ 2 ^ f.exp := Nat.le_self_pow ieee.exp.ne' 2
  have max : f.maxPat = (2 ^ f.exp - 1) * 2 ^ f.frac - 1 := by rw [Fmt.maxPat, ieee.special]
  have inf : f.infPat = some ((2 ^ f.exp - 1) * 2 ^ f.frac) := by rw [Fmt.infPat, ieee.special]
  have nonempty : 0 < (2 ^ f.exp - 1) * 2 ^ f.frac := Nat.mul_pos (by omega) pos
  have inner (u : Nat) : magField f u ≤ f.maxPat ↔ expField f u ≠ 2 ^ f.exp - 1 := by
    have field := expField_lt f u
    have low := fracField_lt f u
    constructor
    · intro le top
      rw [magField, top] at le
      omega
    · intro other
      have step : (expField f u + 1) * 2 ^ f.frac ≤ (2 ^ f.exp - 1) * 2 ^ f.frac := Nat.mul_le_mul_right _ (by omega)
      rw [Nat.add_mul, Nat.one_mul] at step
      unfold magField
      omega
  refine ⟨ieee.width, ieee.exp, frac, ?_, fun u le => ?_, fun u gt => ?_⟩
  · rw [max, Nat.pow_add]
    have := Nat.mul_le_mul_right (2 ^ f.frac) (Nat.sub_le (2 ^ f.exp) 1)
    omega
  · rw [decode_eq ieee, if_neg ((inner u).mp le)]
    rfl
  · have top : expField f u = 2 ^ f.exp - 1 := by simpa [inner] using gt.not_ge
    rw [decode_eq ieee, if_pos top]
    split
    · next zero =>
      refine .inr ⟨rfl, ?_⟩
      rw [inf, magField, top, zero, Nat.add_zero]
    · exact .inl rfl

theorem format_of_none {f : Fmt} (none : f.special = .none) (width : f.width = f.exp + f.frac + 1) (exp : 0 < f.exp)
    (frac : 0 < f.frac) : Format f := by
  have max : f.maxPat = 2 ^ (f.exp + f.frac) - 1 := by rw [Fmt.maxPat, none]
  have all (u : Nat) : magField f u ≤ f.maxPat := by
    have step : (expField f u + 1) * 2 ^ f.frac ≤ 2 ^ f.exp * 2 ^ f.frac := Nat.mul_le_mul_right _ (expField_lt f u)
    have low := fracField_lt f u
    rw [Nat.add_mul, Nat.one_mul, ← Nat.pow_add] at step
    rw [max, magField]
    omega
  refine ⟨width, exp, frac, ?_, fun u _ => ?_, fun u gt => absurd (all u) gt.not_ge⟩
  · rw [max]
    exact Nat.sub_lt (by positivity) one_pos
  · unfold Fmt.decode
    rw [none]
    rfl

theorem format_e4m3 : Format .e4m3 := by
  have mag (u : Nat) : magField .e4m3 u = u % 128 := by
    show u / 8 % 16 * 8 + u % 8 = u % 128
    omega
  have max : Fmt.e4m3.maxPat = 126 := rfl
  refine ⟨rfl, by decide, by decide, by decide, fun u le => ?_, fun u gt => .inl ?_⟩
  · rw [mag, max] at le
    exact if_neg (by omega)
  · rw [mag, max] at gt
    have nan : Fmt.e4m3.decode u = .nan false := if_pos (by omega)
    rw [nan]
    rfl

theorem format_of_mem {f : Fmt} (listed : f ∈ allFormats) : Format f := by
  simp only [allFormats, List.mem_cons, List.not_mem_nil, or_false] at listed
  rcases listed with rfl | rfl | rfl | rfl | rfl | rfl | rfl | rfl | rfl
  · exact format_of_ieee ⟨rfl, rfl, by decide⟩ (by decide)
  · exact format_of_ieee ⟨rfl, rfl, by decide⟩ (by decide)
  · exact format_of_ieee ⟨rfl, rfl, by decide⟩ (by decide)
  · exact format_of_ieee ⟨rfl, rfl, by decide⟩ (by decide)
  · exact format_e4m3
  · exact format_of_ieee ⟨rfl, rfl, by decide⟩ (by decide)
  · exact format_of_none rfl rfl (by decide) (by decide)
  · exact format_of_none rfl rfl (by decide) (by decide)
  · exact format_of_none rfl rfl (by decide) (by decide)

/-- A finite number is that of its sign and its point. -/
theorem finiteVal_eq (f : Fmt) (u : Nat) : ∃ m e, finiteVal f u = .num (signField f u) m e ∧
    dyadic m e = point f (magField f u) := by
  have lt := fracField_lt f u
  have half : 2 ^ (f.frac + 1) = 2 ^ f.frac * 2 := Nat.pow_succ 2 f.frac
  unfold finiteVal
  split
  · next zero =>
    refine ⟨_, _, rfl, ?_⟩
    have same : units f (0 * 2 ^ f.frac + fracField f u) = fracField f u * 2 ^ 0 := units_of_mantissa f (by omega) (.inr rfl)
    rw [point, magField, zero, same, Nat.pow_zero, Nat.mul_one]
    rfl
  · next nonzero =>
    obtain ⟨t, field⟩ := Nat.exists_eq_succ_of_ne_zero nonzero
    refine ⟨_, _, rfl, ?_⟩
    have same : units f (t * 2 ^ f.frac + (2 ^ f.frac + fracField f u)) = (2 ^ f.frac + fracField f u) * 2 ^ t :=
      units_of_mantissa f (by omega) (.inl (by omega))
    have split : magField f u = t * 2 ^ f.frac + (2 ^ f.frac + fracField f u) := by
      rw [magField, field, Nat.succ_mul, Nat.add_assoc]
    have exponent : (expField f u : Int) - f.bias - f.frac = least f + t := by
      rw [field, least, Fmt.emin]
      push_cast
      ring
    rw [point, split, same, dyadic_mul_two_pow, exponent]

section
variable {f : Fmt} (fmt : Format f)
include fmt

/-- The format with the infinities and NaNs of IEEE at its top exponent, whose patterns have the same fields. -/
theorem Format.ieee : Ieee { f with special := .ieee } := ⟨rfl, fmt.width, fmt.exp⟩

theorem Format.eq_signed {u : Nat} (lt : u < 2 ^ f.width) : u = f.signed (signField f u) (magField f u) :=
  eq_signed_fields fmt.ieee lt

theorem Format.fields_signed (neg : Bool) {e m : Nat} (elt : e < 2 ^ f.exp) (mlt : m < 2 ^ f.frac) :
    signField f (f.signed neg (e * 2 ^ f.frac + m)) = neg ∧ expField f (f.signed neg (e * 2 ^ f.frac + m)) = e ∧
      fracField f (f.signed neg (e * 2 ^ f.frac + m)) = m :=
  Exact.fields_signed fmt.ieee neg elt mlt

theorem Format.magField_signed (neg : Bool) {p : Nat} (lt : p < 2 ^ (f.exp + f.frac)) :
    signField f (f.signed neg p) = neg ∧ magField f (f.signed neg p) = p := by
  have high : p / 2 ^ f.frac < 2 ^ f.exp := Nat.div_lt_of_lt_mul (by rwa [← Nat.pow_add, Nat.add_comm f.frac])
  obtain ⟨sign, field, fraction⟩ := fmt.fields_signed neg high (Nat.mod_lt p (Nat.two_pow_pos f.frac))
  rw [Nat.div_add_mod'] at sign field fraction
  rw [magField, field, fraction, Nat.div_add_mod']
  exact ⟨sign, rfl⟩

/-- A magnitude up to the largest finite one stands for its point of the grid. -/
theorem Format.magOf_eq {p : Nat} (le : p ≤ f.maxPat) : f.magOf p = point f p := by
  obtain ⟨-, mag⟩ := fmt.magField_signed false (le.trans_lt fmt.top)
  have unsigned : f.signed false p = p := rfl
  rw [unsigned] at mag
  obtain ⟨m, e, value, magnitude⟩ := finiteVal_eq f p
  rw [mag] at magnitude
  rw [Fmt.magOf, fmt.finite p (mag.le.trans le), value]
  exact magnitude

end

end Sys2Proof.Proofs.Formats
end
section
/-! PROOF. Rounding into a format (R89, R163, R165): the magnitude rounds to a point of the format's grid; the exceptions say
whether it is another number, tiny, or past the largest finite one. -/

namespace Sys2Proof.Proofs.Rounding
open Sys2Proof Sys2Proof.Machine Exact Grid Formats

/-! ### The magnitude that is rounded -/

theorem cell_of_given {f : Fmt} {m : Nat} {e : Int} {tail : Bool} {x : ℝ} (given : f.given m e tail x) :
    Cell m e tail x ∧ m ≠ 0 ∧ (tail = true → 2 ^ (f.frac + 2) ≤ m) := by
  have cast (n : Nat) : ((dyadic n e : ℚ) : ℝ) = n * 2 ^ e := by push_cast [dyadic]; rfl
  have next : x = (m : ℝ) * 2 ^ e → x < (m + 1) * 2 ^ e := fun same => by
    rw [same]
    exact mul_lt_mul_of_pos_right (lt_add_one _) (zpow_pos two_pos e)
  unfold Fmt.given at given
  rw [cast, cast] at given
  cases tail with
  | false =>
    obtain ⟨same, nonzero⟩ := given
    exact ⟨⟨same.ge, next same, iff_of_true rfl same.symm⟩, nonzero, nofun⟩
  | true =>
    obtain ⟨low, high, bits⟩ := given
    refine ⟨⟨low.le, by exact_mod_cast high, iff_of_false nofun low.ne⟩, fun zero => ?_, fun _ => bits⟩
    simp [zero] at bits

/-- A number that is not 0 is given to the bit. -/
theorem given_exact (f : Fmt) {m : Nat} (nonzero : m ≠ 0) (e : Int) : f.given m e false ((dyadic m e : ℚ) : ℝ) := by
  rw [Fmt.given, if_neg Bool.false_ne_true]
  exact ⟨rfl, nonzero⟩

/-- The binade of a magnitude. -/
theorem cell_binade {m : Nat} {e : Int} {tail : Bool} {x : ℝ} (cell : Cell m e tail x) (nonzero : m ≠ 0) :
    2 ^ expOf m e ≤ x ∧ x < 2 ^ (expOf m e + 1) := by
  have power : (0 : ℝ) < 2 ^ e := zpow_pos two_pos e
  have least : (2 : ℝ) ^ Nat.log2 m ≤ m := by exact_mod_cast Nat.log2_self_le nonzero
  have most : (m : ℝ) + 1 ≤ 2 ^ (Nat.log2 m + 1) := by exact_mod_cast Nat.lt_log2_self
  have exponent : expOf m e + 1 = (Nat.log2 m + 1 : Nat) + e := by
    rw [expOf]
    push_cast
    ring
  constructor
  · rw [expOf, zpow_add₀ two_ne_zero, zpow_natCast]
    exact (mul_le_mul_of_nonneg_right least power.le).trans cell.low
  · rw [exponent, zpow_add₀ two_ne_zero, zpow_natCast]
    exact cell.high.trans_le (mul_le_mul_of_nonneg_right most power.le)

/-- The numbers n × 2^q. -/
def multiples (q : Int) (n : Nat) : ℝ := (dyadic n q : ℚ)

theorem multiples_eq (q : Int) : multiples q = fun n : Nat => (n : ℝ) * 2 ^ q := by
  funext n
  push_cast [multiples, dyadic]
  rfl

theorem multiples_strictMono (q : Int) : StrictMono (multiples q) := fun _ _ lt => by
  rw [multiples_eq]
  exact mul_lt_mul_of_pos_right (Nat.cast_lt.mpr lt) (zpow_pos two_pos q)

theorem multiples_two_pow (q : Int) (k : Nat) : multiples q (2 ^ k) = 2 ^ (q + k) := by
  rw [multiples_eq, zpow_add₀ two_ne_zero, zpow_natCast]
  push_cast
  ring

/-- The model's integer rounding at a scale. -/
theorem roundInt_multiples (r : Rnd) (neg : Bool) {m : Nat} {e q : Int} {tail : Bool} {x : ℝ} (cell : Cell m e tail x)
    (low : tail = true → e < q) : RoundsTo (multiples q) r neg x (roundInt r neg m (e - q) tail).1 ∧
      ((roundInt r neg m (e - q) tail).2 = true ↔ multiples q (roundInt r neg m (e - q) tail).1 ≠ x) := by
  have power : (0 : ℝ) < 2 ^ q := zpow_pos two_pos q
  obtain ⟨rounds, flag⟩ := roundInt_rounds r neg (cell.scaled q) fun some => sub_neg.mpr (low some)
  have scaled := rounds.scaled power
  rw [div_mul_cancel₀ _ power.ne'] at scaled
  rw [ne_eq, eq_div_iff power.ne'] at flag
  rw [multiples_eq]
  exact ⟨scaled, flag⟩

/-! ### The grid of a format -/

/-- Within one binade, or below the first normal number, the grid of a format is that of the multiples of one power. -/
theorem rounds_onto_grid {f : Fmt} (frac : 0 < f.frac) {r : Rnd} {neg : Bool} {x : ℝ} {t n : Nat}
    (rounds : RoundsTo (multiples (least f + t)) r neg x n) (low : multiples (least f + t) (2 ^ f.frac) ≤ x ∨ t = 0)
    (high : x < multiples (least f + t) (2 ^ (f.frac + 1))) : RoundsTo (grid f) r neg x (t * 2 ^ f.frac + n) ∧
      multiples (least f + t) n = grid f (t * 2 ^ f.frac + n) := by
  have mono := multiples_strictMono (least f + t)
  have same {b : Nat} (bits : b ≤ 2 ^ (f.frac + 1)) (normal : 2 ^ f.frac ≤ b ∨ t = 0) :
      multiples (least f + t) b = grid f (t * 2 ^ f.frac + b) := by
    rw [multiples_eq, grid_of_mantissa f bits normal]
  refine ⟨?_, same (rounds.ge_of_le mono high.le) (low.imp_left fun le => rounds.le_of_le mono le)⟩
  obtain ⟨b, foot, next, ends⟩ := rounds
  have bits : b < 2 ^ (f.frac + 1) := mono.lt_iff_lt.mp (foot.trans_lt high)
  have normal : 2 ^ f.frac ≤ b ∨ t = 0 := low.imp_left fun le => Nat.lt_succ_iff.mp (mono.lt_iff_lt.mp (le.trans_lt next))
  have here := same bits.le normal
  have above := same bits (normal.imp_left fun le => le.trans b.le_succ)
  have parity : b % 2 = (t * 2 ^ f.frac + b) % 2 := by
    obtain ⟨k, succ⟩ := Nat.exists_eq_succ_of_ne_zero frac.ne'
    have even : t * 2 ^ f.frac = 2 * (t * 2 ^ k) := by
      rw [succ, Nat.pow_succ]
      ring
    omega
  rw [climbs_congr here above parity] at ends
  refine ⟨t * 2 ^ f.frac + b, here ▸ foot, above ▸ next, ?_⟩
  rcases ends with ⟨rfl, stays⟩ | ⟨rfl, moves⟩
  · exact .inl ⟨rfl, stays⟩
  · exact .inr ⟨rfl, moves⟩

/-! ### Tiny numbers (R89) -/

section
variable {f : Fmt} {r : Rnd} {neg : Bool} {x : ℝ}

theorem isTiny_iff : f.isTiny r neg x ↔ (roundsDown r neg → x < 2 ^ f.emin) ∧
    (roundsAway r neg → x ≤ 2 ^ f.emin - 2 ^ (f.emin - f.frac - 1)) ∧
    ((r = .rne ∨ r = .rmm) → x < 2 ^ f.emin - 2 ^ (f.emin - f.frac - 1) / 2) := by
  have cast (k : Int) : ((dyadic 1 k : ℚ) : ℝ) = 2 ^ k := by simp [dyadic]
  rw [Fmt.isTiny, cast, cast]

/-- A number below half the least normal one is tiny. -/
theorem isTiny_of_lt_half (small : x < 2 ^ (f.emin - 1)) : f.isTiny r neg x := by
  have positive : (0 : ℝ) < 2 ^ (f.emin - f.frac - 1) := zpow_pos two_pos _
  have unit : (2 : ℝ) ^ (f.emin - f.frac - 1) ≤ 2 ^ (f.emin - 1) := zpow_le_zpow_right₀ one_le_two (by omega)
  have double : (2 : ℝ) ^ f.emin = 2 ^ (f.emin - 1) + 2 ^ (f.emin - 1) := by
    rw [← two_mul, ← zpow_one_add₀ two_ne_zero, add_sub_cancel]
  refine isTiny_iff.mpr ⟨fun _ => ?_, fun _ => ?_, fun _ => ?_⟩ <;> linarith

/-- A number at or above the least normal one is not tiny. -/
theorem not_isTiny_of_normal (normal : 2 ^ f.emin ≤ x) : ¬ f.isTiny r neg x := fun tiny => by
  have positive : (0 : ℝ) < 2 ^ (f.emin - f.frac - 1) := zpow_pos two_pos _
  obtain ⟨down, away, near⟩ := isTiny_iff.mp tiny
  rcases mode_cases r neg with mode | mode | mode
  · linarith [down mode]
  · linarith [away mode]
  · linarith [near mode]

/-- In the binade below the least normal number what is tiny rounds within the binade. -/
theorem lt_iff_isTiny {q : Int} {n : Nat} (rounds : RoundsTo (multiples q) r neg x n) (edge : q + f.frac + 1 = f.emin) :
    n < 2 ^ (f.frac + 1) ↔ f.isTiny r neg x := by
  have pos := Nat.two_pow_pos (f.frac + 1)
  obtain ⟨k, count⟩ : ∃ k, 2 ^ (f.frac + 1) = k + 1 := ⟨2 ^ (f.frac + 1) - 1, by omega⟩
  have odd : k % 2 = 1 := by
    rw [Nat.pow_succ] at count
    omega
  have top : multiples q (k + 1) = 2 ^ f.emin := by
    rw [← count, multiples_two_pow]
    congr 1
    push_cast
    omega
  have unit : multiples q k + 2 ^ (f.emin - f.frac - 1) = multiples q (k + 1) := by
    rw [show f.emin - f.frac - 1 = q by omega, multiples_eq]
    push_cast
    ring
  rw [count, Nat.lt_succ_iff, rounds.le_iff (multiples_strictMono q) odd, isTiny_iff, top]
  refine and_congr Iff.rfl (and_congr (imp_congr_right fun _ => ?_) (imp_congr_right fun _ => ?_))
  · constructor <;> intro <;> linarith
  · constructor <;> intro <;> linarith

/-- What is rounded with an unbounded exponent is below the least normal number when it is tiny. -/
theorem tiny_iff {q : Int} {n : Nat} (rounds : RoundsTo (multiples q) r neg x n) (low : multiples q (2 ^ f.frac) ≤ x)
    (high : x < multiples q (2 ^ (f.frac + 1))) : (n ≠ 0 ∧ expOf n q < f.emin) ↔ f.isTiny r neg x := by
  have mono := multiples_strictMono q
  have first : 2 ^ f.frac ≤ n := rounds.le_of_le mono low
  have last : n ≤ 2 ^ (f.frac + 1) := rounds.ge_of_le mono high.le
  have nonzero : n ≠ 0 := ((Nat.two_pow_pos f.frac).trans_le first).ne'
  have logLow : f.frac ≤ Nat.log2 n := (Nat.le_log2 nonzero).mpr first
  have logHigh : Nat.log2 n < f.frac + 2 := (Nat.log2_lt nonzero).mpr (last.trans_lt (Nat.pow_lt_pow_succ (by decide)))
  rw [and_iff_right nonzero, expOf]
  rw [multiples_two_pow] at low high
  rcases lt_trichotomy (q + f.frac + 1) f.emin with below | edge | above
  · have small : x < 2 ^ (f.emin - 1) := high.trans_le (zpow_le_zpow_right₀ one_le_two (by push_cast; omega))
    exact iff_of_true (by omega) (isTiny_of_lt_half small)
  · have inside := Nat.log2_lt (k := f.frac + 1) nonzero
    rw [← lt_iff_isTiny rounds edge, ← inside]
    omega
  · have normal : (2 : ℝ) ^ f.emin ≤ x := (zpow_le_zpow_right₀ one_le_two (by omega)).trans low
    exact iff_of_false (by omega) (not_isTiny_of_normal normal)

end

/-! ### The model's rounding -/

/-- Whether an overflow gives the infinity. -/
def overflowsToInf (r : Rnd) (neg : Bool) : Bool :=
  match r with
  | .rne | .rmm => true
  | .rtz => false
  | .rdn => neg
  | .rup => !neg

theorem overflowsToInf_iff (r : Rnd) (neg : Bool) : overflowsToInf r neg = true ↔ ¬ roundsDown r neg := by
  cases r <;> cases neg <;> simp [overflowsToInf, roundsDown]

/-- What the model gives for a number that rounds past the largest finite one. -/
def overflowed (f : Fmt) (r : Rnd) (neg : Bool) : Rounded :=
  match f.infPat with
  | some inf => { pat := f.signed neg (if overflowsToInf r neg then inf else f.maxPat), exc := .overflow, counted := false }
  | none => { pat := f.signed neg f.maxPat, exc := .overflow, counted := true }

/-- What the model gives for a number that rounds to a finite magnitude. -/
def delivered (f : Fmt) (neg : Bool) (p : Nat) (inexact tiny : Bool) : Rounded :=
  { pat := f.signed neg p, exc := { Exc.none with nx := inexact, uf := inexact && tiny }, counted := false }

theorem overflowed_of (f : Fmt) (r : Rnd) (neg : Bool) : (overflowed f r neg).exc = .overflow := by
  unfold overflowed
  split <;> rfl

theorem roundMag_of_exponents (f : Fmt) (r : Rnd) (neg : Bool) {m : Nat} {e q : Int} {t : Nat} (tail : Bool)
    (top : expOf m e - f.frac = q) (shift : max q (least f) = least f + t) : f.roundMag r neg m e tail =
      if f.maxPat < t * 2 ^ f.frac + (roundInt r neg m (e - (least f + t)) tail).1 then overflowed f r neg
      else delivered f neg (t * 2 ^ f.frac + (roundInt r neg m (e - (least f + t)) tail).1)
        (roundInt r neg m (e - (least f + t)) tail).2
        (decide ((roundInt r neg m (e - q) tail).1 ≠ 0 ∧ expOf (roundInt r neg m (e - q) tail).1 q < f.emin)) := by
  have count : (max q (f.emin - f.frac) - (f.emin - f.frac)).toNat = t := by
    rw [least] at shift
    omega
  subst top
  unfold Fmt.roundMag
  simp only [count]
  rw [show max _ (f.emin - f.frac) = least f + t from shift]
  rfl

/-- A magnitude rounds to a point of the format's grid, inexactly when it is another number, and to an overflow past the
largest finite one. -/
theorem roundMag_rounds {f : Fmt} (frac : 0 < f.frac) (r : Rnd) (neg : Bool) {m : Nat} {e : Int} {tail : Bool} {x : ℝ}
    (given : f.given m e tail x) : ∃ (p : Nat) (inexact tiny : Bool), RoundsTo (grid f) r neg x p ∧
      (inexact = true ↔ grid f p ≠ x) ∧ (tiny = true ↔ f.isTiny r neg x) ∧
      f.roundMag r neg m e tail = if f.maxPat < p then overflowed f r neg else delivered f neg p inexact tiny := by
  obtain ⟨cell, nonzero, bits⟩ := cell_of_given given
  obtain ⟨low, high⟩ := cell_binade cell nonzero
  have room (q : Int) (le : expOf m e - f.frac ≤ q) (some : tail = true) : e < q := by
    have := (Nat.le_log2 nonzero).mpr (bits some)
    rw [expOf] at le
    omega
  obtain ⟨q, exponent⟩ : ∃ q, expOf m e - f.frac = q := ⟨_, rfl⟩
  obtain ⟨t, shift, place⟩ : ∃ t : Nat, max q (least f) = least f + t ∧ (q = least f + t ∨ t = 0) :=
    ⟨(max q (least f) - least f).toNat, by omega, by omega⟩
  have start : multiples q (2 ^ f.frac) ≤ x := by
    rw [multiples_two_pow, ← exponent, sub_add_cancel]
    exact low
  have finish (l : Int) (le : q ≤ l) : x < multiples l (2 ^ (f.frac + 1)) := by
    rw [multiples_two_pow]
    exact high.trans_le (zpow_le_zpow_right₀ one_le_two (by push_cast; omega))
  have first (same : q = least f + t) : multiples (least f + t) (2 ^ f.frac) ≤ x := same ▸ start
  have le : q ≤ least f + t := shift ▸ le_max_left ..
  obtain ⟨scaled, flag⟩ := roundInt_multiples r neg cell (room _ (exponent ▸ le))
  obtain ⟨unbounded, -⟩ := roundInt_multiples r neg cell (room q exponent.le)
  obtain ⟨rounds, value⟩ := rounds_onto_grid frac scaled (place.imp_left first) (finish _ le)
  rw [value] at flag
  refine ⟨_, _, _, rounds, flag, ?_, roundMag_of_exponents f r neg tail exponent shift⟩
  rw [decide_eq_true_eq]
  exact tiny_iff unbounded start (finish q le_rfl)

/-! ### A rounded value -/

theorem isRounded_of_rounds {f : Fmt} (fmt : Format f) {r : Rnd} {neg : Bool} {x : ℝ} {p : Nat}
    (rounds : RoundsTo (grid f) r neg x p) (finite : p ≤ f.maxPat) : f.isRounded r neg x p := by
  have mono := grid_strictMono f
  have value {q : Nat} (le : q ≤ f.maxPat) : ((f.magOf q : ℚ) : ℝ) = grid f q := by rw [fmt.magOf_eq le, grid]
  unfold Fmt.isRounded
  refine ⟨finite, fun down => ?_, fun away => ?_, fun near q le => ?_⟩
  · obtain ⟨low, last⟩ := rounds.down mono down
    exact ⟨(value finite).le.trans low, fun q le below => last q ((value le).ge.trans below)⟩
  · obtain ⟨high, first⟩ := rounds.away mono away
    exact ⟨high.trans (value finite).ge, fun q le above => first q (above.trans (value le).le)⟩
  · simp only [value finite, value le]
    exact rounds.near mono near q

/-- In a format with infinities the largest finite pattern is odd, and as far from the one below it as from the infinity. -/
theorem maxPat_of_infPat {f : Fmt} (fmt : Format f) {inf : Nat} (infinite : f.infPat = some inf) :
    f.maxPat % 2 = 1 ∧ grid f (f.maxPat + 1) + grid f (f.maxPat - 1) = 2 * grid f f.maxPat := by
  obtain ⟨k, half⟩ : ∃ k, 2 ^ f.frac = 2 * k :=
    ⟨2 ^ (f.frac - 1), by rw [Nat.mul_comm, Nat.two_pow_pred_mul_two fmt.frac]⟩
  have pos : 0 < 2 ^ f.frac := by positivity
  have two : 2 ≤ 2 ^ f.exp := Nat.le_self_pow fmt.exp.ne' 2
  obtain ⟨t, count⟩ : ∃ t, 2 ^ f.exp - 1 = t + 1 := ⟨2 ^ f.exp - 2, by omega⟩
  have max : f.maxPat = t * 2 ^ f.frac + (2 ^ f.frac - 1) := by
    cases special : f.special with
    | ieee =>
      rw [Fmt.maxPat, special]
      simp only [count, Nat.succ_mul]
      omega
    | e4m3 => rw [Fmt.infPat, special] at infinite; cases infinite
    | none => rw [Fmt.infPat, special] at infinite; cases infinite
  have even : t * 2 ^ f.frac = 2 * (t * k) := by
    rw [half]
    ring
  have binade_of (d : Nat) (lt : d < 2 ^ f.frac) : binade f (t * 2 ^ f.frac + d) = t - 1 := by
    rw [binade, Nat.add_comm, Nat.add_mul_div_right _ _ pos, Nat.div_eq_of_lt lt, Nat.zero_add]
  have below : f.maxPat - 1 = t * 2 ^ f.frac + (2 ^ f.frac - 2) := by omega
  have last := units_succ f f.maxPat
  have before := units_succ f (f.maxPat - 1)
  rw [Nat.sub_add_cancel (by omega), below, binade_of _ (by omega), ← below] at before
  rw [max, binade_of _ (by omega), ← max] at last
  have sum : units f (f.maxPat + 1) + units f (f.maxPat - 1) = 2 * units f f.maxPat := by omega
  refine ⟨by omega, ?_⟩
  rw [grid_eq, grid_eq, grid_eq, ← add_mul, ← mul_assoc]
  congr 1
  exact_mod_cast sum

/-- Past the largest finite pattern a number overflows. -/
theorem overflows_iff {f : Fmt} (fmt : Format f) {inf : Nat} (infinite : f.infPat = some inf) {r : Rnd} {neg : Bool} {x : ℝ}
    {p : Nat} (rounds : RoundsTo (grid f) r neg x p) : f.maxPat < p ↔ f.overflows r neg x := by
  obtain ⟨odd, even⟩ := maxPat_of_infPat fmt infinite
  have top : ((f.magOf f.maxPat : ℚ) : ℝ) = grid f f.maxPat := by rw [fmt.magOf_eq le_rfl, grid]
  have below : ((f.magOf (f.maxPat - 1) : ℚ) : ℝ) = grid f (f.maxPat - 1) := by rw [fmt.magOf_eq (Nat.sub_le ..), grid]
  rw [rounds.gt_iff (grid_strictMono f) odd, Fmt.overflows, top, below]
  refine and_congr (imp_congr_right fun _ => ?_) (and_congr Iff.rfl (imp_congr_right fun _ => ?_))
  · constructor <;> intro <;> linarith
  · constructor <;> intro <;> linarith

section
variable {f : Fmt} (fmt : Format f) {r : Rnd} {neg : Bool} {m : Nat} {e : Int} {tail : Bool} {x : ℝ}
  (given : f.given m e tail x)
include fmt given

theorem roundVal_rounds : ∃ (p : Nat) (inexact tiny : Bool), RoundsTo (grid f) r neg x p ∧
      (inexact = true ↔ grid f p ≠ x) ∧ (tiny = true ↔ f.isTiny r neg x) ∧
      f.roundVal r (.num neg m e) tail = if f.maxPat < p then overflowed f r neg else delivered f neg p inexact tiny := by
  obtain ⟨-, nonzero, -⟩ := cell_of_given given
  have same : f.roundVal r (.num neg m e) tail = f.roundMag r neg m e tail := by
    obtain ⟨n, rfl⟩ := Nat.exists_eq_succ_of_ne_zero nonzero
    rfl
  rw [same]
  exact roundMag_rounds fmt.frac r neg given

/-- A number that does not overflow is delivered as the pattern that the rounding names. -/
theorem roundVal_finite (finite : (f.roundVal r (.num neg m e) tail).exc.of = false) :
    let o := f.roundVal r (.num neg m e) tail
    ∃ p, o.pat = f.signed neg p ∧ f.isRounded r neg x p ∧ o.exc.nv = false ∧ o.exc.dz = false ∧
      (o.exc.nx = true ↔ ((f.magOf p : ℚ) : ℝ) ≠ x) ∧
      (o.exc.uf = true ↔ ((f.magOf p : ℚ) : ℝ) ≠ x ∧ f.isTiny r neg x) ∧ o.counted = false := by
  intro o
  obtain ⟨p, inexact, tiny, rounds, flag, small, result⟩ := roundVal_rounds fmt given (r := r) (neg := neg)
  have out : o = if f.maxPat < p then overflowed f r neg else delivered f neg p inexact tiny := result
  by_cases past : f.maxPat < p
  · rw [result, if_pos past, overflowed_of] at finite
    nomatch finite
  · rw [out, if_neg past]
    have le : p ≤ f.maxPat := not_lt.mp past
    have value : ((f.magOf p : ℚ) : ℝ) = grid f p := by rw [fmt.magOf_eq le, grid]
    refine ⟨p, rfl, isRounded_of_rounds fmt rounds le, rfl, rfl, ?_, ?_, rfl⟩
    · rw [value, ← flag]
      rfl
    · rw [value, ← flag, ← small]
      exact Bool.and_eq_true_iff

/-- In a format with infinities a number overflows when it rounds past the largest finite one. -/
theorem roundVal_overflow {inf : Nat} (infinite : f.infPat = some inf) :
    let o := f.roundVal r (.num neg m e) tail
    (o.exc.of = true ↔ f.overflows r neg x) ∧ (o.exc.of = true → o.exc = .overflow ∧
      (roundsDown r neg → o.pat = f.signed neg f.maxPat) ∧ (¬ roundsDown r neg → o.pat = f.signed neg inf)) := by
  intro o
  obtain ⟨p, inexact, tiny, rounds, -, -, result⟩ := roundVal_rounds fmt given (r := r) (neg := neg)
  have out : o = if f.maxPat < p then overflowed f r neg else delivered f neg p inexact tiny := result
  rw [← overflows_iff fmt infinite rounds, out]
  by_cases past : f.maxPat < p
  · rw [if_pos past]
    refine ⟨iff_of_true (by rw [overflowed_of]; rfl) past, fun _ => ⟨overflowed_of f r neg, ?_, ?_⟩⟩
    · intro down
      have stays : overflowsToInf r neg = false := Bool.eq_false_iff.mpr fun h => (overflowsToInf_iff r neg).mp h down
      simp [overflowed, infinite, stays]
    · intro other
      simp [overflowed, infinite, (overflowsToInf_iff r neg).mpr other]
  · rw [if_neg past]
    exact ⟨iff_of_false nofun past, nofun⟩

end

/-! ### The value of a pattern -/

/-- A number on the grid of the format is delivered as its own pattern, with no exception. -/
theorem roundVal_point {f : Fmt} (fmt : Format f) (r : Rnd) (neg : Bool) {m : Nat} {e : Int} {p : Nat} (le : p ≤ f.maxPat)
    (value : dyadic m e = point f p) :
    f.roundVal r (.num neg m e) = { pat := f.signed neg p, exc := .none, counted := false } := by
  have mono := grid_strictMono f
  by_cases zero : m = 0
  · subst zero
    have start : grid f 0 = 0 := by simp [grid_eq, units]
    have here : grid f p = 0 := by rw [grid, ← value]; simp [dyadic]
    have none : p = 0 := mono.injective (here.trans start.symm)
    rw [none]
    rfl
  · have given := given_exact f zero e
    rw [value] at given
    obtain ⟨q, inexact, tiny, rounds, flag, -, result⟩ := roundVal_rounds fmt given (r := r) (neg := neg)
    have same : q = p := rounds.eq_of_eq mono rfl
    subst same
    have exact : inexact = false := Bool.eq_false_iff.mpr fun h => flag.mp h rfl
    rw [result, if_neg (not_lt.mpr le), exact]
    rfl

theorem format_roundVal_decode {f : Fmt} (fmt : Format f) (r : Rnd) {u : Nat} (lt : u < 2 ^ f.width)
    (number : (f.decode u).isNan = false) : f.roundVal r (f.decode u) = { pat := u, exc := .none, counted := false } := by
  have fields := fmt.eq_signed lt
  rcases le_or_gt (magField f u) f.maxPat with le | gt
  · obtain ⟨m, e, value, magnitude⟩ := finiteVal_eq f u
    rw [fmt.finite u le, value, roundVal_point fmt r _ le magnitude, ← fields]
  · obtain nan | ⟨value, infinite⟩ := fmt.special u gt
    · rw [nan] at number
      cases number
    · rw [value]
      simp only [Fmt.roundVal, infinite, ← fields]

/-- The number of a finite pattern by its exponent and its fraction (R162, Table 6.1). -/
theorem decode_fields {f : Fmt} (fmt : Format f) (neg : Bool) {e m : Nat} (elt : e < 2 ^ f.exp) (mlt : m < 2 ^ f.frac)
    (le : e * 2 ^ f.frac + m ≤ f.maxPat) :
    (f.decode (f.signed neg (e * 2 ^ f.frac + m))).neg = neg ∧ |(f.decode (f.signed neg (e * 2 ^ f.frac + m))).exact| =
      if e = 0 then (m / 2 ^ f.frac : ℚ) * 2 ^ (1 - f.bias : ℤ)
      else (1 + m / 2 ^ f.frac : ℚ) * 2 ^ (e - f.bias : ℤ) := by
  have power : (2 : ℚ) ^ f.frac ≠ 0 := by positivity
  obtain ⟨sign, field, fraction⟩ := fmt.fields_signed neg elt mlt
  have value := fmt.finite (f.signed neg (e * 2 ^ f.frac + m)) (by rwa [magField, field, fraction])
  rw [value, finiteVal, sign, field, fraction]
  split
  · refine ⟨rfl, ?_⟩
    rw [abs_exact_num, dyadic, Fmt.emin, zpow_sub₀ two_ne_zero, zpow_natCast]
    ring
  · refine ⟨rfl, ?_⟩
    rw [abs_exact_num, dyadic, zpow_sub₀ two_ne_zero (_ - _), zpow_natCast]
    push_cast
    field_simp

end Sys2Proof.Proofs.Rounding

namespace Sys2Proof.Proofs
open Sys2Proof Sys2Proof.Machine Formats Rounding

/-- Settles O22: a format's patterns are a grid of numbers, the model's integer rounding is rounding to that grid, and the
exceptions say how the number lies to it. -/
theorem roundingLaws : Obligations.RoundingLaws := by
  unfold Obligations.RoundingLaws
  refine ⟨fun f r u listed lt number => ?_, fun f neg e m listed => decode_fields (format_of_mem listed) neg,
    fun f r neg m e tail x listed given => ?_⟩
  · rw [format_roundVal_decode (format_of_mem listed) r lt number]
    exact ⟨rfl, rfl, rfl⟩
  · exact ⟨roundVal_finite (format_of_mem listed) given,
      fun inf infinite => roundVal_overflow (format_of_mem listed) given infinite⟩

end Sys2Proof.Proofs
end
section
/-! PROOF. Conversions of exact numbers (R112, R160 to R165, R181 to R183, Table 6.3): the comparison with the end of a range,
the nearest element inside it, and the scale of a block. -/

namespace Sys2Proof.Proofs.Microscale
open Sys2Proof Sys2Proof.Machine Exact Conversion Formats Grid Rounding

/-! ### The exponent of a magnitude -/

theorem dyadic_lt_iff {m n : Nat} {e : Int} : dyadic m e < dyadic n e ↔ m < n := by
  rw [← not_le, dyadic_le_iff, not_le]

theorem dyadic_one (e : Int) : dyadic 1 e = 2 ^ e := by rw [dyadic, Nat.cast_one, one_mul]

/-- The exponent of a magnitude is the power of 2 at or below it. -/
theorem le_expOf_iff {m : Nat} (nonzero : m ≠ 0) {e k : Int} : k ≤ expOf m e ↔ dyadic 1 k ≤ dyadic m e := by
  have low : dyadic 1 (expOf m e) ≤ dyadic m e := by
    rw [expOf, add_comm, ← dyadic_mul_two_pow, Nat.one_mul, dyadic_le_iff]
    exact Nat.log2_self_le nonzero
  have high : dyadic m e < dyadic 1 (expOf m e + 1) := by
    have exponent : expOf m e + 1 = e + (Nat.log2 m + 1 : Nat) := by
      rw [expOf]
      push_cast
      ring
    rw [exponent, ← dyadic_mul_two_pow, Nat.one_mul, dyadic_lt_iff]
    exact Nat.lt_log2_self
  rw [dyadic_one] at low high ⊢
  constructor
  · exact fun le => (zpow_le_zpow_right₀ one_le_two le).trans low
  · intro le
    have := (zpow_lt_zpow_iff_right₀ one_lt_two).mp (le.trans_lt high)
    omega

theorem expOf_eq_of_bounds {m : Nat} (nonzero : m ≠ 0) {e k : Int} (low : dyadic 1 k ≤ dyadic m e)
    (high : dyadic m e < dyadic 1 (k + 1)) : expOf m e = k := by
  have first := (le_expOf_iff nonzero).mpr low
  have last := mt (le_expOf_iff nonzero).mp high.not_ge
  omega

theorem lt_of_expOf_lt {m n : Nat} (left : m ≠ 0) (right : n ≠ 0) {e g : Int} (lt : expOf m e < expOf n g) :
    dyadic m e < dyadic n g :=
  (not_le.mp (mt (le_expOf_iff left).mpr lt.not_ge)).trans_le ((le_expOf_iff right).mp le_rfl)

/-! ### The largest finite number (R165) -/

theorem maxPat_pos {f : Fmt} (listed : f ∈ allFormats) : 0 < f.maxPat :=
  (by decide : ∀ f ∈ allFormats, 0 < f.maxPat) f listed

/-- The largest finite number of a format, as its pattern's mantissa and exponent. -/
theorem decode_maxPat {f : Fmt} (listed : f ∈ allFormats) :
    ∃ neg m e, f.decode f.maxPat = .num neg m e ∧ m ≠ 0 ∧ dyadic m e = f.magOf f.maxPat := by
  have fmt := format_of_mem listed
  obtain ⟨m, e, value, magnitude⟩ := finiteVal_eq f f.maxPat
  have mag : magField f f.maxPat = f.maxPat := (fmt.magField_signed false fmt.top).2
  rw [mag, ← fmt.magOf_eq le_rfl] at magnitude
  refine ⟨_, m, e, (fmt.finite _ mag.le).trans value, ?_, magnitude⟩
  rintro rfl
  have zero : units f f.maxPat = 0 := by
    rw [← dyadic_eq_zero (e := least f), ← point, ← fmt.magOf_eq le_rfl, ← magnitude, dyadic_eq_zero]
  have above := units_strictMono f (maxPat_pos listed)
  omega

/-- The model's comparison with the largest finite number. -/
theorem beyond_iff {f : Fmt} (listed : f ∈ allFormats) {m : Nat} (nonzero : m ≠ 0) (e : Int) :
    f.beyond m e false = true ↔ f.magOf f.maxPat < dyadic m e := by
  obtain ⟨neg, n, g, value, other, magnitude⟩ := decode_maxPat listed
  rw [← magnitude]
  unfold Fmt.beyond
  rw [value]
  dsimp only
  split
  · next differ =>
    rw [decide_eq_true_eq]
    constructor
    · exact lt_of_expOf_lt other nonzero
    · exact fun above => (lt_or_gt_of_ne differ).resolve_left fun lt => above.not_gt (lt_of_expOf_lt nonzero other lt)
  · have align (k : Nat) {h : Int} (le : min e g ≤ h) : dyadic (k * 2 ^ (h - min e g).toNat) (min e g) = dyadic k h := by
      rw [dyadic_mul_two_pow, Int.toNat_of_nonneg (by omega), add_sub_cancel]
    rw [← align m (min_le_left e g), ← align n (min_le_right e g), dyadic_lt_iff]
    simp

/-! ### Into a floating kind -/

theorem convert_zero (f : Fmt) (neg : Bool) (e : Int) :
    f.convert (.num neg 0 e) = { pat := f.signed neg 0, exc := .none, counted := false } := by
  unfold Fmt.convert
  simp only [ne_eq, not_true_eq_false, false_and, if_false]
  rfl

section
variable {f : Fmt} (listed : f ∈ allFormats) (neg : Bool) {m : Nat} {e : Int}
include listed

theorem convert_beyond (beyond : f.magOf f.maxPat < dyadic m e) : f.convert (.num neg m e) = match f.infPat with
    | some inf => { pat := f.signed neg inf, exc := .overflow, counted := false }
    | none => { pat := f.signed neg f.maxPat, exc := .overflow, counted := true } := by
  have nonzero : m ≠ 0 := by
    rintro rfl
    have top : 0 ≤ f.magOf f.maxPat := by
      rw [(format_of_mem listed).magOf_eq le_rfl]
      exact dyadic_nonneg _ _
    rw [dyadic_eq_zero.mpr rfl] at beyond
    exact beyond.not_ge top
  exact if_pos ⟨nonzero, (beyond_iff listed nonzero e).mpr beyond⟩

theorem convert_within (nonzero : m ≠ 0) (within : dyadic m e ≤ f.magOf f.maxPat) :
    f.convert (.num neg m e) = f.roundVal .rne (.num neg m e) ∧ (f.roundVal .rne (.num neg m e)).exc.of = false := by
  have fmt := format_of_mem listed
  refine ⟨if_neg fun h => ((beyond_iff listed nonzero e).mp h.2).not_ge within, ?_⟩
  obtain ⟨p, inexact, tiny, rounds, -, -, result⟩ := roundVal_rounds fmt (given_exact f nonzero e) (r := .rne) (neg := neg)
  have below : ((dyadic m e : ℚ) : ℝ) ≤ grid f f.maxPat := by
    rw [grid, ← fmt.magOf_eq le_rfl]
    exact_mod_cast within
  rw [result, if_neg (rounds.ge_of_le (grid_strictMono f) below).not_gt]
  rfl

theorem convert_rounds (nonzero : m ≠ 0) (within : dyadic m e ≤ f.magOf f.maxPat) :
    let x := dyadic m e
    let o := f.convert (.num neg m e)
    ∃ p, o.pat = f.signed neg p ∧ f.isRounded .rne neg ((x : ℚ) : ℝ) p ∧ o.counted = false ∧
      o.exc.nv = false ∧ o.exc.dz = false ∧ o.exc.of = false ∧ (o.exc.nx = true ↔ f.magOf p ≠ x) ∧
      (o.exc.uf = true ↔ f.magOf p ≠ x ∧ f.isTiny .rne neg ((x : ℚ) : ℝ)) := by
  intro x o
  obtain ⟨same, finite⟩ := convert_within listed neg nonzero within
  obtain ⟨p, pat, rounded, nv, dz, nx, uf, counted⟩ :=
    roundVal_finite (format_of_mem listed) (given_exact f nonzero e) finite
  rw [← same] at pat nv dz nx uf counted finite
  simp only [ne_eq, Rat.cast_inj] at nx uf
  exact ⟨p, pat, rounded, counted, nv, dz, finite, nx, uf⟩

end

/-! ### Into MXINT8 and into the integers -/

/-- An integer is below a magnitude rounded up when it is below the magnitude. -/
theorem lt_roundInt_up_iff (m : Nat) (e c : Int) :
    c < (roundInt .rup false m e false).1 ↔ (c : ℚ) < dyadic m e := by
  have up : ((roundInt .rup false m e false).1 : Int) = ⌈dyadic m e⌉ := roundInt_away (.inr ⟨rfl, rfl⟩) m e
  rw [up, Int.lt_ceil]

theorem exc_of_inexact {inexact : Bool} {exact : Prop} [Decidable exact] (flag : inexact = true ↔ ¬ exact) :
    (if inexact then Exc.inexact else .none) = if exact then .none else .inexact := by
  by_cases same : exact
  · rw [if_pos same, if_neg fun h => flag.mp h same]
  · rw [if_neg same, if_pos (flag.mpr same)]

theorem sixtyfour_mul_dyadic (m : Nat) (e : Int) : 64 * dyadic m e = dyadic m (e + 6) := by
  rw [dyadic, dyadic, zpow_add₀ two_ne_zero]
  norm_num
  ring

/-- A number is clamped into MXINT8 beyond its limits, and is otherwise the nearest multiple of 2^-6. -/
theorem toMxint8_num (neg : Bool) (m : Nat) (e : Int) :
    let y := 64 * dyadic m e
    let o := toMxint8 (.num neg m e)
    let lim : ℚ := if neg then 128 else 127
    (lim < y → o = { pat := if neg then 0x80 else 0x7F, exc := .overflow, counted := true }) ∧
    (y ≤ lim → ∃ k : Nat, 2 * |y - k| ≤ 1 ∧ (2 * |y - k| = 1 → k % 2 = 0) ∧
      o = { pat := if neg then (256 - k) % 256 else k, exc := if (k : ℚ) = y then .none else .inexact,
            counted := false }) := by
  intro y o lim
  have scale : y = dyadic m (e + 6) := sixtyfour_mul_dyadic m e
  have limit : lim = (((if neg then 128 else 127 : Nat) : Int) : ℚ) := by cases neg <;> rfl
  have past := lt_roundInt_up_iff m (e + 6) (if neg then 128 else 127 : Nat)
  rw [← limit, ← scale, Nat.cast_lt] at past
  refine ⟨fun above => if_pos (past.mpr above), fun within => ?_⟩
  obtain ⟨near, tie⟩ := roundInt_nearest neg (.inl rfl : Rnd.rne = .rne ∨ Rnd.rne = .rmm) m (e + 6)
  have inexact := roundInt_inexact .rne neg m (e + 6)
  rw [← scale] at near tie inexact
  refine ⟨_, near, fun half => (tie half).1 rfl, ?_⟩
  rw [← exc_of_inexact inexact]
  exact if_neg (mt past.mp within.not_gt)

/-- Whether a number lies outside a range about 0. -/
theorem outside_iff (neg : Bool) (m : Nat) (e : Int) {lo hi : Int} (low : lo ≤ 0) (high : 0 ≤ hi) :
    outside neg m e lo hi = true ↔ (Val.num neg m e).exact < lo ∨ hi < (Val.num neg m e).exact := by
  have magnitude := dyadic_nonneg m e
  have bottom : (lo : ℚ) ≤ 0 := by exact_mod_cast low
  have top : (0 : ℚ) ≤ hi := by exact_mod_cast high
  cases neg with
  | false =>
    have value : (Val.num false m e).exact = dyadic m e := rfl
    have past : outside false m e lo hi = decide (hi < (roundInt .rup false m e false).1) := rfl
    rw [value, past, decide_eq_true_eq, lt_roundInt_up_iff, or_iff_right (by linarith)]
  | true =>
    have value : (Val.num true m e).exact = -dyadic m e := rfl
    have past : outside true m e lo hi = decide (-((roundInt .rup false m e false).1 : Int) < lo) := rfl
    rw [value, past, decide_eq_true_eq, neg_lt, lt_roundInt_up_iff, or_iff_left (by linarith), Int.cast_neg, neg_lt]

theorem toIntSat_num (neg : Bool) (m : Nat) (e : Int) {lo hi : Int} (low : lo ≤ 0) (high : 0 ≤ hi) :
    let y := (Val.num neg m e).exact
    let o := toIntSat (.num neg m e) lo hi
    ((hi : ℚ) < y → o = (hi, .invalid, true)) ∧ (y < (lo : ℚ) → o = (lo, .invalid, true)) ∧
    ((lo : ℚ) ≤ y → y ≤ (hi : ℚ) → ∃ k : Int, 2 * |y - k| ≤ 1 ∧ (2 * |y - k| = 1 → k % 2 = 0) ∧
      o = (k, if (k : ℚ) = y then .none else .inexact, false)) := by
  intro y o
  have clamps := outside_iff neg m e low high
  have bottom : (lo : ℚ) ≤ 0 := by exact_mod_cast low
  have top : (0 : ℚ) ≤ hi := by exact_mod_cast high
  have sign : if neg then y ≤ 0 else 0 ≤ y := by
    have magnitude := dyadic_nonneg m e
    cases neg
    · exact magnitude
    · exact neg_nonpos.mpr magnitude
  refine ⟨fun above => ?_, fun below => ?_, fun above below => ?_⟩
  · have positive : neg = false := Bool.eq_false_iff.mpr fun negative => by
      rw [if_pos negative] at sign
      linarith
    exact (if_pos (clamps.mpr (.inr above))).trans (by rw [positive]; rfl)
  · have negative : neg = true := by
      by_contra positive
      rw [if_neg positive] at sign
      linarith
    exact (if_pos (clamps.mpr (.inl below))).trans (by rw [negative]; rfl)
  · obtain ⟨inexact, -, -, -, nearest⟩ := roundToInt_rounds .rne neg m e
    obtain ⟨near, tie⟩ := nearest (.inl rfl)
    have inside : ¬ outside neg m e lo hi = true := fun out => (clamps.mp out).elim above.not_gt below.not_gt
    refine ⟨_, near, fun half => (tie half).1 rfl, ?_⟩
    rw [← exc_of_inexact inexact]
    exact if_neg inside

/-! ### The kinds (R160, R162, R164) -/

theorem fmtOfKind_int {k : BitVec 4} (int : k.toNat < 2) : fmtOfKind k = none :=
  (by decide : ∀ k : BitVec 4, k.toNat < 2 → fmtOfKind k = none) k int

theorem not_int_of_fmtOfKind {k : BitVec 4} {f : Fmt} (floating : fmtOfKind k = some f) : ¬ k.toNat < 2 := fun int => by
  rw [fmtOfKind_int int] at floating
  cases floating

theorem kindVal_of_fmt {k : BitVec 4} {f : Fmt} (floating : fmtOfKind k = some f) (w u : Nat) :
    kindVal k w u = f.decode u := by
  unfold kindVal
  rw [floating]

theorem exact_kindVal_mxint8 (u : Nat) : (kindVal 11 8 u).exact = ((BitVec.ofNat 8 u).toInt : ℚ) / 64 := by
  have value : kindVal 11 8 u = ofMxint8 u := rfl
  rw [value, ofMxint8, Arithmetic.exact_int, div_eq_mul_inv]
  norm_num

/-! ### VCVT (R181) -/

section
variable (t : VT) (v : Val)

theorem ofVal_int (int : t.kind.toNat < 2) : t.ofVal v = { t.put (t.trunc (toIntSat v t.lo t.hi).1) with
    count := if (toIntSat v t.lo t.hi).2.2 then 1 else 0, exc := (toIntSat v t.lo t.hi).2.1 } := by
  unfold VT.ofVal
  rw [fmtOfKind_int int]
  exact if_pos (decide_eq_true int)

theorem ofVal_fmt {f : Fmt} (floating : fmtOfKind t.kind = some f) : t.ofVal v =
    { t.put (f.convert v).pat with count := if (f.convert v).counted then 1 else 0, exc := (f.convert v).exc } := by
  unfold VT.ofVal
  rw [floating]

theorem ofVal_mxint8 (mx : t.kind = 11) : t.ofVal v =
    { t.put (toMxint8 v).pat with count := if (toMxint8 v).counted then 1 else 0, exc := (toMxint8 v).exc } := by
  have fmt : fmtOfKind t.kind = none := by rw [mx]; rfl
  have int : t.isInt = false := by rw [VT.isInt, mx]; rfl
  unfold VT.ofVal
  rw [fmt]
  exact if_neg (by rw [int]; exact Bool.false_ne_true)

end

theorem cvtElem_int {h : Hart} {t : VT} {c : ConvSrc} (a : Reg) (i : Nat) (source : c.kind.toNat < 2)
    (dest : t.kind.toNat < 2) :
    cvtElem h t c a i = t.wr (extPat (c.kind == 0) (h.pat a i c.width) c.width) true :=
  if_pos ⟨source, decide_eq_true dest⟩

theorem cvtElem_ofVal {h : Hart} {t : VT} {c : ConvSrc} (a : Reg) (i : Nat)
    (other : ¬ (c.kind.toNat < 2 ∧ t.kind.toNat < 2)) :
    cvtElem h t c a i = t.ofVal (kindVal c.kind c.width (h.pat a i c.width)) :=
  if_neg fun both => other ⟨both.1, of_decide_eq_true both.2⟩

/-! ### A block of VQUANT (R182) -/

theorem foldl_max_of_le {l : List Int} {a : Int} (le : ∀ x ∈ l, x ≤ a) : l.foldl (fun a x => max a x) a = a := by
  induction l with
  | nil => rfl
  | cons y l ih =>
    rw [List.foldl_cons, max_eq_left (le y List.mem_cons_self)]
    exact ih fun x listed => le x (List.mem_cons_of_mem y listed)

/-- The maximum of a list that holds its bound. -/
theorem foldl_max_eq {l : List Int} {top : Int} (le : ∀ x ∈ l, x ≤ top) (listed : top ∈ l) (a : Int) :
    l.foldl (fun a x => max a x) a = max a top := by
  induction l generalizing a with
  | nil => cases listed
  | cons y l ih =>
    have rest : ∀ x ∈ l, x ≤ top := fun x later => le x (List.mem_cons_of_mem y later)
    rw [List.foldl_cons]
    obtain rfl | later := List.mem_cons.mp listed
    · exact foldl_max_of_le fun x later => (rest x later).trans (le_max_right ..)
    · rw [ih rest later, max_assoc, max_eq_right (le y List.mem_cons_self)]

/-- The exponent of a finite value that is not 0. -/
def exponent? : Val → Option Int
  | .num _ m e => if m = 0 then none else some (expOf m e)
  | _ => none

theorem topExp_eq (vs : List Val) : topExp vs = (vs.filterMap exponent?).foldl (fun a x => max a x) (-100000) := by
  unfold topExp
  refine congrArg (fun g : Val → Option Int => (vs.filterMap g).foldl (fun a x => max a x) (-100000)) (funext fun v => ?_)
  cases v <;> rfl

theorem exponent?_eq_some {v : Val} {k : Int} (some : exponent? v = some k) : dyadic 1 k ≤ |v.exact| := by
  cases v with
  | nan s => cases some
  | inf n => cases some
  | num neg m e =>
    rw [exponent?] at some
    split at some
    · cases some
    · next nonzero =>
      cases some
      rw [abs_exact_num]
      exact (le_expOf_iff nonzero).mp le_rfl

theorem exponent?_of_bounds {v : Val} {k : Int} (low : dyadic 1 k ≤ |v.exact|) (high : |v.exact| < dyadic 1 (k + 1)) :
    exponent? v = some k := by
  have positive : 0 < dyadic 1 k := by
    rw [dyadic_one]
    exact zpow_pos two_pos k
  cases v with
  | nan s =>
    simp only [Val.exact, abs_zero] at low
    exact absurd low positive.not_ge
  | inf n =>
    simp only [Val.exact, abs_zero] at low
    exact absurd low positive.not_ge
  | num neg m e =>
    rw [abs_exact_num] at low high
    have nonzero : m ≠ 0 := fun zero => (positive.trans_le low).ne' (dyadic_eq_zero.mpr zero)
    rw [exponent?, if_neg nonzero, expOf_eq_of_bounds nonzero low high]

/-- The largest exponent among values is that of the largest magnitude. -/
theorem topExp_of_bounds {vs : List Val} {top : Int} (high : ∀ v ∈ vs, |v.exact| < dyadic 1 (top + 1))
    (low : ∃ v ∈ vs, dyadic 1 top ≤ |v.exact|) : topExp vs = max (-100000) top := by
  rw [topExp_eq]
  refine foldl_max_eq (fun k listed => ?_) ?_ _
  · obtain ⟨v, inside, some⟩ := List.mem_filterMap.mp listed
    have below := (exponent?_eq_some some).trans_lt (high v inside)
    rw [dyadic_one, dyadic_one] at below
    have := (zpow_lt_zpow_iff_right₀ one_lt_two).mp below
    omega
  · obtain ⟨v, inside, le⟩ := low
    exact List.mem_filterMap.mpr ⟨v, inside, exponent?_of_bounds le (high v inside)⟩

/-- A value is an infinity. -/
def isInf : Val → Bool
  | .inf _ => true
  | _ => false

/-- The scale code of a block with a number that is not 0 and without a NaN (R182). -/
def blockCode (t : VT) (vs : List Val) : Nat :=
  if vs.any isInf then 254 else (max 0 (min (topExp vs - mxEmax t.kind + 127) 254)).toNat

/-- An element of a block under its scale code (R182). -/
def blockElem (t : VT) (code : Nat) (v : Val) : Elem :=
  let e := t.ofVal (v.scaleDown (code - 127))
  if code = 0 ∧ !v.isZero ∧ (kindVal t.kind t.wd (e.pat % 2 ^ t.wd)).isZero then { e with count := e.count + 1 } else e

theorem quantBlock_numbers {t : VT} {vs : List Val} (numbers : vs.any Val.isNan = false)
    (nonzero : vs.all Val.isZero = false) :
    quantBlock t vs = { code := blockCode t vs, elems := vs.map (blockElem t (blockCode t vs)), exc := .none } := by
  unfold quantBlock
  rw [if_neg (by simp [numbers]), if_neg (by simp [nonzero])]
  rfl

/-- Zeros are not NaNs. -/
theorem quantBlock_zeros (t : VT) {vs : List Val} (zeros : vs.all Val.isZero = true) :
    quantBlock t vs = { code := 0x7F, elems := vs.map (fun _ => { pat := 0 }), exc := .none } := by
  have numbers : vs.any Val.isNan = false := by
    rw [List.any_eq_false]
    intro v listed nan
    have zero := List.all_eq_true.mp zeros v listed
    cases v with
    | nan s => cases zero
    | inf n => cases nan
    | num n m e => cases nan
  unfold quantBlock
  rw [if_neg (by simp [numbers]), if_pos zeros]

theorem blockCode_of_inf (t : VT) {vs : List Val} {neg : Bool} (listed : Val.inf neg ∈ vs) : blockCode t vs = 254 :=
  if_pos (List.any_eq_true.mpr ⟨_, listed, rfl⟩)

theorem mxEmax_eq {k : BitVec 4} (mx : isMxKind k = true) : mxEmax k = [8, 15, 2, 4, 2, 0].getD (k.toNat - 6) 0 :=
  (by decide : ∀ k : BitVec 4, isMxKind k = true → mxEmax k = [8, 15, 2, 4, 2, 0].getD (k.toNat - 6) 0) k mx

theorem mxEmax_nonneg (k : BitVec 4) : 0 ≤ mxEmax k := (by decide : ∀ k : BitVec 4, 0 ≤ mxEmax k) k

/-- The code of a block is its largest exponent less emax, clamped. -/
theorem blockCode_of_bounds (t : VT) {vs : List Val} {top : Int} (finite : ∀ neg, Val.inf neg ∉ vs)
    (high : ∀ v ∈ vs, |v.exact| < dyadic 1 (top + 1)) (low : ∃ v ∈ vs, dyadic 1 top ≤ |v.exact|) :
    (blockCode t vs : Int) = max 0 (min (top - mxEmax t.kind + 127) 254) := by
  have none : ¬ vs.any isInf = true := by
    rw [List.any_eq_true]
    rintro ⟨v, listed, some⟩
    cases v with
    | nan s => cases some
    | inf n => exact finite n listed
    | num n m e => cases some
  have emax := mxEmax_nonneg t.kind
  rw [blockCode, if_neg none, topExp_of_bounds high low]
  omega

theorem blockElem_eq (t : VT) (code : Nat) (v : Val) : blockElem t code v =
    let e : Elem := t.ofVal (match v with
      | .num neg m x => .num neg m (x - (code - 127))
      | v => v)
    if code = 0 ∧ v.isZero = false ∧ (kindVal t.kind t.wd (e.pat % 2 ^ t.wd)).isZero = true then
      { e with count := e.count + 1 } else e := by
  unfold blockElem
  simp only [Bool.not_eq_true']
  cases v <;> rfl

/-! ### VDEQ (R183) -/

theorem deqElem_eq (h : Hart) (t : VT) (c : ConvSrc) (a : Reg) (i : Nat) :
    let code := ((h.qr a).scales.getD (i / 32) 0).toNat
    let e := kindVal c.kind c.width (h.pat a i c.width)
    ((code = 0xFF ∨ e.isNan = true) → deqElem h t c a i = { t.put t.fmt.nanPat with exc := Exc.nvIf e.isSnan }) ∧
    (code ≠ 0xFF → e.isZero = true → deqElem h t c a i = t.put (t.fmt.signed e.neg 0)) ∧
    (code ≠ 0xFF → ∀ neg m x, e = .num neg m x → m ≠ 0 → deqElem h t c a i = t.ofVal (.num neg m (x + (code - 127)))) ∧
    (code ≠ 0xFF → ∀ neg, e = .inf neg → deqElem h t c a i = t.ofVal (.inf neg)) := by
  intro code e
  have unfolded : deqElem h t c a i =
      if code = 0xFF ∨ e.isNan then { t.put t.fmt.nanPat with exc := Exc.nvIf e.isSnan }
      else if e.isZero then t.put (t.fmt.signed e.neg 0)
      else match e with
        | .num n m x => t.ofVal (.num n m (x + code - 127))
        | v => t.ofVal v := rfl
  rw [unfolded]
  refine ⟨fun nan => if_pos nan, fun other zero => ?_, fun other neg m x value nonzero => ?_, fun other neg value => ?_⟩
  · have number : e.isNan = false := by
      cases value : e with
      | nan s => rw [value] at zero; cases zero
      | inf n => rfl
      | num n m x => rfl
    rw [if_neg (by simp [other, number]), if_pos zero]
  · rw [value, if_neg (by simp [other, Val.isNan]), if_neg (by simpa [Val.isZero] using nonzero)]
    dsimp only
    rw [add_sub_assoc]
  · rw [value, if_neg (by simp [other, Val.isNan]), if_neg (by simp [Val.isZero])]

end Sys2Proof.Proofs.Microscale

namespace Sys2Proof.Proofs
open Sys2Proof Sys2Proof.Machine Microscale

/-- Settles O37: the model compares the exact magnitude with the end of the range and rounds inside it, and a block's code is
its largest exponent. -/
theorem microscaleConversions : Obligations.MicroscaleConversions := by
  unfold Obligations.MicroscaleConversions
  refine ⟨fun f neg m e listed => ?floating, fun neg m e => ?mxint8, fun neg m e lo hi low high => ?integer,
    fun w u => ?kinds, fun h t c a i => ?vcvt, fun t vs mx => ?block, deqElem_eq⟩
  case floating =>
    refine ⟨?_, convert_beyond listed neg, convert_rounds listed neg, rfl, fun sig => rfl⟩
    rintro rfl
    exact convert_zero f neg e
  case mxint8 =>
    obtain ⟨beyond, within⟩ := toMxint8_num neg m e
    exact ⟨beyond, within, rfl, fun sig => rfl⟩
  case integer =>
    obtain ⟨above, below, within⟩ := toIntSat_num neg m e low high
    exact ⟨above, below, within, rfl, fun sig => rfl⟩
  case kinds =>
    exact ⟨rfl, rfl, exact_kindVal_mxint8 u, fun k f floating => kindVal_of_fmt floating w u⟩
  case vcvt =>
    refine ⟨cvtElem_int a i, fun source dest => ?_, fun f floating => ?_, fun mx => ?_⟩
    · rw [cvtElem_ofVal a i fun both => both.1.not_ge source, ofVal_int t _ dest]
    · rw [cvtElem_ofVal a i fun both => not_int_of_fmtOfKind floating both.2, ofVal_fmt t _ floating]
    · rw [cvtElem_ofVal a i fun both => by rw [mx] at both; exact absurd both.2 (by decide), ofVal_mxint8 t _ mx]
  case block =>
    intro b emax
    refine ⟨fun nan => if_pos nan, quantBlock_zeros t, fun numbers nonzero => ?_⟩
    have block : b = { code := blockCode t vs, elems := vs.map (blockElem t (blockCode t vs)), exc := .none } :=
      quantBlock_numbers numbers nonzero
    rw [block]
    refine ⟨rfl, fun ⟨neg, listed⟩ => blockCode_of_inf t listed, fun top finite high low => ?_, ?_⟩
    · exact (blockCode_of_bounds t finite high low).trans (by rw [mxEmax_eq mx])
    · exact List.map_congr_left fun v _ => blockElem_eq t _ v

end Sys2Proof.Proofs
end
